-- ==== Sys2Proof/Word.lean ====
section
/-! DEFINITION. The words the PX418's ports carry: a byte (R184) and a two-byte field. -/

namespace Sys2Proof

/-- One byte of a frame, a transaction or a converter message (12_frame_and_message_formats.md, R184). -/
abbrev Byte := BitVec 8

/-- A two-byte field as a bit pattern: a CRC-16 or a fingerprint (R178, R184). -/
abbrev Half := BitVec 16

end Sys2Proof
end

