-- ==== Sys2Proof/Config.lean ====
section
/-! DEFINITION. What the part fixes: the constants of the spec, and the FREE VALUES, which are the values the spec
leaves unstated. A free value is an opaque constant: nothing in Lean can evaluate it or prove a value of it. -/

namespace Sys2Proof.Config

/-- Quanta of the map, numbered 0 to 127 (R1). -/
def quanta : Nat := 128
/-- Places of the transmit queue (R102). -/
def queuePlaces : Nat := 8
/-- Places of the notice queue (R170). -/
def noticePlaces : Nat := 16
/-- The level above which an INFO notice is withheld (R171). -/
def infoLevel : Nat := 8
/-- Bookings of the table (R165). -/
def bookings : Nat := 12
/-- Offers of the offer list (R4). -/
def offerPlaces : Nat := 4
/-- Settle time of a claim, ms (R19). -/
def settleMs : Nat := 50
/-- Drain timeout, ms (R86). -/
def drainMs : Nat := 2000
/-- Life of a promise, ms (R97). -/
def promiseMs : Nat := 2500
/-- Answer timeout of a yield request, ms (R96). -/
def answerMs : Nat := 100
/-- PERSIST asks the same donor again within this time of its first request, ms (Table 37). -/
def persistMs : Nat := 400
/-- Refresh period of the setpoint, ms (R131). -/
def refreshMs : Nat := 100
/-- Meter silence, ms (R133). -/
def silenceMs : Nat := 500
/-- A response becomes ready this long after the taking, ms (R175). -/
def readyMs : Nat := 1
/-- First and longest mute hold time, ms (R150). -/
def muteHoldMin : Nat := 1000
def muteHoldMax : Nat := 8000
/-- Consecutive transmit errors that mute the station (R149). -/
def muteThreshold : Nat := 16
/-- Retry count at which a further transmit error drops the frame (R148). -/
def retryLimit : Nat := 3
/-- Receive error run that sets RATE_SUSPECT (R143). -/
def runLimit : Nat := 8
/-- Margin of the slack, s (R62). -/
def slackMargin : Nat := 60
/-- Idle count at which an attempt may start, bit times (R145). -/
def idleBits : Nat := 12
/-- Length of a break, bit times (R151). -/
def breakBits : Nat := 40
/-- Recessive bit times after which the receiver takes a start bit, and within a frame the failure of one that is due; the
same length of a dominant run makes the receiver stop (R142, R144). -/
def resumeBits : Nat := 10
/-- Length of a dominant run that is a break, bit times (R144). -/
def breakSeen : Nat := 20
/-- Longest frame on the line, bit times (R141). -/
def frameBitsMax : Nat := 370
/-- Start bit and data bits of the arbitration character, within which alone arbitration can be lost (R146). -/
def arbitrationBits : Nat := 9
/-- Idle time that ends a message received on the Converter Port, µs (R187). -/
def messageGapUs : Nat := 1000
/-- Joules of one energy unit (R115). -/
def joulesPerUnit : Nat := 36000
/-- Tolerance of the drain confirmation and limit of the low-power test, power units (R87, R88). -/
def drainTolerance : Nat := 5
/-- Part code and silicon revision (R179). -/
def partCode : Nat := 0x418
def revision : Nat := 3
/-- The latest setpoint limits kept to order reports and messages. A meter report lasts under 7 ms and a setpoint
message over 0.3 ms (R187), so at most 20 messages complete while one report is received. -/
def limitsKept : Nat := 32

/-- FREE VALUE (log 8): the detail byte of a response whose command gives it no meaning, by command code (R176). -/
opaque unusedDetail : Nat → Byte

/-- FREE VALUE (log 9): the bytes of a field wider than one byte that is absent, by field and byte (R127, R184). -/
opaque absentByte : Nat → Nat → Byte

/-- FREE VALUE (log 10): the byte STATUS reports for a need below 0, by how far it lies below (R83, R84). -/
opaque negativeNeed : Nat → Byte

/-- FREE VALUE (log 11): the fingerprint-seen flag READ PEER reports for the own number (R43). -/
opaque ownFingerprintSeen : Byte

/-- FREE VALUE (log 12): what a flag byte that is neither 0 nor 1 is taken for (R184, Table 74). -/
opaque oddFlag : Byte → Bool

/-- FREE VALUE (log 13): the time left STATUS reports for a trip hold timer that is not running, ms (R164). -/
opaque stoppedHoldLeft : Nat

end Sys2Proof.Config
end

