-- ==== Sys2Proof/Syntax.lean ====
section
/-! DEFINITION. The commands of the PX418, one constructor per row of spec/opcode_table.json.

The table gives no bits and no operands, so a constructor carries what the spec gives its row: the payload of a
Cabinet Port command (R186, Table 74), the sender and the payload bytes of a frame heard (Table 73), the bytes of a
meter report (R187), or the station an event is about. -/

namespace Sys2Proof

/-- The nine frame kinds of Table 73. -/
inductive FrameKind where
  | contest | yieldAns | release | yieldReq | claim | budget | report | join | leave
  deriving DecidableEq, Repr

/-- The payload of a Cabinet Port command, as its transaction gives it with its payload length (R186). -/
inductive Payload where
  /-- The bytes the payload length announces, all of them clocked in. -/
  | whole (bytes : List Byte)
  /-- The transaction ended with fewer `bytes` of payload than the `announced` payload length. -/
  | cut (announced : Byte) (bytes : List Byte)
  deriving DecidableEq, Repr

/-- The commands. `p` is the payload of a Cabinet Port command or of a Pad Link frame, `sender` the station number
of a frame's arbitration character. -/
inductive Instr where
  -- pins
  /-- RESETN or power-on; `stn` is the strapping of STN[4:0] sampled at it (R183). -/
  | hardwareReset (stn : BitVec 5)
  | tripAsserted
  | tripDeasserted
  | offlineAsserted
  -- Cabinet Port commands
  | identify (p : Payload)
  | configure (p : Payload)
  | start (p : Payload)
  | status (p : Payload)
  | clearFlags (p : Payload)
  | admitSession (p : Payload)
  | vehicleUpdate (p : Payload)
  | undock (p : Payload)
  | abortSession (p : Payload)
  | suspend (p : Payload)
  | resume (p : Payload)
  | budgetOffer (p : Payload)
  | isolate (p : Payload)
  /-- `offlineLevel` is the level of the OFFLINE input, true for asserted, at the taking (R162). -/
  | rejoin (p : Payload) (offlineLevel : Bool)
  | restart (p : Payload)
  | book (p : Payload)
  | unbook (p : Payload)
  | clearAction (p : Payload)
  | fetchNotice (p : Payload)
  | readPeer (p : Payload)
  | readQuanta (p : Payload)
  | readSession (p : Payload)
  | readResult (p : Payload)
  /-- A command transaction whose code names no command (R176). -/
  | unknownCommand (code : Byte) (p : Payload)
  /-- A fetch transaction; `clocked` bytes are clocked out after the opening byte (R175, R186). -/
  | fetchResponse (clocked : Nat)
  /-- A transaction that is neither a command nor a fetch (R175, R186). -/
  | invalidTransaction (bytes : List Byte)
  | responseReady
  -- frames heard from another station
  | claim (sender : BitVec 5) (p : List Byte)
  | contest (sender : BitVec 5) (p : List Byte)
  | release (sender : BitVec 5) (p : List Byte)
  | report (sender : BitVec 5) (p : List Byte)
  | join (sender : BitVec 5) (p : List Byte)
  | leave (sender : BitVec 5) (p : List Byte)
  | budget (sender : BitVec 5) (p : List Byte)
  | yieldReq (sender : BitVec 5) (p : List Byte)
  | yieldAns (sender : BitVec 5) (p : List Byte)
  /-- A valid frame with the own station number that is not an echo (R58). -/
  | duplicateFrame (kind : FrameKind)
  -- events of the line
  | receiveError
  | dominantRun
  | breakDetected
  | breakEnded
  | transmitAttemptStart
  | goodEcho
  | lostArbitration
  | transmitError
  -- expiries and limits
  | offerExpiry (source : BitVec 5)
  | settleExpiry
  /-- `offlineLevel` is the level of the OFFLINE input sampled at the expiry (R56). -/
  | listeningExpiry (offlineLevel : Bool)
  | peerSilenceLimit (station : BitVec 5)
  | peerExpulsionLimit (station : BitVec 5)
  | epochExpiry
  | drainTimeout
  | quiesceExpiry
  | lostQuiesceExpiry
  | promiseExpiry
  | answerTimeout
  -- Converter Port
  | setpointRefresh
  | setpointMessageSent
  /-- A meter report of seven bytes; `overlap` setpoint messages completed while it was being received (R133). -/
  | meterReport (msg : List Byte) (overlap : Nat)
  | meterReportDiscarded
  | meterSilenceExpiry
  -- further expiries and limits
  | muteHoldExpiry
  | tripHoldExpiry
  | isolationSilenceLimit
  | echoSilenceLimit
  | deadlineRunOut
  | stepDurationReached
  deriving DecidableEq, Repr

end Sys2Proof
end

