-- ==== Sys2Proof/Machine/State.lean ====
section
/-! DEFINITION. The state of the PX418, grouped by the blocks of 00_scope.md (Table 1), as plain data; the reasons a
step can stop; and the state after a hardware reset. -/

namespace Sys2Proof.Machine

/-! ## Enumerations (Table 72 gives the order of each) -/

/-- Station mode (R155). -/
inductive Mode where
  | unconfigured | configured | listening | active | isolated | muted | tripped | offline
  deriving DecidableEq, Repr

/-- Session state as it is reported (R106, Table 72). -/
inductive SessState where
  | empty | charging | suspended | complete | ending
  deriving DecidableEq, Repr

/-- Drain reason (Table 10). -/
inductive DrainReason where
  | surplus | yield | withdrawal | conflict | isolation | shutdown
  deriving DecidableEq, Repr

/-- State of a peer entry (R42, R43). -/
inductive PeerState where
  | absent | live | silent | expelled | left | mismatched | self
  deriving DecidableEq, Repr

/-- Kind of a plan step (Table 44). -/
inductive StepKind where
  | bulk | taper | topup | hold | halt
  deriving DecidableEq, Repr

/-- Converter state (R128). -/
inductive ConvState where
  | ready | running | limiting | fault | lost
  deriving DecidableEq, Repr

/-- Suspension reason (R120). -/
inductive SuspReason where
  | converter | trip | offline | booking | command
  deriving DecidableEq, Repr

/-- Action of a booking (R169). -/
inductive Action where
  | notify | shed | freeze | suspend
  deriving DecidableEq, Repr

/-- A level of the pair for one bit time. -/
inductive Level where
  | dominant | recessive
  deriving DecidableEq, Repr

/-- Sweep policy (Table 37). -/
inductive Policy where
  | stop | continue_ | persist | rotate
  deriving DecidableEq, Repr

/-- Disposition of a yield request (R93, R94). -/
inductive Disposition where
  | surplus | home
  deriving DecidableEq, Repr

/-- Refusal reason of a yield answer (R99). -/
inductive YieldReason where
  | none | noSurplus | notHeld | alreadyPromised
  deriving DecidableEq, Repr

/-- System notices (Table 66). -/
inductive SysCode where
  | configMismatch | rateSuspect | duplicateStation | txDropped | drainStuck | converterFault | meterLost | sessionEnd
  deriving DecidableEq, Repr

/-- Cause with which a step ended (R113). -/
inductive EndCause where
  | energy | duration | acceptance | deadline
  deriving DecidableEq, Repr

/-- Why a session ended (R125). -/
inductive EndReason where
  | undocked | aborted
  deriving DecidableEq, Repr

/-- Transmitter state (R140). -/
inductive Transmitter where
  | off | on | probe
  deriving DecidableEq, Repr

/-! ## Configuration -/

/-- The configuration record (Table 69), with the defaults of R177 applied. -/
structure Cfg where
  qs : Nat
  bCfg : Nat
  bSafe : Nat
  sSolo : Nat
  h : Nat
  nSt : Nat
  tEp : Nat
  lSil : Nat
  lExp : Nat
  tQ : Nat
  tripHold : Nat
  /-- position of the sweep policy in Table 72 -/
  policy : Nat
  d : Nat
  pMax : Nat
  pMin : Nat
  attention : Nat
  deriving DecidableEq, Repr

/-! ## Pad Link frames and the transmit queue -/

/-- A Pad Link frame, by the fields of Table 73. Quanta, stations and codes stand as the numbers their bytes carry. -/
inductive Frame where
  | contest (quanta : List Nat)
  | yieldAns (requester reason : Nat) (granted : List Nat)
  | release (beneficiary : Option Nat) (quanta : List Nat)
  | yieldReq (target count : Nat) (disp : Disposition) (listed : List Nat)
  | claim (quanta : List Nat)
  | budget (source value seq hold : Nat)
  | report (seq tier weight want floor sess tag : Nat) (holdings : List Nat) (fingerprint : Half)
  | join (fingerprint : Half) (nSt h : Nat)
  | leave
  deriving DecidableEq, Repr

/-- A frame in the queue or among the waiting frames (R102, R104): its age stamp and its retry count (R148). -/
structure QFrame where
  id : Nat
  frame : Frame
  retry : Nat
  deriving DecidableEq, Repr

/-- What the Link Controller is sending (Table 55): the frame with an age stamp, the probe with the JOIN it carries
(R150), or a break (R151). `us` counts the microseconds since the start. `last` says that the attempt is not made again
should it fail (R83, R151) and, for the probe, that it has been abandoned (R150). -/
inductive Attempt where
  | frame (id us : Nat) (last : Bool)
  | probe (join : Frame) (us : Nat) (last : Bool)
  | brk (us : Nat)
  deriving DecidableEq, Repr

/-- Link Controller (Table 55). -/
structure Link where
  queue : List QFrame
  waiting : List QFrame
  /-- the MODEL's own: the age stamp of the next frame -/
  nextId : Nat
  tx : Transmitter
  attempt : Option Attempt
  /-- a break asked for while an own attempt is in progress (R151) -/
  breakDue : Bool
  /-- microseconds the line has been recessive; the idle count is its number of bit times (R145) -/
  quietUs : Nat
  /-- the MODEL's own: microseconds that have passed since the clock's last ms -/
  clockUs : Fin 1000
  /-- an input, as the queue of commands is: the levels in which the other stations drive the line in the bit times to
  come, as far as they are told; past them the line is recessive (log 4) -/
  line : List Level
  /-- microseconds that have passed of the first of these levels -/
  lineUs : Nat
  /-- the MODEL's own: microseconds for which the frame that won the arbitration may still hold the line (R141, R146) -/
  heldUs : Nat
  txErrors : Nat
  rxErrors : Nat
  listenErrors : Nat
  rxRun : Nat
  rateSuspect : Bool
  muteHold : Nat
  muteAt : Option Nat
  probeDue : Bool
  deriving DecidableEq, Repr

/-! ## Budget Unit -/

/-- One offer of the offer list (R4); `expiry` is in ms since START. -/
structure Offer where
  source : Nat
  value : Nat
  seq : Nat
  expiry : Nat
  deriving DecidableEq, Repr

/-- Budget Unit (R4, R7, R12). -/
structure Budget where
  offers : List Offer
  seen : Bool
  bEff : Nat
  ownSeq : Nat
  deriving DecidableEq, Repr

/-! ## Quantum Map Unit -/

/-- One map entry with the fields its state has (Table 10). For Draining, `beneficiary` is the requester of a Yield
or the winner of a Conflict. -/
inductive QEntry where
  | free
  | withdrawn
  | pending
  | mine
  | draining (reason : DrainReason) (beneficiary : Option Nat)
  | held (holder : Nat) (promised : Bool)
  deriving DecidableEq, Repr

/-! ## Peer Table Unit -/

/-- A peer's bid as REPORT recorded it (R48). -/
structure PeerBid where
  tier : Nat
  weight : Nat
  want : Nat
  floor : Nat
  deriving DecidableEq, Repr

/-- Peer entry (Table 16). `heardAt` is the time of the last valid frame, from which the time since it is formed. -/
structure Peer where
  state : PeerState
  bid : Option PeerBid
  lastSeq : Nat
  summary : Option (SessState × Nat)
  heardAt : Option Nat
  unanswered : Nat
  fpSeen : Bool
  lastRefusal : Option YieldReason
  deriving DecidableEq, Repr

/-- Peer Table Unit (R42, R52). -/
structure PeerTable where
  entries : List Peer
  lineHeard : Option Nat
  lineCleared : Nat
  deriving DecidableEq, Repr

/-! ## Allocation Engine -/

/-- The five computation flags (R80). -/
structure CompFlags where
  inexact : Bool
  floorShort : Bool
  saturated : Bool
  spare : Bool
  reserved : Bool
  deriving DecidableEq, Repr

/-- Result record (Table 24). -/
structure Result where
  seq : Nat
  bEff : Nat
  reserved : Nat
  a : Nat
  participants : List Nat
  targets : List Nat
  ownTarget : Nat
  ownWant : Nat
  ownFloor : Nat
  spareCount : Nat
  flags : CompFlags
  deriving DecidableEq, Repr

/-- Allocation Engine (R68, R69, R79, R80). -/
structure Alloc where
  epochAt : Option Nat
  seq : Nat
  result : Option Result
  sticky : CompFlags
  lastReportSeq : Nat
  deriving DecidableEq, Repr

/-! ## Holdings Controller -/

/-- The station's claim: queued or on the line, or in settle until a time (R19, R20). -/
inductive Claim where
  | queued (quanta : List Nat)
  | settling (quanta : List Nat) (expiry : Nat)
  deriving DecidableEq, Repr

/-- The outstanding yield request (Table 36). `ofSweep` says that the present sweep sent it. `answered` says that an answer
of its target has been heard in a mode in which R97 has it ignored, so that R51 does not count the request unanswered. -/
structure Request where
  target : Nat
  disp : Disposition
  count : Nat
  listed : List Nat
  echoAt : Option Nat
  ofSweep : Bool
  answered : Bool
  deriving DecidableEq, Repr

/-- Where the sweep stands: the stations still to visit, the present donor first (R93 to R95). -/
inductive SweepStage where
  | home (rest : List Nat)
  | donors (rest : List Nat)
  deriving DecidableEq, Repr

/-- An active sweep (Table 36); `firstAt` is the time of the first request to the present donor. -/
structure Sweep where
  stage : SweepStage
  firstAt : Option Nat
  deriving DecidableEq, Repr

/-- A promise (R97). -/
structure Promise where
  donor : Nat
  quanta : List Nat
  expiry : Nat
  deriving DecidableEq, Repr

/-- An entry of the drain list (R86): its time of entry, the expiry of its drain timeout, its phase, and its
drain-confirm mark as the number of setpoint messages complete once its at-once message was (R131). -/
structure Drain where
  quantum : Nat
  entered : Nat
  timeoutAt : Nat
  stuck : Bool
  mark : Option Nat
  deriving DecidableEq, Repr

/-- Holdings Controller (Table 36). -/
structure Holdings where
  target : Nat
  claim : Option Claim
  request : Option Request
  sweep : Option Sweep
  sweepRun : Bool
  rotate : Nat
  promises : List Promise
  drains : List Drain
  stuck : Bool
  quiesceAt : Option Nat
  needOpen : Bool
  lastRefusal : Option YieldReason
  deriving DecidableEq, Repr

/-! ## Session Sequencer -/

/-- A plan step (Table 44). -/
structure PlanStep where
  kind : StepKind
  cap : Nat
  endEnergy : Nat
  endDuration : Nat
  endAcceptance : Nat
  endAtDeadline : Bool
  deriving DecidableEq, Repr

/-- State of a session that is present, with the fields of that state (Table 43). -/
inductive SessPhase where
  | charging
  | suspended (reason : SuspReason)
  | complete
  | ending (reason : EndReason) (left : SessState)
  deriving DecidableEq, Repr

/-- Session record and plan (Table 43, Table 44). -/
structure Session where
  phase : SessPhase
  tag : Nat
  eReq : Nat
  pAcc : Nat
  deadline : Nat
  admittedAt : Nat
  runOut : Bool
  critical : Bool
  stepIndex : Nat
  /-- the current step has been entered by R112 -/
  entered : Bool
  stepTime : Nat
  joules : Nat
  stepMark : Nat
  delivered : Nat
  stepEnergy : Nat
  eRem : Nat
  stepsDone : Nat
  lastEnd : Option EndCause
  plan : List PlanStep
  deriving DecidableEq, Repr

/-- The current bid with its working values (R60). -/
structure Bid where
  tier : Nat
  weight : Nat
  want : Nat
  floor : Nat
  slack : Option Nat
  pReq : Option Nat
  saturated : Bool
  deriving DecidableEq, Repr

/-- Session Sequencer (R106, R60, R118). `none` is EMPTY. -/
structure Sequencer where
  session : Option Session
  bid : Bid
  projected : Option Nat
  deriving DecidableEq, Repr

/-! ## Converter Interface -/

/-- A valid meter report (Table 51); `began` is the start of its reception, as the number of setpoint messages
complete by then. -/
structure Meter where
  power : Nat
  energy : Nat
  state : ConvState
  faultCode : Nat
  began : Nat
  deriving DecidableEq, Repr

/-- A setpoint message being sent, with the quanta whose drain-confirm mark its completion records: those that entered the
drain list in the step that sent it and have not entered it again since (R131). -/
structure SetMsg where
  limit : Nat
  inhibit : Bool
  marks : List Nat
  deriving DecidableEq, Repr

/-- LOST quiesce timer (R128, R136). -/
inductive Quiesce where
  | stopped
  | running (expiry : Nat)
  | expired
  deriving DecidableEq, Repr

/-- Converter Interface (Table 51). -/
structure Converter where
  conv : ConvState
  lastReport : Option Meter
  pSet : Nat
  sendValue : Nat
  lastLimit : Nat
  lastInhibit : Bool
  lastSentAt : Option Nat
  /-- the MODEL's own: setpoint messages complete since reset, and their latest limits, newest first -/
  sentCount : Nat
  limits : List Nat
  outbox : List SetMsg
  refreshAt : Nat
  silenceAt : Option Nat
  lostQuiesce : Quiesce
  /-- INHIBIT, true for asserted: the pin, and the flag setpoint messages carry (R138) -/
  inhibit : Bool
  causeTripped : Bool
  causeLost : Bool
  discarded : Nat
  deriving DecidableEq, Repr

/-! ## Mode Controller -/

/-- Mode Controller (R155, R160, R161, R181). -/
structure ModeCtl where
  mode : Mode
  solo : Bool
  isolateReq : Bool
  /-- the fault cause is DUPLICATE -/
  duplicate : Bool
  tripHoldAt : Option Nat
  listenAt : Option Nat
  /-- echo-silence watch: running since, and whether a transmit error came since (R158) -/
  echoSince : Option Nat
  errSince : Bool
  /-- a break is in progress on the line (R160) -/
  breakOn : Bool
  /-- a restart is in progress (R181) -/
  restarting : Bool
  /-- the LEAVE of the isolate drain or restart has been queued (R161) -/
  leaving : Bool
  deriving DecidableEq, Repr

/-! ## Booking Unit -/

/-- Trigger kind with its parameter (Table 64); `peerSilent none` is "any". -/
inductive Trigger where
  | peerSilent (station : Option Nat)
  | budgetBelow (q : Nat)
  | targetBelowFloor
  | stepEnd (k : Nat)
  | energyAt (value : Nat)
  | deadlineRisk
  | conflict
  | mode (m : Mode)
  deriving DecidableEq, Repr

/-- State of a booking that is not IDLE (Table 63). -/
inductive BookState where
  | armed
  | pending (value time : Nat)
  | spent
  deriving DecidableEq, Repr

/-- A booking that is not IDLE (Table 63). -/
structure Booking where
  state : BookState
  trigger : Trigger
  action : Action
  /-- REPEAT, otherwise ONCE -/
  repeats : Bool
  /-- URGENT, otherwise INFO -/
  urgent : Bool
  tags : List Byte
  mark : Bool
  deriving DecidableEq, Repr

/-- A notice (R170); `code` is the trigger kind's position, or 128 plus the system code's. -/
structure Notice where
  booking : Nat
  code : Nat
  value : Nat
  tags : List Byte
  urgent : Bool
  time : Nat
  overrun : Bool
  deriving DecidableEq, Repr

/-- Booking Unit (R165, R170); `none` is an IDLE booking. -/
structure Bookings where
  table : List (Option Booking)
  shed : Bool
  freeze : Bool
  notices : List Notice
  /-- time of START, the origin of the time base -/
  startAt : Nat
  deriving DecidableEq, Repr

/-! ## Cabinet Port Interface and pins -/

/-- Outcome class of a response (R176). -/
inductive RespClass where
  | accepted | clamped | refused
  deriving DecidableEq, Repr

/-- Refusal codes (R176, R186). -/
inductive RefCode where
  | state | range | format | busy | malformedPlan | causePersists | duplicate | configCheck
  deriving DecidableEq, Repr

/-- A response (R176). -/
structure Response where
  cls : RespClass
  refusal : Option RefCode
  detail : Byte
  payload : List Byte
  deriving DecidableEq, Repr

/-- The pending response slot when it is not empty (R175). -/
structure Slot where
  response : Response
  ready : Bool
  readyAt : Nat
  deriving DecidableEq, Repr

/-- Cabinet Port Interface (R175, R178, R179). -/
structure Cabinet where
  cfg : Option Cfg
  fingerprint : Option Half
  stn : Nat
  slot : Option Slot
  deriving DecidableEq, Repr

/-- Levels of the discrete inputs (true is asserted), and the bytes the last fetch clocked out on SDO. -/
structure Pins where
  trip : Bool
  offline : Bool
  sdo : List Byte
  deriving DecidableEq, Repr

/-! ## The state -/

/-- The state of the part, block by block, and the queue of waiting commands. -/
structure State where
  /-- ms since the last hardware reset -/
  now : Nat
  io : Pins
  cpi : Cabinet
  mc : ModeCtl
  lc : Link
  bu : Budget
  /-- the quantum map, entry q for quantum q (R15) -/
  map : List QEntry
  ptu : PeerTable
  ae : Alloc
  hc : Holdings
  ss : Sequencer
  ci : Converter
  bk : Bookings
  /-- the commands that are waiting, the first to be taken in front -/
  pending : List Instr
  deriving DecidableEq, Repr

/-- No command stops the part with a fault: a refused command is answered (R176), an error is counted (R142), and a
failure is a mode or a mark. No constructor, so that no meaning can raise one. -/
inductive Fault where
  deriving DecidableEq, Repr

/-- Why the model gives a command no meaning. -/
inductive Refusal where
  /-- Raised by an arm of `exec` whose command has no meaning yet. Safe: the model stops. -/
  | notModelled (mnemonic : String)
  /-- Raised by UNKNOWN_COMMAND and INVALID_TRANSACTION when their operands spell another row, so that no such
  command exists (log 29). Safe: the model stops. -/
  | illFormed (mnemonic : String)
  deriving DecidableEq, Repr

/-! ## Reset -/

/-- The null bid (R61). -/
def Bid.null : Bid := ⟨0, 1, 0, 0, none, none, false⟩

/-- All five flags clear (R80). -/
def CompFlags.clear : CompFlags := ⟨false, false, false, false, false⟩

/-- Link state after a hardware reset (Table 55). -/
def Link.reset : Link :=
  { queue := [], waiting := [], nextId := 0, tx := .off, attempt := none, breakDue := false, quietUs := 0, clockUs := 0
    line := [], lineUs := 0, heldUs := 0, txErrors := 0, rxErrors := 0, listenErrors := 0, rxRun := 0, rateSuspect := false
    muteHold := Config.muteHoldMin, muteAt := none, probeDue := false }

/-- Holdings Controller state after a hardware reset, for the own station number (R83). -/
def Holdings.reset (own : Nat) : Holdings :=
  { target := 0, claim := none, request := none, sweep := none, sweepRun := false, rotate := own, promises := []
    drains := [], stuck := false, quiesceAt := none, needOpen := false, lastRefusal := none }

/-- Converter Interface state after a hardware reset (Table 51). -/
def Converter.reset : Converter :=
  { conv := .lost, lastReport := none, pSet := 0, sendValue := 0, lastLimit := 0, lastInhibit := true
    lastSentAt := none, sentCount := 0, limits := [], outbox := [], refreshAt := Config.refreshMs, silenceAt := none
    lostQuiesce := .stopped, inhibit := true, causeTripped := false, causeLost := true, discarded := 0 }

/-- Mode Controller state after a hardware reset (R155). -/
def ModeCtl.reset : ModeCtl :=
  { mode := .unconfigured, solo := false, isolateReq := false, duplicate := false, tripHoldAt := none
    listenAt := none, echoSince := none, errSince := false, breakOn := false, restarting := false, leaving := false }

/-- The state after a hardware reset with STN strapped to `own`, the inputs at the given levels (R183). -/
def State.resetWith (own : Nat) (trip offline : Bool) (queue : List Instr) : State :=
  { now := 0
    io := { trip := trip, offline := offline, sdo := [] }
    cpi := { cfg := none, fingerprint := none, stn := own, slot := none }
    mc := ModeCtl.reset
    lc := Link.reset
    bu := { offers := [], seen := false, bEff := 0, ownSeq := 0 }
    map := List.replicate Config.quanta .free
    ptu := { entries := [], lineHeard := none, lineCleared := 0 }
    ae := { epochAt := none, seq := 0, result := none, sticky := CompFlags.clear, lastReportSeq := 0 }
    hc := Holdings.reset own
    ss := { session := none, bid := Bid.null, projected := none }
    ci := Converter.reset
    bk := { table := List.replicate Config.bookings none, shed := false, freeze := false, notices := [], startAt := 0 }
    pending := queue }

/-- The machine right after reset: station strapped 0, TRIP and OFFLINE deasserted, no command waiting (log 6). -/
def State.reset : State := State.resetWith 0 false false []

/-! ## The state inside a step -/

/-- The state while a step is being carried out, with what the step has gathered for its end. It is no state of the
machine: a step begins it and `finish` ends it. -/
structure Work extends State where
  /-- the state as it stood when the step began -/
  before : State
  /-- system notices offered in the step (R171): code, value, tag bytes -/
  sysNotices : List (SysCode × Nat × List Byte)
  /-- firings of the step (R171): booking number and notice value -/
  firings : List (Nat × Nat)
  /-- quanta that entered Draining in the step (R131) -/
  newDrains : List Nat
  /-- own quanta lost in conflicts since CONFLICT was last handed on (R34) -/
  conflictLost : List Nat
  /-- an event has come at which the Holdings Controller considers a claim (R91) -/
  considerClaim : Bool
  /-- a rule has asked for a setpoint message at once (R134, R135, R159) -/
  sendAtOnce : Bool
  deriving DecidableEq, Repr

end Sys2Proof.Machine
end

