-- ==== Sys2Proof/Machine/Bytes.lean ====
section
/-! DEFINITION. The common encoding of 12_frame_and_message_formats.md: byte orders, the CRC-16, flags, absent fields
and the positions of the enumerations (R184, Table 72). -/

namespace Sys2Proof.Machine

/-! ## Fields (R184: high byte first) -/

/-- A one-byte field. -/
def byteOf (n : Nat) : Byte := BitVec.ofNat 8 n

/-- A two-byte field. -/
def be2 (n : Nat) : List Byte := [byteOf (n / 256), byteOf n]

/-- A four-byte field. -/
def be4 (n : Nat) : List Byte := [byteOf (n / 16777216), byteOf (n / 65536), byteOf (n / 256), byteOf n]

/-- The one-byte field at offset `i`. -/
def at1 (p : List Byte) (i : Nat) : Nat := (p.getD i 0).toNat

/-- The two-byte field at offset `i`. -/
def at2 (p : List Byte) (i : Nat) : Nat := at1 p i * 256 + at1 p (i + 1)

/-- The three-byte field at offset `i`. -/
def at3 (p : List Byte) (i : Nat) : Nat := (at1 p i * 256 + at1 p (i + 1)) * 256 + at1 p (i + 2)

/-- A flag that is sent. -/
def flagByte (b : Bool) : Byte := if b then 1 else 0

/-- A flag byte received: 0 clear, 1 set; the spec gives other values no meaning (log 12). -/
def flagOf (b : Byte) : Bool := if b = 0 then false else if b = 1 then true else Config.oddFlag b

/-- A one-byte field that may be absent (R184). -/
def optByte : Option Nat → Byte
  | none => 0xFF
  | some n => byteOf n

/-- A four-byte field that is 0xFFFFFFFF when it is absent: P_req and the projected energy (R184). -/
def optWord : Option Nat → List Byte
  | none => [0xFF, 0xFF, 0xFF, 0xFF]
  | some n => be4 n

/-- `n` bytes of the absent field `field`, which the spec does not state (log 9). -/
def absentBytes (field n : Nat) : List Byte := (List.range n).map (Config.absentByte field)

/-! ## CRC-16 (R184) -/

/-- One shift of the CRC register, polynomial x^16 + x^12 + x^5 + 1. -/
def crcShift (c : Half) : Half := if c.msb then (c <<< 1) ^^^ 0x1021#16 else c <<< 1

/-- One byte taken in, most significant bit first. -/
def crcByte (c : Half) (b : Byte) : Half :=
  let c := c ^^^ ((b.setWidth 16) <<< 8)
  crcShift (crcShift (crcShift (crcShift (crcShift (crcShift (crcShift (crcShift c)))))))

/-- The CRC-16 of the Pad Link and of the fingerprint, initial value 0xFFFF. -/
def crc16 (bs : List Byte) : Half := bs.foldl crcByte 0xFFFF#16

/-! ## Enumerations: the position of the value in Table 72 -/

def modeCode : Mode → Nat
  | .unconfigured => 0 | .configured => 1 | .listening => 2 | .active => 3
  | .isolated => 4 | .muted => 5 | .tripped => 6 | .offline => 7

def sessCode : SessState → Nat
  | .empty => 0 | .charging => 1 | .suspended => 2 | .complete => 3 | .ending => 4

/-- A received session state; above 4 it is an absent session summary (R185). -/
def sessOf : Nat → Option SessState
  | 0 => some .empty | 1 => some .charging | 2 => some .suspended | 3 => some .complete | 4 => some .ending
  | _ => none

def reasonCode : DrainReason → Nat
  | .surplus => 0 | .yield => 1 | .withdrawal => 2 | .conflict => 3 | .isolation => 4 | .shutdown => 5

def peerCode : PeerState → Nat
  | .absent => 0 | .live => 1 | .silent => 2 | .expelled => 3 | .left => 4 | .mismatched => 5 | .self => 6

def stepKindCode : StepKind → Nat
  | .bulk => 0 | .taper => 1 | .topup => 2 | .hold => 3 | .halt => 4

def stepKindOf : Nat → Option StepKind
  | 0 => some .bulk | 1 => some .taper | 2 => some .topup | 3 => some .hold | 4 => some .halt
  | _ => none

def convCode : ConvState → Nat
  | .ready => 0 | .running => 1 | .limiting => 2 | .fault => 3 | .lost => 4

/-- The state of a meter report; above 3 it is invalid (R187). -/
def convOf : Nat → Option ConvState
  | 0 => some .ready | 1 => some .running | 2 => some .limiting | 3 => some .fault
  | _ => none

def suspCode : SuspReason → Nat
  | .converter => 0 | .trip => 1 | .offline => 2 | .booking => 3 | .command => 4

def triggerCode : Trigger → Nat
  | .peerSilent _ => 0 | .budgetBelow _ => 1 | .targetBelowFloor => 2 | .stepEnd _ => 3
  | .energyAt _ => 4 | .deadlineRisk => 5 | .conflict => 6 | .mode _ => 7

def actionOf : Nat → Option Action
  | 0 => some .notify | 1 => some .shed | 2 => some .freeze | 3 => some .suspend
  | _ => none

def policyOf : Nat → Policy
  | 0 => .stop | 1 => .continue_ | 2 => .persist | _ => .rotate

def dispCode : Disposition → Nat
  | .surplus => 0 | .home => 1

def yieldReasonCode : YieldReason → Nat
  | .none => 0 | .noSurplus => 1 | .notHeld => 2 | .alreadyPromised => 3

/-- A received refusal reason; above 3 it is recorded as NO_SURPLUS (R185). -/
def yieldReasonOf : Nat → YieldReason
  | 0 => .none | 1 => .noSurplus | 2 => .notHeld | 3 => .alreadyPromised | _ => .noSurplus

def sysCode : SysCode → Nat
  | .configMismatch => 0 | .rateSuspect => 1 | .duplicateStation => 2 | .txDropped => 3
  | .drainStuck => 4 | .converterFault => 5 | .meterLost => 6 | .sessionEnd => 7

/-- Outcome class (R186). -/
def classCode : RespClass → Nat
  | .accepted => 0 | .clamped => 1 | .refused => 2

/-- Refusal code (R186). -/
def refCode : RefCode → Nat
  | .state => 1 | .range => 2 | .format => 3 | .busy => 4
  | .malformedPlan => 5 | .causePersists => 6 | .duplicate => 7 | .configCheck => 8

/-! The enumerations that Table 72 does not list carry their position in the rule that lists them.
DEDUCED, unsafe (log 14). -/

/-- Table 43: ENERGY, DURATION, ACCEPTANCE, DEADLINE. -/
def endCauseCode : EndCause → Nat
  | .energy => 0 | .duration => 1 | .acceptance => 2 | .deadline => 3

/-- R125: UNDOCKED, ABORTED. -/
def endReasonCode : EndReason → Nat
  | .undocked => 0 | .aborted => 1

/-- Table 55: off, on, probe. -/
def txCode : Transmitter → Nat
  | .off => 0 | .on => 1 | .probe => 2

/-- Table 63: IDLE, ARMED, PENDING, SPENT. -/
def bookStateCode : Option Booking → Nat
  | none => 0
  | some b => match b.state with
    | .armed => 1
    | .pending _ _ => 2
    | .spent => 3

/-- The computation flags in one byte (R184). -/
def flagsByte (f : CompFlags) : Byte :=
  byteOf ((if f.inexact then 1 else 0) + (if f.floorShort then 2 else 0) + (if f.saturated then 4 else 0)
    + (if f.spare then 8 else 0) + (if f.reserved then 16 else 0))

end Sys2Proof.Machine
end

