-- ==== Sys2Proof/Machine/Frames.lean ====
section
/-! DEFINITION. Pad Link frames: kinds, classes and keys (R142, R185), the payload layouts of Table 73 and their
reading, the characters of a frame and their bits on the line (R141), and the frame check of the receiver (R142). -/

namespace Sys2Proof.Machine

/-! ## Kinds and keys (R185) -/

/-- Kind of a frame. -/
def kindOf : Frame → FrameKind
  | .contest _ => .contest
  | .yieldAns _ _ _ => .yieldAns
  | .release _ _ => .release
  | .yieldReq _ _ _ _ => .yieldReq
  | .claim _ => .claim
  | .budget _ _ _ _ => .budget
  | .report _ _ _ _ _ _ _ _ _ => .report
  | .join _ _ _ => .join
  | .leave => .leave

/-- Kind character (Table 73). -/
def kindChar : FrameKind → Nat
  | .contest => 0x00 | .yieldAns => 0x01 | .release => 0x10 | .yieldReq => 0x20 | .claim => 0x21
  | .budget => 0x30 | .report => 0x40 | .join => 0x41 | .leave => 0x42

/-- The frame kind a kind character names (R142). -/
def kindOfChar : Nat → Option FrameKind
  | 0x00 => some .contest | 0x01 => some .yieldAns | 0x10 => some .release | 0x20 => some .yieldReq
  | 0x21 => some .claim | 0x30 => some .budget | 0x40 => some .report | 0x41 => some .join | 0x42 => some .leave
  | _ => none

/-- Class of a kind: its character divided by 16 (R185). -/
def classOf (f : Frame) : Nat := kindChar (kindOf f) / 16

/-- Arbitration character: class × 32 plus the station number (R146, R185). -/
def arbitrationChar (k : FrameKind) (sender : Nat) : Nat := kindChar k / 16 * 32 + sender

/-! ## Payloads (Table 73) -/

/-- Bit `7 - j` of byte `k` of the holdings set stands for quantum `8 k + j` (R185). -/
def holdingsByte (qs : List Nat) (k : Nat) : Byte :=
  byteOf (((List.range 8).map fun j => if qs.contains (8 * k + j) then 2 ^ (7 - j) else 0).sum)

/-- The sixteen bytes of a holdings set. -/
def holdingsBytes (qs : List Nat) : List Byte := (List.range 16).map (holdingsByte qs)

/-- The quanta a holdings set at offset `i` lists, in ascending order. -/
def holdingsAt (p : List Byte) (i : Nat) : List Nat :=
  (List.range Config.quanta).filter fun q => (p.getD (i + q / 8) 0).getLsbD (7 - q % 8)

/-- The payload of a frame. -/
def payloadOf : Frame → List Byte
  | .contest qs => qs.map byteOf
  | .yieldAns requester reason granted =>
    byteOf requester :: byteOf granted.length :: byteOf reason :: granted.map byteOf
  | .release b qs => optByte b :: qs.map byteOf
  | .yieldReq target count disp listed =>
    byteOf target :: byteOf count :: byteOf (dispCode disp) :: listed.map byteOf
  | .claim qs => qs.map byteOf
  | .budget source value seq hold => [byteOf source, byteOf value, byteOf seq, byteOf hold]
  | .report seq tier weight want floor sess tag holdings fp =>
    [byteOf seq, byteOf tier, byteOf weight, byteOf want, byteOf floor, byteOf sess] ++ be2 tag
      ++ holdingsBytes holdings ++ be2 fp.toNat
  | .join fp nSt h => be2 fp.toNat ++ [byteOf nSt, byteOf h]
  | .leave => []

/-- The quantum bytes of a list, as numbers. -/
def quantaOf (p : List Byte) : List Nat := p.map BitVec.toNat

/-- The frame a payload of kind `k` carries; none where the payload has no length allowed for the kind (R142, R185). -/
def parsePayload (k : FrameKind) (p : List Byte) : Option Frame :=
  match k with
  | .contest => if 1 ≤ p.length ∧ p.length ≤ 8 then some (.contest (quantaOf p)) else none
  | .claim => if 1 ≤ p.length ∧ p.length ≤ 8 then some (.claim (quantaOf p)) else none
  | .yieldAns =>
    if 3 ≤ p.length ∧ at1 p 1 ≤ 8 ∧ p.length = 3 + at1 p 1 then
      some (.yieldAns (at1 p 0) (at1 p 2) (quantaOf (p.drop 3))) else none
  | .release =>
    if 2 ≤ p.length ∧ p.length ≤ 9 then
      some (.release (if at1 p 0 = 255 then none else some (at1 p 0)) (quantaOf (p.drop 1))) else none
  | .yieldReq =>
    if 3 ≤ p.length ∧ 1 ≤ at1 p 1 ∧ at1 p 1 ≤ 8 ∧ at1 p 2 = 0 ∧ p.length = 3 then
      some (.yieldReq (at1 p 0) (at1 p 1) .surplus [])
    else if 3 ≤ p.length ∧ 1 ≤ at1 p 1 ∧ at1 p 1 ≤ 8 ∧ at1 p 2 = 1 ∧ p.length = 3 + at1 p 1 then
      some (.yieldReq (at1 p 0) (at1 p 1) .home (quantaOf (p.drop 3))) else none
  | .budget => if p.length = 4 then some (.budget (at1 p 0) (at1 p 1) (at1 p 2) (at1 p 3)) else none
  | .report =>
    if p.length = 26 then
      some (.report (at1 p 0) (at1 p 1) (at1 p 2) (at1 p 3) (at1 p 4) (at1 p 5) (at2 p 6) (holdingsAt p 8)
        (BitVec.ofNat 16 (at2 p 24))) else none
  | .join => if p.length = 4 then some (.join (BitVec.ofNat 16 (at2 p 0)) (at1 p 2) (at1 p 3)) else none
  | .leave => if p.length = 0 then some .leave else none

/-! ## Whole frames (R141, R142) -/

/-- The characters of a frame in order: arbitration, kind, length, payload, CRC over kind, length and payload. -/
def frameChars (sender : Nat) (f : Frame) : List Byte :=
  let body := byteOf (kindChar (kindOf f)) :: byteOf (payloadOf f).length :: payloadOf f
  byteOf (arbitrationChar (kindOf f) sender) :: body ++ be2 (crc16 body).toNat

/-! ## Bits on the line (R141) -/

/-- A data bit of 0 is sent dominant, a data bit of 1 recessive. -/
def levelOf (bit : Bool) : Level := if bit then .recessive else .dominant

/-- A character: a dominant start bit, 8 data bits with the most significant first, a recessive stop bit. -/
def charLevels (b : Byte) : List Level :=
  .dominant :: ((List.range 8).map fun i => levelOf (b.getLsbD (7 - i))) ++ [.recessive]

/-- Characters sent back to back, with no recessive time between them. -/
def lineLevels (chars : List Byte) : List Level := chars.flatMap charLevels

/-- A whole frame on the line, bit time by bit time. -/
def frameLevels (sender : Nat) (f : Frame) : List Level := lineLevels (frameChars sender f)

/-- A frame of `n` payload characters lasts this many bit times. -/
def frameBits (n : Nat) : Nat := 10 * (5 + n)

/-- A break on the line (R151). -/
def breakLevels : List Level := List.replicate Config.breakBits .dominant

/-- The byte whose bits, most significant first, are these levels. -/
def byteOfLevels (ls : List Level) : Byte := byteOf (ls.foldl (fun n l => 2 * n + if l = .recessive then 1 else 0) 0)

/-- The characters of levels that are characters sent back to back (R141); none where a start bit is recessive, a stop bit
is dominant, or a character is cut short. The receiver, which R142 lets wait for a start bit, is in Receiver.lean. -/
def charsOfLevels : List Level → Option (List Byte)
  | [] => some []
  | start :: a :: b :: c :: d :: e :: f :: g :: h :: stop :: rest =>
    if start = .dominant ∧ stop = .recessive then
      (charsOfLevels rest).map (byteOfLevels [a, b, c, d, e, f, g, h] :: ·)
    else none
  | _ => none

/-- The frame check of R142 on the characters of a frame gathered whole: its sender, kind and payload; none where a
condition of R142 discards the frame. -/
def checkFrame (chars : List Byte) : Option (BitVec 5 × FrameKind × List Byte) :=
  match chars with
  | arb :: kind :: len :: rest =>
    if 4 < arb.toNat / 32 then none
    else match kindOfChar kind.toNat with
      | none => none
      | some k =>
        if kind.toNat / 16 ≠ arb.toNat / 32 then none
        else if 32 < len.toNat then none
        else if rest.length ≠ len.toNat + 2 then none
        else
          let p := rest.take len.toNat
          if (parsePayload k p).isNone then none
          else if crc16 (kind :: len :: p) ≠ BitVec.ofNat 16 (at2 rest len.toNat) then none
          else some (BitVec.ofNat 5 (arb.toNat % 32), k, p)
  | _ => none

end Sys2Proof.Machine
end

