-- ==== Sys2Proof/Machine/Receiver.lean ====
section
/-! DEFINITION. The receiver of the Pad Link over the levels of the line, bit time by bit time (R142, R144): the character
decoder, the frame check as the characters come in, and the dominant-run monitor. -/

namespace Sys2Proof.Machine

/-- What the receiver makes of the line: a valid frame, a discard (R142), a dominant run of 10 to 19 bit times at its end,
and a break as it is detected and as it ends (R144). -/
inductive Heard where
  | frame (sender : BitVec 5) (kind : FrameKind) (payload : List Byte)
  | discard
  | dominantRun
  | breakDetected
  | breakEnded
  deriving DecidableEq, Repr

/-- Where the character decoder stands. `chars` are the characters of the frame gathered so far. -/
inductive Reception where
  /-- no frame is in progress -/
  | idle
  /-- the start bit of the next character is due, and the line has been recessive for `bits` bit times since -/
  | gap (chars : List Byte) (bits : Nat)
  /-- within a character, whose data bits so far are `bits` -/
  | data (chars : List Byte) (bits : List Level)
  /-- a stop bit has read dominant, in a run that R144 may yet deal with -/
  | badStop
  deriving DecidableEq, Repr

/-- The receiver: where it stands, and how long the line has had its present level, in bit times. -/
structure Receiver where
  phase : Reception
  level : Level
  lasted : Nat
  deriving DecidableEq, Repr

/-- The receiver at START: no frame in progress, and no bit time of the line seen yet. -/
def Receiver.start : Receiver := { phase := .idle, level := .recessive, lasted := 0 }

/-- The payload length is one allowed for the kind (R142, Table 73). -/
def lengthAllowed (k : FrameKind) (n : Nat) : Bool :=
  match k with
  | .contest | .claim => decide (1 ≤ n ∧ n ≤ 8)
  | .yieldAns | .yieldReq => decide (3 ≤ n ∧ n ≤ 11)
  | .release => decide (2 ≤ n ∧ n ≤ 9)
  | .budget | .join => n == 4
  | .report => n == 26
  | .leave => n == 0

/-- The characters gathered so far can still become a valid frame (R142): each condition is tested when the character it
reads has come in, and what rests on a count in the payload, and the CRC, with the last (log 73). -/
def mayBeFrame (chars : List Byte) : Bool :=
  let arb := at1 chars 0
  let kind := at1 chars 1
  decide (arb / 32 ≤ 4) &&
    (decide (chars.length < 2) ||
      match kindOfChar kind with
      | none => false
      | some k => kind / 16 == arb / 32 && (decide (chars.length < 3) || lengthAllowed k (at1 chars 2)))

/-- The frame has all its characters. -/
def frameComplete (chars : List Byte) : Bool := decide (3 ≤ chars.length ∧ chars.length = at1 chars 2 + 5)

/-- A character has come in with its stop bit: the frame fails, is complete, or goes on (R142). -/
def gathered (chars : List Byte) : Reception × List Heard :=
  if mayBeFrame chars = false then (.idle, [.discard])
  else if frameComplete chars then
    match checkFrame chars with
    | some (sender, k, p) => (.idle, [.frame sender k p])
    | none => (.idle, [.discard])
  else (.gap chars 0, [])

/-- The character decoder takes one bit time (R142). A start bit begins a frame after 10 recessive bit times; between the
characters of a frame a shorter recessive time is no failure; a dominant stop bit fails the frame when its run ends before
R144 deals with it. -/
def Receiver.decode (r : Receiver) (l : Level) : Reception × List Heard :=
  match r.phase with
  | .idle =>
    if l = .dominant ∧ r.level = .recessive ∧ Config.resumeBits ≤ r.lasted then (.data [] [], []) else (.idle, [])
  | .gap chars n =>
    if l = .dominant then (.data chars [], [])
    else if n + 1 = Config.resumeBits then (.idle, [.discard])
    else (.gap chars (n + 1), [])
  | .data chars bits =>
    if bits.length < 8 then (.data chars (bits ++ [l]), [])
    else if l = .dominant then (.badStop, [])
    else gathered (chars ++ [byteOfLevels bits])
  | .badStop => if l = .dominant then (.badStop, []) else (.idle, [.discard])

/-- What the dominant-run monitor tells at one bit time, at which the line has had level `l` for `n` bit times (R144). -/
def Receiver.monitor (r : Receiver) (l : Level) (n : Nat) : List Heard :=
  match l with
  | .dominant => if n = Config.breakSeen then [.breakDetected] else []
  | .recessive =>
    if r.level = .recessive ∨ r.lasted < Config.resumeBits then []
    else if r.lasted < Config.breakSeen then [.dominantRun]
    else [.breakEnded]

/-- One bit time of the line (R142, R144): when the line has been dominant for 10 bit times, the receiver stops decoding
and abandons the frame in progress. -/
def Receiver.sample (r : Receiver) (l : Level) : Receiver × List Heard :=
  let n := if l = r.level then r.lasted + 1 else 1
  let d := if l = .dominant ∧ Config.resumeBits ≤ n then (.idle, []) else r.decode l
  ({ phase := d.1, level := l, lasted := n }, d.2 ++ r.monitor l n)

/-- The receiver after some bit times of the line. -/
def Receiver.after (r : Receiver) (ls : List Level) : Receiver := ls.foldl (fun r l => (r.sample l).1) r

/-- What the receiver makes of the line, in order. -/
def Receiver.hear (r : Receiver) : List Level → List Heard
  | [] => []
  | l :: ls => (r.sample l).2 ++ (r.sample l).1.hear ls

/-- An own attempt meets a transmit error: the frame in progress is abandoned without a receive error, and the receiver
resumes when the line has been recessive for 10 bit times (R147). -/
def Receiver.abandon (r : Receiver) : Receiver := { r with phase := .idle }

end Sys2Proof.Machine
end

