-- ==== Sys2Proof/WellFormed.lean ====
section
/-! DEFINITION. When the operands of a command spell the row it stands for. -/

namespace Sys2Proof

/-- The command codes of Table 74. -/
def commandCodes : List Nat :=
  [0x01, 0x02, 0x03, 0x04, 0x05, 0x10, 0x11, 0x12, 0x13, 0x14, 0x15, 0x20, 0x21, 0x22, 0x23,
   0x30, 0x31, 0x32, 0x33, 0x40, 0x41, 0x42, 0x43]

/-- The command code names a command of Table 68. -/
def knownCode (code : Byte) : Bool := commandCodes.contains code.toNat

/-- A transaction that is a fetch, or a command whose code and payload length have been clocked in (R175, R186). -/
def takenTransaction (bytes : List Byte) : Bool :=
  match bytes with
  | [] => false
  | b :: rest => b == 0x02#8 || (b == 0x01#8 && decide (2 ≤ rest.length))

/-- A cabinet payload has at most the 255 bytes its payload length can count, and one that is cut short has fewer bytes
than that announces (R186). -/
def payloadFits : Payload → Bool
  | .whole bytes => decide (bytes.length ≤ 255)
  | .cut announced bytes => decide (bytes.length < announced.toNat)

/-- The payload has a length Table 73 allows for the kind (R142, R185). -/
def frameLengthAllowed (k : FrameKind) (p : List Byte) : Bool :=
  match k with
  | .contest | .claim => decide (1 ≤ p.length ∧ p.length ≤ 8)
  | .yieldAns => decide (3 ≤ p.length ∧ (p.getD 1 0).toNat ≤ 8 ∧ p.length = 3 + (p.getD 1 0).toNat)
  | .release => decide (2 ≤ p.length ∧ p.length ≤ 9)
  | .yieldReq =>
    decide (3 ≤ p.length ∧ 1 ≤ (p.getD 1 0).toNat ∧ (p.getD 1 0).toNat ≤ 8 ∧
      ((p.getD 2 0 = 0#8 ∧ p.length = 3) ∨ (p.getD 2 0 = 1#8 ∧ p.length = 3 + (p.getD 1 0).toNat)))
  | .budget | .join => decide (p.length = 4)
  | .report => decide (p.length = 26)
  | .leave => decide (p.length = 0)

/-- The operands of the command spell its row. -/
def Instr.wellFormed : Instr → Bool
  | .identify p | .configure p | .start p | .status p | .clearFlags p | .admitSession p | .vehicleUpdate p | .undock p
  | .abortSession p | .suspend p | .resume p | .budgetOffer p | .isolate p | .rejoin p _ | .restart p | .book p
  | .unbook p | .clearAction p | .fetchNotice p | .readPeer p | .readQuanta p | .readSession p | .readResult p =>
    payloadFits p
  | .unknownCommand code p => !knownCode code && payloadFits p
  | .invalidTransaction bytes => !takenTransaction bytes
  | .claim _ p => frameLengthAllowed .claim p
  | .contest _ p => frameLengthAllowed .contest p
  | .release _ p => frameLengthAllowed .release p
  | .report _ p => frameLengthAllowed .report p
  | .join _ p => frameLengthAllowed .join p
  | .leave _ p => frameLengthAllowed .leave p
  | .budget _ p => frameLengthAllowed .budget p
  | .yieldReq _ p => frameLengthAllowed .yieldReq p
  | .yieldAns _ p => frameLengthAllowed .yieldAns p
  | .meterReport msg overlap =>
    decide (msg.length = 7 ∧ msg.getD 0 0 = 0xB2#8 ∧ (msg.getD 5 0).toNat ≤ 3 ∧ overlap ≤ 20)
  | .hardwareReset _ | .tripAsserted | .tripDeasserted | .offlineAsserted | .fetchResponse _ | .responseReady
  | .duplicateFrame _ | .receiveError | .dominantRun | .breakDetected | .breakEnded | .transmitAttemptStart
  | .goodEcho | .lostArbitration | .transmitError | .offerExpiry _ | .settleExpiry | .listeningExpiry _
  | .peerSilenceLimit _ | .peerExpulsionLimit _ | .epochExpiry | .drainTimeout | .quiesceExpiry
  | .lostQuiesceExpiry | .promiseExpiry | .answerTimeout | .setpointRefresh | .setpointMessageSent
  | .meterReportDiscarded | .meterSilenceExpiry | .muteHoldExpiry | .tripHoldExpiry | .isolationSilenceLimit
  | .echoSilenceLimit | .deadlineRunOut | .stepDurationReached => true

end Sys2Proof
end

