-- ==== Sys2Proof/Decode.lean ====
section
/-! DEFINITION. From bits to commands. No row of spec/opcode_table.json gives bits, so no table word spells a command;
the bytes that the spec does give spell commands here: the characters of a frame (R141, R142, R185), the levels of the line (R142, R144), the messages of the
Converter Port (R132, R187), and the bytes of a Cabinet Port transaction (R175, R186). -/

namespace Sys2Proof

/-- The command a table word spells: none, since no row gives bits. -/
def decodeTableWord (_nbits _w : Nat) : Option Instr := none

/-- The command for a valid frame of kind `k` (R185). -/
def frameInstr (k : FrameKind) (sender : BitVec 5) (p : List Byte) : Instr :=
  match k with
  | .contest => .contest sender p
  | .yieldAns => .yieldAns sender p
  | .release => .release sender p
  | .yieldReq => .yieldReq sender p
  | .claim => .claim sender p
  | .budget => .budget sender p
  | .report => .report sender p
  | .join => .join sender p
  | .leave => .leave sender p

/-- The command that characters gathered from the Pad Link spell: the frame heard, or a receive error (R142). -/
def frameCommand (chars : List Byte) : Instr :=
  match Machine.checkFrame chars with
  | some (sender, k, p) => frameInstr k sender p
  | none => .receiveError

/-- The command for what the receiver makes of the line (R142 to R144). -/
def heardCommand : Machine.Heard → Instr
  | .frame sender k p => frameInstr k sender p
  | .discard => .receiveError
  | .dominantRun => .dominantRun
  | .breakDetected => .breakDetected
  | .breakEnded => .breakEnded

/-- The commands that the levels of the line spell, bit time by bit time, for a receiver `r` with no own attempt on the
line (R142 to R144). The endings of an own attempt are commands of their own (R146, R147). -/
def lineCommands (r : Machine.Receiver) (levels : List Machine.Level) : List Instr := (r.hear levels).map heardCommand

/-- The command of a command code (Table 74). REJOIN samples the level of the OFFLINE input. -/
def codeInstr (code : Byte) (offlineLevel : Bool) (p : Payload) : Instr :=
  match code.toNat with
  | 0x01 => .identify p
  | 0x02 => .configure p
  | 0x03 => .start p
  | 0x04 => .status p
  | 0x05 => .clearFlags p
  | 0x10 => .admitSession p
  | 0x11 => .vehicleUpdate p
  | 0x12 => .undock p
  | 0x13 => .abortSession p
  | 0x14 => .suspend p
  | 0x15 => .resume p
  | 0x20 => .budgetOffer p
  | 0x21 => .isolate p
  | 0x22 => .rejoin p offlineLevel
  | 0x23 => .restart p
  | 0x30 => .book p
  | 0x31 => .unbook p
  | 0x32 => .clearAction p
  | 0x33 => .fetchNotice p
  | 0x40 => .readPeer p
  | 0x41 => .readQuanta p
  | 0x42 => .readSession p
  | 0x43 => .readResult p
  | _ => .unknownCommand code p

/-- The command that a message received on the Converter Port spells, with `overlap` setpoint messages complete while it
was being received: one that has a character with a framing error, does not begin with 0xB2, is not seven bytes long or
has a state above 3 is discarded (R132, R187). The test of the measured power is METER_REPORT's. -/
def converterCommand (chars : List (Option Byte)) (overlap : Nat) : Instr :=
  let msg := chars.filterMap id
  if chars.length = 7 ∧ msg.length = 7 ∧ msg.getD 0 0 = 0xB2#8 ∧ (msg.getD 5 0).toNat ≤ 3 then .meterReport msg overlap
  else .meterReportDiscarded

/-- The payload of a command transaction whose payload length is `len`, with `clocked` the bytes clocked in after it: it is
cut short where they are fewer, and bytes beyond the payload length are passed over (R186; log 48). -/
def transactionPayload (len : Byte) (clocked : List Byte) : Payload :=
  if len.toNat ≤ clocked.length then .whole (clocked.take len.toNat) else .cut len clocked

/-- The command that the bytes of a Cabinet Port transaction spell (R175, R186). -/
def cabinetCommand (bytes : List Byte) (offlineLevel : Bool) : Instr :=
  match bytes with
  | b :: rest =>
    if b = 0x02#8 then .fetchResponse rest.length
    else if b = 0x01#8 then
      match rest with
      | code :: len :: clocked => codeInstr code offlineLevel (transactionPayload len clocked)
      | _ => .invalidTransaction bytes
    else .invalidTransaction bytes
  | [] => .invalidTransaction []

end Sys2Proof
end

