-- ==== Sys2Proof/Machine/Ops.lean ====
section
/-! DEFINITION. The operations every block shares: reading the configuration, the clock, the quantum map and its
published counts, and the beginning of a step. -/

namespace Sys2Proof.Machine

/-! ## Configuration -/

/-- Stands for the configuration record where there is none; no rule reads it in such a mode but for lengths of 0. -/
def Cfg.blank : Cfg :=
  { qs := 0, bCfg := 0, bSafe := 0, sSolo := 0, h := 0, nSt := 0, tEp := 0, lSil := 0, lExp := 0, tQ := 0
    tripHold := 0, policy := 0, d := 0, pMax := 0, pMin := 0, attention := 0 }

/-- The configuration in force (R178). -/
def State.conf (s : State) : Cfg := s.cpi.cfg.getD Cfg.blank

/-- Quantum size in power units (R1). -/
def Cfg.qs10 (c : Cfg) : Nat := c.qs * 10

/-- L_sil × T_ep, ms. -/
def Cfg.silenceMs (c : Cfg) : Nat := c.lSil * c.tEp

/-- L_exp × T_ep, ms. -/
def Cfg.expulsionMs (c : Cfg) : Nat := c.lExp * c.tEp

/-- Home station of a quantum (R3). -/
def Cfg.homeStation (c : Cfg) (q : Nat) : Option Nat :=
  if c.h = 0 ∨ c.nSt * c.h ≤ q then none else some (q / c.h)

/-- The own station number (R179). -/
def State.own (s : State) : Nat := s.cpi.stn

/-- The quantum is one of the station's own home quanta. -/
def State.ownHome (s : State) (q : Nat) : Bool := s.conf.homeStation q == some s.own

/-! ## Modes -/

/-- From LISTENING on (Table 68). -/
def State.started (s : State) : Bool := !(s.mc.mode == .unconfigured || s.mc.mode == .configured)

/-- The modes in which the PTU, the QMU and the BU take frames (R5, R16, R44). -/
def State.takesFrames (s : State) : Bool := s.started && !(s.mc.mode == .tripped)

/-- ACTIVE, ISOLATED or MUTED. -/
def State.working (s : State) : Bool :=
  s.mc.mode == .active || s.mc.mode == .isolated || s.mc.mode == .muted

/-- The station is going out of the row: the isolate request is set, or a restart is in progress, which the Holdings
Controller and R27 treat alike (R181). -/
def State.withdrawing (s : State) : Bool := s.mc.isolateReq || s.mc.restarting

/-! ## The clock -/

/-- ms since START (R4, R170). -/
def State.sinceStart (s : State) : Nat := s.now - s.bk.startAt

/-- The step time, which counts only while the session is CHARGING at an entered step (R113). -/
def Session.age (d : Nat) (x : Session) : Session :=
  if x.phase = .charging ∧ x.entered then { x with stepTime := min 65535000 (x.stepTime + d) } else x

/-- One bit time, µs (R140). -/
def Cfg.bitUs (c : Cfg) : Nat := c.d + 1

/-- Duration of a break, µs: 40 bit times (R151). -/
def Cfg.breakUs (c : Cfg) : Nat := Config.breakBits * c.bitUs

/-- The idle gap, µs: 12 bit times (R145). -/
def Cfg.gapUs (c : Cfg) : Nat := Config.idleBits * c.bitUs

/-- Longest time a frame holds the line, µs: 370 bit times (R141). -/
def Cfg.frameUs (c : Cfg) : Nat := Config.frameBitsMax * c.bitUs

/-- Time from the start of an attempt in which its arbitration can be lost, µs (R146). -/
def Cfg.arbitrationUs (c : Cfg) : Nat := Config.arbitrationBits * c.bitUs

/-- Time since the start of the attempt, µs. -/
def Attempt.us : Attempt → Nat
  | .frame _ us _ => us
  | .probe _ us _ => us
  | .brk us => us

/-- The attempt in progress `e` µs later (R151): an own break ends after 40 bit times, and anything else goes on until the
command of its ending. -/
def Attempt.age (breakUs e : Nat) : Attempt → Option Attempt
  | .frame id us last => some (.frame id (us + e) last)
  | .probe join us last => some (.probe join (us + e) last)
  | .brk us => if us + e < breakUs then some (.brk (us + e)) else none

/-- What is read of the line over some time: the µs since its last dominant level, the levels still to come, and the µs
that have passed of the first of them. -/
structure Reading where
  quiet : Nat
  line : List Level
  lineUs : Nat
  deriving DecidableEq, Repr

/-- The line over the next `e` µs, with `bit` µs to a level and `past` µs of the first level gone by (R145): a recessive
level adds its time to `quiet`, a dominant one returns it to 0, and past the levels told the line is recessive. -/
def readLine (bit : Nat) : List Level → (past e quiet : Nat) → Reading
  | [], _, e, quiet => ⟨quiet + e, [], 0⟩
  | l :: ls, past, e, quiet =>
    if e = 0 then ⟨quiet, l :: ls, past⟩
    else if past + e < bit then ⟨if l = .dominant then 0 else quiet + e, l :: ls, past + e⟩
    else readLine bit ls 0 (past + e - bit) (if l = .dominant then 0 else quiet + (bit - past))

/-- The part of the next `e` µs during which the line is known not to be quiet: all of it during an own frame, and the
rest of an own break, or of a frame that won the arbitration. -/
def Link.drivenUs (l : Link) (breakUs e : Nat) : Nat :=
  match l.attempt with
  | none => min e l.heldUs
  | some (.brk us) => min e (breakUs - us)
  | some (.frame _ _ _) => e
  | some (.probe _ _ _) => e

/-- What is read of the line over the next `e` µs. -/
def State.reading (s : State) (e : Nat) : Reading :=
  let driven := s.lc.drivenUs s.conf.breakUs e
  let r := readLine s.conf.bitUs s.lc.line s.lc.lineUs driven 0
  readLine s.conf.bitUs r.line r.lineUs (e - driven) s.lc.quietUs

/-- `e` µs pass: the clock and the step time advance, the attempt in progress goes on, the levels of the line come in, and
the line grows quieter where nothing is on it. -/
def State.pass (s : State) (e : Nat) : State :=
  if e = 0 then s else
  let us := s.lc.clockUs.val + e
  let r := s.reading e
  { s with
    now := s.now + us / 1000
    ss := { s.ss with session := s.ss.session.map (Session.age (us / 1000)) }
    lc := { s.lc with
      quietUs := if s.started && !s.mc.breakOn then r.quiet else s.lc.quietUs
      clockUs := Fin.ofNat 1000 us, line := r.line, lineUs := r.lineUs
      heldUs := s.lc.heldUs - e
      attempt := s.lc.attempt.bind (Attempt.age s.conf.breakUs e) } }

/-- The clock comes `d` ms further, to the beginning of that ms. -/
def State.advance (s : State) (d : Nat) : State := s.pass (d * 1000 - s.lc.clockUs.val)

/-- The clock comes to `t` if it has not reached it (log 2). -/
def State.atTime (s : State) (t : Nat) : State := s.advance (t - s.now)

/-- Deadline clock, ms since ADMIT (R111). -/
def State.deadlineClock (s : State) (x : Session) : Nat := s.now - x.admittedAt

/-- Deadline remaining D_s (R111). -/
def State.deadlineLeft (s : State) (x : Session) : Nat :=
  if x.deadline = 0 then 0
  else if x.runOut ∨ x.deadline * 1000 ≤ s.deadlineClock x then 1
  else x.deadline - s.deadlineClock x / 1000

/-- Time since the line-heard time, or since it was cleared while it holds none (R52). -/
def State.sinceLineHeard (s : State) : Nat := s.now - s.ptu.lineHeard.getD s.ptu.lineCleared

/-- Idle count in bit times of (D + 1) µs (R140, R145). -/
def State.idleCount (s : State) : Nat := s.lc.quietUs / s.conf.bitUs

/-- Time after which the idle count reaches 12 where no level on the line prevents it, µs (R145). -/
def State.gapWait (s : State) : Nat :=
  if s.conf.gapUs ≤ s.lc.quietUs then 0 else s.lc.heldUs + (s.conf.gapUs - s.lc.quietUs)

/-! ## The quantum map -/

/-- The entry of quantum `q`. -/
def State.entry (s : State) (q : Nat) : QEntry := s.map.getD q .withdrawn

/-- Quanta whose number and entry satisfy `p`, in ascending order. -/
def quantaWhere (m : List QEntry) (p : Nat → QEntry → Bool) : List Nat :=
  m.zipIdx.filterMap fun (e, q) => if p q e then some q else none

/-- What a quantum held by nobody is: Free below B_eff, Withdrawn from it on (Table 11). -/
def State.vacant (s : State) (q : Nat) : QEntry := if q < s.bu.bEff then .free else .withdrawn

/-- The entry is Draining, for whatever reason. -/
def QEntry.isDraining : QEntry → Bool
  | .draining _ _ => true
  | _ => false

/-- The entry is Held by `s`. -/
def QEntry.heldBy (s : Nat) : QEntry → Bool
  | .held t _ => t == s
  | _ => false

/-- The entry carries the promise-to-me mark. -/
def QEntry.promised : QEntry → Bool
  | .held _ m => m
  | _ => false

/-! Published counts (Table 14). -/

def State.mineCount (s : State) : Nat := s.map.countP (· == .mine)
def State.pendingCount (s : State) : Nat := s.map.countP (· == .pending)
def State.drainingCount (s : State) : Nat := s.map.countP QEntry.isDraining
def State.homeMineCount (s : State) : Nat := (quantaWhere s.map fun q e => e == .mine && s.ownHome q).length
def State.heldCount (s : State) : Nat := s.mineCount + s.pendingCount
def State.heldCountOf (s : State) (t : Nat) : Nat := s.map.countP (QEntry.heldBy t)
def State.promisedCount (s : State) : Nat := s.map.countP QEntry.promised

/-- Mine, Pending and Draining counts are all 0 (R126, R161). -/
def State.holdsNothing (s : State) : Bool := s.mineCount == 0 && s.pendingCount == 0 && s.drainingCount == 0

/-- No own CLAIM awaits its echo (R126, R161). -/
def State.noClaimAwaiting (s : State) : Bool :=
  match s.hc.claim with
  | some (.queued _) => false
  | _ => true

/-- The map at START and at RESTART: Free below B_cfg, Withdrawn from it on (R17). -/
def startMap (bCfg : Nat) : List QEntry :=
  (List.range Config.quanta).map fun q => if q < bCfg then .free else .withdrawn

/-- The map after a trip wipe (R38). -/
def State.wipedMap (s : State) : List QEntry := (List.range Config.quanta).map s.vacant

/-- Each element once, at its first place. -/
def onceEach {α : Type} [DecidableEq α] : List α → List α
  | [] => []
  | q :: qs => q :: (onceEach qs).filter (· ≠ q)

/-- A list of quanta as the map takes it: numbers at or above B_cfg passed over, each number once (R16). -/
def State.listedQuanta (s : State) (qs : List Nat) : List Nat := onceEach (qs.filter (· < s.conf.bCfg))

/-! ## Peers -/

/-- State of the entry of station `t`; a number without an entry counts as none. -/
def State.peerState (s : State) (t : Nat) : Option PeerState := (s.ptu.entries[t]?).map Peer.state

/-- The peer entry of `t` is in state `p`. -/
def State.peerIs (s : State) (t : Nat) (p : PeerState) : Bool := s.peerState t == some p

/-- Replaces the peer entry of `t`. -/
def State.setPeer (s : State) (t : Nat) (f : Peer → Peer) : State :=
  { s with ptu := { s.ptu with entries := s.ptu.entries.modify t f } }

/-- An Absent entry, with its fingerprint-seen flag (Table 16). -/
def Peer.absentEntry (seen : Bool) : Peer :=
  { state := .absent, bid := none, lastSeq := 0, summary := none, heardAt := none, unanswered := 0, fpSeen := seen
    lastRefusal := none }

/-- The table with every entry Absent but the own, which is Self (R42). -/
def freshTable (nSt own : Nat) : List Peer :=
  (List.range nSt).map fun t => if t = own then { Peer.absentEntry false with state := .self } else Peer.absentEntry false

/-- Time since the last valid frame of an entry, saturating (R52). -/
def State.sinceHeard (s : State) (x : Peer) : Nat :=
  match x.heardAt with
  | none => 65535
  | some t => min 65535 (s.now - t)

/-! ## Session -/

/-- The session is CHARGING. -/
def State.charging (s : State) : Bool :=
  match s.ss.session with
  | some x => x.phase == .charging
  | none => false

/-- Session state as it is reported (Table 72). -/
def SessPhase.report : SessPhase → SessState
  | .charging => .charging
  | .suspended _ => .suspended
  | .complete => .complete
  | .ending _ _ => .ending

def State.sessState (s : State) : SessState :=
  match s.ss.session with
  | some x => x.phase.report
  | none => .empty

/-- Vehicle tag of the session summary, 0 in EMPTY (R107). -/
def State.vehicleTag (s : State) : Nat := (s.ss.session.map Session.tag).getD 0

/-- The session is ENDING. -/
def State.sessionEnding (s : State) : Bool := s.sessState == .ending

/-- The current plan step. -/
def Session.step (x : Session) : Option PlanStep := x.plan[x.stepIndex - 1]?

/-! ## Beginning a step -/

/-- A step begins. -/
def State.begin (s : State) : Work :=
  { s with
    before := s, sysNotices := [], firings := [], newDrains := [], conflictLost := [], considerClaim := false
    sendAtOnce := false }

/-- A change of the state inside a step. -/
def Work.onState (w : Work) (f : State → State) : Work := { w with toState := f w.toState }

/-- Changes every map entry. -/
def Work.mapAll (w : Work) (f : Nat → QEntry → QEntry) : Work :=
  { w with map := w.map.zipIdx.map fun (e, q) => f q e }

/-- Sets one map entry. -/
def Work.setEntry (w : Work) (q : Nat) (e : QEntry) : Work := { w with map := w.map.set q e }

/-- Offers a system notice (R171). -/
def Work.notice (w : Work) (c : SysCode) (value : Nat) (tags : List Byte := [0, 0, 0]) : Work :=
  { w with sysNotices := w.sysNotices ++ [(c, value, tags)] }

end Sys2Proof.Machine
end

