-- ==== Sys2Proof/Machine/Bid.lean ====
section
/-! DEFINITION. The derivation of the bid (04_share_computation.md, R60 to R67). -/

namespace Sys2Proof.Machine

/-- ceil(a / b). -/
def ceilDiv (a b : Nat) : Nat := (a + b - 1) / b

/-- Slack of a session with a deadline, and whether the clamp to 1 was applied (R62). -/
def slackOf (dS : Nat) : Nat × Bool :=
  if dS < Config.slackMargin + 1 then (1, true) else (dS - Config.slackMargin, false)

/-- Required power (R63). -/
def requiredPower (eRem slack : Nat) : Nat := ceilDiv (eRem * 360) slack

/-- Want before a SHED, and whether the clamp to 128 was applied (R64). -/
def wantOf (c : Cfg) (x : Session) (st : PlanStep) : Nat × Bool :=
  if x.eRem = 0 ∨ st.kind = .hold ∨ st.kind = .halt then (0, false)
  else
    let d := ceilDiv (min (min st.cap x.pAcc) c.pMax) c.qs10
    if Config.quanta < d then (Config.quanta, true) else (d, false)

/-- Floor for a want (R65). -/
def floorOf (c : Cfg) (st : PlanStep) (want : Nat) : Nat :=
  if st.kind = .bulk ∨ st.kind = .taper then min (ceilDiv c.pMin c.qs10) want else 0

/-- Weight for a required power, and whether the clamp to 1–64 changed it (R66). -/
def weightOf (c : Cfg) (pReq : Nat) : Nat × Bool :=
  let w := ceilDiv pReq c.qs10
  (max 1 (min w 64), decide (w < 1 ∨ 64 < w))

/-- Tier, weight and clamp mark for a want above 0 (Table 22). -/
def tierWeight (c : Cfg) (x : Session) (st : PlanStep) (pReq : Option Nat) : Nat × Nat × Bool :=
  if x.critical ∧ (st.kind = .bulk ∨ st.kind = .taper) then (3, 64, false)
  else if st.kind = .topup then (0, 1, false)
  else match pReq with
    | some p => (if min x.pAcc st.cap ≤ 2 * p then 2 else 1, (weightOf c p).1, (weightOf c p).2)
    | none => (1, 2, false)

/-- The stages of R62 to R66 for a CHARGING session at step `st` with D_s = `dS`. -/
def stagedBid (c : Cfg) (x : Session) (st : PlanStep) (dS : Nat) (shed : Bool) : Bid :=
  let slack := if dS = 0 then none else some (slackOf dS).1
  let slackSat := dS ≠ 0 && (slackOf dS).2
  let pReq := slack.map (requiredPower x.eRem)
  let w := wantOf c x st
  let floor := floorOf c st w.1
  let want := if shed then floor else w.1
  if want = 0 then
    { tier := 0, weight := 1, want := 0, floor := 0, slack := slack, pReq := pReq, saturated := slackSat || w.2 }
  else
    let tw := tierWeight c x st pReq
    { tier := tw.1, weight := tw.2.1, want := want, floor := floor, slack := slack, pReq := pReq
      saturated := slackSat || w.2 || tw.2.2 }

/-- The bid the Session Sequencer derives from the state as it stands (R60, R61). -/
def State.deriveBid (s : State) : Bid :=
  match s.ss.session with
  | none => Bid.null
  | some x =>
    if x.phase = .charging then
      match x.step with
      | some st => stagedBid s.conf x st (s.deadlineLeft x) s.bk.shed
      | none => Bid.null
    else Bid.null

/-- A derivation replaces the current bid (R60). -/
def Work.derive (w : Work) : Work := { w with ss := { w.ss with bid := w.toState.deriveBid } }

end Sys2Proof.Machine
end

