-- ==== Sys2Proof/Machine/Bookings.lean ====
section
/-! DEFINITION. The Booking Unit: conditions, firings and their actions, the notice queue and ATTN
(10_alert_bookings_and_notices.md), with the suspension of the session that a booked SUSPEND raises (R120). -/

namespace Sys2Proof.Machine

/-! ## Suspension (R120) -/

/-- What a cause of suspension makes of the session. -/
def Session.suspendFor (r : SuspReason) (x : Session) : Session :=
  match x.phase with
  | .charging => { x with phase := .suspended r }
  | .suspended _ => if r = .offline then x else { x with phase := .suspended r }
  | .complete => x
  | .ending _ _ => x

/-- A cause of suspension is raised: the session takes it, and the bid is derived again (R60, R120). -/
def Work.suspendCause (w : Work) (r : SuspReason) : Work :=
  match w.ss.session with
  | none => w
  | some x => ({ w with ss := { w.ss with session := some (x.suspendFor r) } } : Work).derive

/-! ## Conditions (Table 64) -/

/-- The deadline-risk condition of R118. At an epoch expiry the projected energy has just been formed. -/
def State.deadlineRisk (s : State) : Bool :=
  match s.ss.session, s.ss.projected with
  | some x, some p => x.phase == .charging && decide (0 < x.deadline ∧ p < x.eRem)
  | _, _ => false

/-- Delivered energy of the session, 0 in EMPTY. -/
def State.delivered (s : State) : Nat := (s.ss.session.map Session.delivered).getD 0

/-- The condition as it stands; an event kind's never does (R167). -/
def State.holds (s : State) : Trigger → Bool
  | .peerSilent (some t) => s.peerIs t .silent || s.peerIs t .expelled
  | .peerSilent none => false
  | .budgetBelow q => decide (s.bu.bEff < q)
  | .targetBelowFloor => match s.ae.result with
    | some r => decide (r.ownTarget < r.ownFloor)
    | none => false
  | .stepEnd _ => false
  | .energyAt v => s.ss.session.isSome && decide (v ≤ s.delivered)
  | .deadlineRisk => s.deadlineRisk
  | .conflict => false
  | .mode m => s.mc.mode == m

/-! ## Firings (R168, R169) -/

/-- The booked action at the firing (R169). -/
def Work.takeAction (w : Work) : Action → Work
  | .notify => w
  | .shed => ({ w with bk := { w.bk with shed := true } } : Work).derive
  | .freeze => { w with bk := { w.bk with freeze := true } }
  | .suspend => w.suspendCause .booking

/-- The booking fires when its mark changes from clear to set (R168). -/
def Booking.fires (b : Booking) (holds : Bool) : Bool :=
  holds && !b.mark &&
    match b.state with
    | .armed => true
    | .pending _ _ => b.repeats
    | .spent => false

/-- The BKU evaluates booking `i`: the condition is `holds` with notice value `value`; for an event kind the mark
clears at once after (R167, R168). A ONCE booking is SPENT from its firing; the posting makes it PENDING where the
notice is withheld (Table 65). -/
def Work.evaluate (w : Work) (i : Nat) (holds event : Bool) (value : Nat) : Work :=
  match w.bk.table.getD i none with
  | none => w
  | some b =>
    let fired := b.fires holds
    let b' : Booking :=
      { b with
        mark := holds && !event
        state := if fired && !b.repeats then .spent else b.state }
    let w : Work := { w with bk := { w.bk with table := w.bk.table.set i (some b') } }
    if fired then ({ w with firings := w.firings ++ [(i, value)] } : Work).takeAction b.action else w

/-- A quantity is handed to the BKU: `sel` says, for a trigger of the kind, whether its condition holds, whether it is
an event kind, and the notice value. The bookings are taken in ascending order (R168). -/
def Work.hand (w : Work) (sel : Trigger → Option (Bool × Bool × Nat)) : Work :=
  (List.range Config.bookings).foldl
    (fun (w : Work) i =>
      match (w.bk.table.getD i none).bind (fun b => sel b.trigger) with
      | some (holds, event, value) => w.evaluate i holds event value
      | none => w) w

/-- A change of the entry of station `t` (R50, R47); `moved` says that it went from Live to Silent. -/
def Work.handPeer (w : Work) (t : Nat) (moved : Bool) : Work :=
  let st := w.toState
  w.hand fun
    | .peerSilent (some u) => if u = t then some (st.holds (.peerSilent (some u)), false, t) else none
    | .peerSilent none => if moved then some (true, true, t) else none
    | _ => none

/-- A change of B_eff (R7). -/
def Work.handBudget (w : Work) : Work :=
  let b := w.bu.bEff
  w.hand fun
    | .budgetBelow q => some (decide (b < q), false, b)
    | _ => none

/-- A computation, or the emptying of the record (R81). -/
def Work.handTarget (w : Work) : Work :=
  let st := w.toState
  w.hand fun
    | .targetBelowFloor => some (st.holds .targetBelowFloor, false, (st.ae.result.map Result.ownTarget).getD 0)
    | _ => none

/-- An epoch expiry (R118). -/
def Work.handRisk (w : Work) : Work :=
  let st := w.toState
  w.hand fun
    | .deadlineRisk => some (st.deadlineRisk, false, st.ss.projected.getD 0)
    | _ => none

/-- The STEP_END event with index `k` (R114). -/
def Work.handStepEnd (w : Work) (k : Nat) : Work :=
  w.hand fun
    | .stepEnd j => if j = k then some (true, true, k) else none
    | _ => none

/-- The delivered energy after a report, or a change into or out of EMPTY (R115). -/
def Work.handEnergy (w : Work) : Work :=
  let st := w.toState
  w.hand fun
    | .energyAt v => some (st.holds (.energyAt v), false, st.delivered)
    | _ => none

/-- A change of mode (R155). -/
def Work.handMode (w : Work) : Work :=
  let m := w.mc.mode
  w.hand fun
    | .mode n => some (m == n, false, modeCode n)
    | _ => none

/-- CONFLICT, once after the whole map change, with the lowest quantum lost (R34, R167). -/
def Work.handConflict (w : Work) : Work :=
  match w.conflictLost with
  | [] => w
  | q :: qs =>
    let v := qs.foldl min q
    ({ w with conflictLost := [] } : Work).hand fun
      | .conflict => some (true, true, v)
      | _ => none

/-- At START and at RESTART every condition is evaluated afresh without firing (R167). -/
def Work.refreshMarks (w : Work) : Work :=
  let st := w.toState
  { w with bk := { w.bk with table := w.bk.table.map fun o => o.map fun b => { b with mark := st.holds b.trigger } } }

/-! ## The notice queue (R170 to R173) -/

/-- Sets the overrun mark on the newest notice (R172). -/
def markNewest : List Notice → List Notice
  | [] => []
  | [n] => [{ n with overrun := true }]
  | n :: ns => n :: markNewest ns

/-- An URGENT notice is offered (R171, R172). -/
def postUrgent (q : List Notice) (n : Notice) : List Notice :=
  if q.length < Config.noticePlaces then q ++ [n] else markNewest q

/-- The notice of a booking (R168). -/
def bookingNotice (i : Nat) (b : Booking) (value time : Nat) : Notice :=
  { booking := i, code := triggerCode b.trigger, value := value, tags := b.tags, urgent := b.urgent, time := time
    overrun := false }

/-- Time of a notice: ms since START, a 32-bit count that wraps (R170). -/
def State.noticeTime (s : State) : Nat := s.sinceStart % 4294967296

/-- The notice of a firing is posted or withheld, and the booking's state follows Table 65. -/
def Bookings.offer (k : Bookings) (i value time : Nat) : Bookings :=
  match k.table.getD i none with
  | none => k
  | some b =>
    let posted := if b.repeats then BookState.armed else BookState.spent
    if b.urgent then
      { k with
        notices := postUrgent k.notices (bookingNotice i b value time)
        table := k.table.set i (some { b with state := posted }) }
    else
      match b.state with
      | .pending _ _ => { k with table := k.table.set i (some { b with state := .pending value time }) }
      | _ =>
        if k.notices.length ≤ Config.infoLevel then
          { k with
            notices := k.notices ++ [bookingNotice i b value time]
            table := k.table.set i (some { b with state := posted }) }
        else { k with table := k.table.set i (some { b with state := .pending value time }) }

/-- The lowest-numbered PENDING booking with its withheld value and time. -/
def pendingBooking (t : List (Option Booking)) : Option (Nat × Booking × Nat × Nat) :=
  t.zipIdx.findSome? fun (o, i) => match o with
    | some b => match b.state with
      | .pending v time => some (i, b, v, time)
      | _ => none
    | none => none

/-- Posts one withheld notice while the level is at 8 or fewer (R171). -/
def Bookings.postWithheld (k : Bookings) : Bookings :=
  if k.notices.length ≤ Config.infoLevel then
    match pendingBooking k.table with
    | some (i, b, v, time) =>
      { k with
        notices := k.notices ++ [bookingNotice i b v time]
        table := k.table.set i (some { b with state := if b.repeats then .armed else .spent }) }
    | none => k
  else k

/-- Repeats it: each posting raises the level, so nine rounds bring the level above 8 or leave none PENDING. -/
def Bookings.postAllWithheld (k : Bookings) : Bookings :=
  (List.range (Config.infoLevel + 1)).foldl (fun k _ => k.postWithheld) k

/-- Number of URGENT notices in the queue. -/
def Bookings.urgentCount (k : Bookings) : Nat := k.notices.countP Notice.urgent

/-- Number of PENDING bookings. -/
def Bookings.pendingCount (k : Bookings) : Nat :=
  k.table.countP fun o => match o with
    | some b => match b.state with
      | .pending _ _ => true
      | _ => false
    | none => false

/-- The ATTN line, true for asserted (R173). -/
def State.attn (s : State) : Bool :=
  match s.cpi.cfg with
  | none => false
  | some c => decide (c.attention ≤ s.bk.notices.length) || decide (0 < s.bk.urgentCount)

/-- A system notice (Table 66). -/
def systemNotice (c : SysCode) (value : Nat) (tags : List Byte) (time : Nat) : Notice :=
  { booking := 255, code := 128 + sysCode c, value := value, tags := tags, urgent := true, time := time
    overrun := false }

/-- The order of Table 66 in which a step's system notices are offered. -/
def sysOrder : List SysCode :=
  [.configMismatch, .rateSuspect, .duplicateStation, .txDropped, .drainStuck, .converterFault, .meterLost, .sessionEnd]

/-- The system notices of a step in the order of Table 66, then the firings in ascending order of booking number with
each booking's in the order of their handings (R171). -/
def Work.flushNotices (w : Work) : Work :=
  let time := w.toState.noticeTime
  let sys := sysOrder.flatMap fun c => w.sysNotices.filter (fun n => n.1 == c)
  let q := sys.foldl (fun q n => postUrgent q (systemNotice n.1 n.2.1 n.2.2 time)) w.bk.notices
  let fir := (List.range Config.bookings).flatMap fun i => w.firings.filter (fun f => f.1 == i)
  let k := fir.foldl (fun (k : Bookings) f => k.offer f.1 f.2 time) { w.bk with notices := q }
  { w with bk := k, sysNotices := [], firings := [] }

end Sys2Proof.Machine
end

