-- ==== Sys2Proof/Machine/Link.lean ====
section
/-! DEFINITION. The transmit queue and the waiting frames (R102 to R104), the attempt in progress (R145 to R148), and
the receive error counts (R143). -/

namespace Sys2Proof.Machine

/-! ## Order (R102) -/

/-- `a` stands before `b`: the lower key, that is the lower class, then the older. -/
def QFrame.before (a b : QFrame) : Bool :=
  decide (classOf a.frame < classOf b.frame) || (classOf a.frame == classOf b.frame && decide (a.id < b.id))

/-- Puts a frame in its place by key and age. -/
def insertFrame (f : QFrame) : List QFrame → List QFrame
  | [] => [f]
  | x :: xs => if f.before x then f :: x :: xs else x :: insertFrame f xs

/-- The frame is on the line (R102). -/
def Link.onLine (l : Link) (f : QFrame) : Bool :=
  match l.attempt with
  | some (.frame id _ _) => id == f.id
  | _ => false

/-- Queued or waiting frames that satisfy `p`. A waiting frame counts as queued (R104). -/
def Link.anyQueued (l : Link) (p : QFrame → Bool) : Bool := l.queue.any p || l.waiting.any p

/-- While places are free, the head of the waiting frames moves into the queue (R104). -/
def Link.promote (l : Link) : Link :=
  let n := Config.queuePlaces - l.queue.length
  { l with queue := (l.waiting.take n).foldl (fun q f => insertFrame f q) l.queue, waiting := l.waiting.drop n }

/-! ## Merging and coalescing (R103) -/

/-- Adds quanta to the frames `sel` picks, oldest first, up to 8 in each; gives the frames and the quanta left. -/
def mergeInto (sel : QFrame → Option (List Nat)) (put : List Nat → Frame) :
    List Nat → List QFrame → List QFrame × List Nat
  | qs, [] => ([], qs)
  | qs, x :: xs =>
    match sel x with
    | none => let r := mergeInto sel put qs xs; (x :: r.1, r.2)
    | some have_ =>
      let room := 8 - have_.length
      let r := mergeInto sel put (qs.drop room) xs
      ({ x with frame := put (have_ ++ qs.take room) } :: r.1, r.2)

/-- Cuts a list into runs of up to 8; `n` is at least its length. -/
def runsOf8 : Nat → List Nat → List (List Nat)
  | 0, _ => []
  | _ + 1, [] => []
  | n + 1, q :: qs => (q :: qs).take 8 :: runsOf8 n ((q :: qs).drop 8)

/-- The newest frame of class 4 that is not on the line (R104). -/
def Link.newestReport (l : Link) : Option QFrame :=
  l.queue.reverse.find? fun f => classOf f.frame == 4 && !l.onLine f

/-- A new frame takes a place (R104). -/
def Link.place (l : Link) (f : Frame) : Link :=
  let x : QFrame := { id := l.nextId, frame := f, retry := 0 }
  let l := { l with nextId := l.nextId + 1 }
  if l.queue.length < Config.queuePlaces then { l with queue := insertFrame x l.queue }
  else if classOf f = 4 then l
  else match l.newestReport with
    | some y => { l with queue := insertFrame x (l.queue.filter (fun z => z.id ≠ y.id)) }
    | none => { l with waiting := insertFrame x l.waiting }

/-- Quanta are merged into the frames `sel` picks, and the rest form new frames of up to 8 (R103). -/
def Link.mergeOrPlace (l : Link) (sel : QFrame → Option (List Nat)) (put : List Nat → Frame) (qs : List Nat) : Link :=
  let pick := fun f => if l.onLine f then none else sel f
  let listed := (l.queue ++ l.waiting).flatMap fun f => (pick f).getD []
  let new := (onceEach qs).filter fun q => !listed.contains q
  let a := mergeInto pick put new l.queue
  let b := mergeInto pick put a.2 l.waiting
  (runsOf8 b.2.length b.2).foldl (fun l qs => l.place (put qs)) { l with queue := a.1, waiting := b.1 }

/-- A frame of the same kind not on the line is replaced in its place by age; otherwise the frame takes a place. -/
def Link.coalesceOrPlace (l : Link) (same : Frame → Bool) (f : Frame) : Link :=
  let hit := fun x => same x.frame && !l.onLine x
  let swap := fun x : QFrame => if hit x then { x with frame := f, retry := 0 } else x
  if l.anyQueued hit then { l with queue := l.queue.map swap, waiting := l.waiting.map swap } else l.place f

/-- Quanta of a CONTEST. -/
def contestQuanta (f : QFrame) : Option (List Nat) :=
  match f.frame with
  | .contest qs => some qs
  | _ => none

/-- Quanta of a RELEASE with beneficiary `b`. -/
def releaseQuanta (b : Option Nat) (f : QFrame) : Option (List Nat) :=
  match f.frame with
  | .release c qs => if c = b then some qs else none
  | _ => none

/-- A new frame is offered to the queue (R103, R104). -/
def Link.enqueue (l : Link) (f : Frame) : Link :=
  match f with
  | .contest qs => l.mergeOrPlace contestQuanta .contest qs
  | .release b qs => l.mergeOrPlace (releaseQuanta b) (.release b) qs
  | .report _ _ _ _ _ _ _ _ _ => l.coalesceOrPlace (fun g => kindOf g == .report) f
  | .budget _ _ _ _ => l.coalesceOrPlace (fun g => kindOf g == .budget) f
  | .claim _ | .yieldReq _ _ _ _ | .yieldAns _ _ _ | .join _ _ _ | .leave => l.place f

/-- Originated by the Holdings Controller (Table 38). -/
def ofHoldings (f : Frame) : Bool :=
  match kindOf f with
  | .contest | .yieldAns | .release | .yieldReq | .claim => true
  | .budget | .report | .join | .leave => false

/-- In LISTENING no frame of the Holdings Controller is queued (R55). -/
def State.mayQueue (s : State) (f : Frame) : Bool := !(s.mc.mode == .listening && ofHoldings f)

/-- A frame is offered to the queue inside a step; an empty list of quanta makes no CONTEST and no RELEASE. -/
def Work.enqueue (w : Work) (f : Frame) : Work :=
  match f with
  | .contest [] => w
  | .release _ [] => w
  | _ => if w.toState.mayQueue f then { w with lc := w.lc.enqueue f } else w

/-! ## Removal -/

/-- Removes the frames satisfying `p` that are not on the line, from queue and waiting frames. -/
def Link.removeOffLine (l : Link) (p : Frame → Bool) : Link :=
  let keep := fun x : QFrame => l.onLine x || !p x.frame
  ({ l with queue := l.queue.filter keep, waiting := l.waiting.filter keep } : Link).promote

/-- The frames `removeOffLine` removes. -/
def Link.offLineFrames (l : Link) (p : Frame → Bool) : List QFrame :=
  (l.queue ++ l.waiting).filter fun x => !l.onLine x && p x.frame

/-- The frame with age stamp `id` leaves the queue. -/
def Link.dropId (l : Link) (id : Nat) : Link :=
  ({ l with queue := l.queue.filter (fun x => x.id ≠ id) } : Link).promote

/-- The attempt is not made again should it fail. -/
def Attempt.asLast : Attempt → Attempt
  | .frame id us _ => .frame id us true
  | .probe join us _ => .probe join us true
  | .brk us => .brk us

/-- An attempt in progress is not made again should it fail (R83, R151); the probe is abandoned (R150). -/
def Link.lastAttempt (l : Link) : Link := { l with attempt := l.attempt.map Attempt.asLast }

/-- An attempt ends; a break asked for meanwhile begins at once (R151). The line has just carried a character,
and its quiet time begins (R145; log 4). -/
def Link.endAttempt (l : Link) : Link :=
  { l with attempt := if l.breakDue then some (.brk 0) else none, breakDue := false, quietUs := 0, heldUs := 0 }

/-- A break is asked for (R151): at once, or after the own attempt in progress. -/
def Link.askBreak (l : Link) : Link :=
  match l.attempt with
  | none => { l with attempt := some (.brk 0), quietUs := 0, heldUs := 0 }
  | some (.brk _) => l
  | some _ => { l with breakDue := true }

/-! ## A frame that comes back (R103) -/

/-- The newer frame `y` takes the place by age of the frame with age stamp `id`, with retry count 0 (R103, R148). -/
def Link.yieldPlace (l : Link) (id : Nat) (y : QFrame) : Link :=
  let put := fun x : QFrame => if x.id = id then { x with frame := y.frame, retry := 0 } else x
  ({ l with
    queue := (l.queue.filter fun x => x.id ≠ y.id).map put
    waiting := l.waiting.filter fun x => x.id ≠ y.id } : Link).promote

/-- A newer frame of kind `k` takes the place of the one with age stamp `id`. -/
def Link.supersede (l : Link) (id : Nat) (k : FrameKind) : Link :=
  match (l.queue ++ l.waiting).find? fun y => y.id != id && kindOf y.frame == k with
  | some y => l.yieldPlace id y
  | none => l

/-- Quanta `qs` leave a CONTEST; one left with none goes. Other frames stay as they are. -/
def QFrame.withoutQuanta (qs : List Nat) (x : QFrame) : Option QFrame :=
  match x.frame with
  | .contest ps =>
    match ps.filter fun q => !qs.contains q with
    | [] => none
    | rest => some { x with frame := .contest rest }
  | _ => some x

/-- The quanta `qs` of the CONTEST with age stamp `id` leave every other CONTEST. -/
def Link.contestOnce (l : Link) (id : Nat) (qs : List Nat) : Link :=
  let clean := fun y : QFrame => if y.id = id then some y else y.withoutQuanta qs
  ({ l with queue := l.queue.filterMap clean, waiting := l.waiting.filterMap clean } : Link).promote

/-- The frame with age stamp `id` returns to its place after a lost arbitration or a transmit error. The frames queued
while it was on the line were not compared with it by R103; now they are, so that no two REPORTs or BUDGETs and no two
CONTESTs of one quantum wait together (R103; log 55). -/
def Link.returned (l : Link) (id : Nat) : Link :=
  match (l.queue.find? fun x => x.id == id).map QFrame.frame with
  | some (.report _ _ _ _ _ _ _ _ _) => l.supersede id .report
  | some (.budget _ _ _ _) => l.supersede id .budget
  | some (.contest qs) => l.contestOnce id qs
  | _ => l

/-! ## Receive counts (R143) -/

/-- A valid frame resets the receive error run and the RATE_SUSPECT mark; the line has just carried it. -/
def Link.validFrame (l : Link) : Link := { l with rxRun := 0, rateSuspect := false, quietUs := 0, heldUs := 0 }

/-- A receive error is counted; the eighth in a row sets RATE_SUSPECT and posts the notice (R143). -/
def Work.countReceiveError (w : Work) : Work :=
  let n := min 65535 (w.lc.rxErrors + 1)
  let run := min Config.runLimit (w.lc.rxRun + 1)
  let suspect := run = Config.runLimit ∧ w.lc.rateSuspect = false
  let w : Work :=
    { w with lc := { w.lc with
        rxErrors := n
        listenErrors := min 65535 (w.lc.listenErrors + 1)
        rxRun := run
        rateSuspect := w.lc.rateSuspect || decide suspect
        quietUs := 0, heldUs := 0 } }
  if suspect then w.notice .rateSuspect n else w

end Sys2Proof.Machine
end

