-- ==== Sys2Proof/Machine/Holdings.lean ====
section
/-! DEFINITION. The Holdings Controller: drains and their completion, giving up Pending quanta, the claim, the sweep,
promises and lost frames (05_claiming_draining_and_yielding.md; R22, R28 to R30 and R40 of 02_the_quantum_map.md). -/

namespace Sys2Proof.Machine

/-! ## Draining (R28, R86) -/

/-- A quantum enters the drain list at `now` (R86). -/
def Drain.enter (now q : Nat) : Drain :=
  { quantum := q, entered := now, timeoutAt := now + Config.drainMs, stuck := false, mark := none }

/-- Quanta that are Mine become Draining in the order given, and enter the drain list (R28, R86). A quantum that is not
Mine is left as it is. -/
def Work.startDrain (w : Work) (reason : DrainReason) (beneficiary : Option Nat) (qs : List Nat) : Work :=
  let qs := qs.filter fun q => w.toState.entry q == .mine
  { w with
    map := qs.foldl (fun m q => m.set q (.draining reason beneficiary)) w.map
    hc := { w.hc with drains := w.hc.drains ++ qs.map (Drain.enter w.now) }
    newDrains := w.newDrains ++ qs }

/-- The station's Mine quanta satisfying `p`, in ascending order. -/
def State.mineWhere (s : State) (p : Nat → Bool) : List Nat := quantaWhere s.map fun q e => e == .mine && p q

/-- Every Mine quantum satisfying `p` becomes Draining, with no beneficiary. -/
def Work.drainMine (w : Work) (reason : DrainReason) (p : Nat → Bool) : Work :=
  w.startDrain reason none (w.toState.mineWhere p)

/-- Puts a drain-list entry in its place by quantum number. -/
def insertDrain (d : Drain) : List Drain → List Drain
  | [] => [d]
  | x :: xs => if d.quantum ≤ x.quantum then d :: x :: xs else x :: insertDrain d xs

/-- The entries of the drain list after the first `n`, which entered it in one map change, stand in ascending order of
number (R86). -/
def Work.orderDrains (w : Work) (n : Nat) : Work :=
  { w with hc := { w.hc with drains := w.hc.drains.take n ++ (w.hc.drains.drop n).foldr insertDrain [] } }

/-- Quanta freed locally, without any frame: those that are Draining become Free or Withdrawn (R30). -/
def Work.freeLocally (w : Work) (qs : List Nat) : Work :=
  { w with
    map := qs.foldl (fun m q => if (m.getD q .free).isDraining then m.set q (w.toState.vacant q) else m) w.map
    hc := { w.hc with drains := w.hc.drains.filter fun d => !qs.contains d.quantum } }

/-- The drain of a quantum completes with no frame that could be heard (R30). In LISTENING no RELEASE is queued either
(R55; log 56). -/
def State.freesLocally (s : State) : Bool :=
  s.mc.mode == .muted || s.mc.mode == .offline || s.mc.duplicate || s.mc.mode == .listening

/-- What the completion of a drain makes of the entry at once (R29, R30). -/
def State.drained (s : State) (q : Nat) : QEntry → QEntry
  | .draining .conflict (some winner) => .held winner false
  | .draining .conflict none => s.vacant q
  | .draining r b => if s.freesLocally then s.vacant q else .draining r b
  | e => e

/-- The beneficiary with which the completed quantum is released; none where it is not released by frame. -/
def State.releaseTo (s : State) (q : Nat) : Option (Option Nat) :=
  match s.entry q with
  | .draining .conflict _ => none
  | .draining _ b => if s.freesLocally then none else some b
  | _ => none

/-- The drains of `qs`, in list order, complete: conflict losses become Held by the winner, and the others are freed
locally or released, quanta of one beneficiary sharing frames (R29, R30, R87). -/
def Work.completeDrains (w : Work) (qs : List Nat) : Work :=
  let st := w.toState
  let order := onceEach (qs.filterMap st.releaseTo)
  let w : Work :=
    { w with
      map := qs.foldl (fun m q => m.set q (st.drained q (m.getD q .free))) w.map
      hc := { w.hc with drains := w.hc.drains.filter fun d => !qs.contains d.quantum } }
  order.foldl (fun (w : Work) b => w.enqueue (.release b (qs.filter fun q => st.releaseTo q == some b))) w

/-- Every drain in the list completes (R88, R89, R136). -/
def Work.completeAll (w : Work) : Work := w.completeDrains (w.hc.drains.map Drain.quantum)

/-! ## The claim (R19 to R22, R91) -/

/-- The claim ends; the Holdings Controller may claim again (R91, R92). -/
def Work.endClaim (w : Work) : Work := { w with hc := { w.hc with claim := none }, considerClaim := true }

/-- Quanta of the claim in settle. -/
def State.settling (s : State) : List Nat :=
  match s.hc.claim with
  | some (.settling qs _) => qs
  | _ => []

/-- Quantum `q` leaves the claim in settle; the claim ends with its last quantum (R20). A lost quantum raises the need,
at which the Holdings Controller considers a claim (R91). -/
def Work.leaveClaim (w : Work) (q : Nat) : Work :=
  match w.hc.claim with
  | some (.settling qs t) =>
    if qs.contains q then
      match qs.filter (· ≠ q) with
      | [] => w.endClaim
      | rest => { w with hc := { w.hc with claim := some (.settling rest t) }, considerClaim := true }
    else w
  | _ => w

/-- Pending quanta are given up: they become Free or Withdrawn at once and leave the claim, and where `byFrame` a RELEASE
without beneficiary listing them is queued (R22). -/
def Work.giveUpPending (w : Work) (byFrame : Bool) (qs : List Nat) : Work :=
  let qs := qs.filter fun q => w.toState.entry q == .pending
  let st := w.toState
  let w := qs.foldl (fun (w : Work) q => (w.setEntry q (st.vacant q)).leaveClaim q) w
  if byFrame then w.enqueue (.release none qs) else w

/-- Quanta listed in a CLAIM that is queued or on the line and not yet heard (R84). -/
def State.claimQueued (s : State) : List Nat :=
  match s.hc.claim with
  | some (.queued qs) => qs
  | _ => []

/-- The need, with the amount by which it lies below 0 (R84). -/
def State.needParts (s : State) : Nat × Nat :=
  let have_ := s.heldCount + s.promisedCount + s.claimQueued.length
  (s.hc.target - have_, have_ - s.hc.target)

/-- The need, 0 where it is met (R84). -/
def State.need (s : State) : Nat := s.needParts.1

/-- R84 permits claims and yield requests. -/
def State.mayTake (s : State) : Bool :=
  s.mc.mode == .active && s.charging && !s.bk.freeze && !s.withdrawing

/-- The quantum is eligible for a claim (R90). -/
def State.eligible (s : State) (q : Nat) : Bool :=
  s.entry q == .free && decide (q < s.bu.bEff) && !s.claimQueued.contains q &&
    match s.conf.homeStation q with
    | none => true
    | some t => t == s.own || s.peerIs t .absent || s.peerIs t .left

/-- The eligible quanta, own home quanta first, then the others, each in ascending order (R91). -/
def State.eligibleQuanta (s : State) : List Nat :=
  let e := (List.range Config.quanta).filter s.eligible
  e.filter s.ownHome ++ e.filter (fun q => !s.ownHome q)

/-- A frame of kind `k` is queued or waiting. -/
def State.hasQueued (s : State) (k : FrameKind) : Bool := s.lc.anyQueued fun x => kindOf x.frame == k

/-- A CLAIM of up to the lesser of the need and 8 eligible quanta is queued where R91 has one queued; at most one CLAIM is
queued (R104). -/
def Work.considerClaiming (w : Work) : Work :=
  let s := w.toState
  let qs := s.eligibleQuanta.take (min s.need 8)
  if w.considerClaim && s.mayTake && s.hc.needOpen && s.hc.claim.isNone && !s.hasQueued .claim && !qs.isEmpty then
    ({ w with hc := { w.hc with claim := some (.queued qs) } } : Work).enqueue (.claim qs)
  else w

/-! ## The outstanding request and the sweep (R93 to R96) -/

/-- The sweep ends; a request it has outstanding survives it (R93). -/
def Work.endSweep (w : Work) : Work :=
  { w with hc := { w.hc with sweep := none, request := w.hc.request.map fun r => { r with ofSweep := false } } }

/-- How a request of the sweep ended. -/
inductive Reply where
  /-- an answer that granted this many quanta -/
  | granted (n : Nat)
  /-- no answer: timeout, or a frame dropped or removed (R94) -/
  | noAnswer
  deriving DecidableEq, Repr

/-- Where the sweep goes on after a request of it ended (Table 37). In the home stage it goes on with the next station
(log 18). -/
def State.sweepAfter (s : State) (sw : Sweep) (r : Reply) : Option Sweep :=
  match sw.stage with
  | .home _ => some sw
  | .donors rest =>
    let next := some { stage := .donors rest.tail, firstAt := none }
    match r, policyOf s.conf.policy with
    | .granted (_ + 1), _ => next
    | _, .stop => none
    | .granted 0, .persist =>
      if s.now - sw.firstAt.getD s.now < Config.persistMs then some sw else next
    | _, _ => next

/-- The outstanding request ends; a sweep that sent it goes on (R94, R96). -/
def Work.endRequest (w : Work) (r : Reply) : Work :=
  let ours := (w.hc.request.map Request.ofSweep).getD false
  let sweep := match w.hc.sweep with
    | some sw => if ours then w.toState.sweepAfter sw r else some sw
    | none => none
  { w with hc := { w.hc with request := none, sweep := sweep } }

/-- Own home quanta below B_eff that the map shows Held by `t`, in ascending order (R93). -/
def State.homeHeldBy (s : State) (t : Nat) : List Nat :=
  quantaWhere s.map fun q e => e.heldBy t && s.ownHome q && decide (q < s.bu.bEff)

/-- Target of station `t` in the last result record (R94). -/
def State.targetOf (s : State) (t : Nat) : Nat := ((s.ae.result.map Result.targets).getD []).getD t 0

/-- Surplus of a donor: its held count over its target (R94). -/
def State.surplusOf (s : State) (t : Nat) : Nat := s.heldCountOf t - s.targetOf t

/-- Floor of the bid recorded for `t`; an absent bid counts as 0 (R95). -/
def State.bidFloorOf (s : State) (t : Nat) : Nat :=
  (((s.ptu.entries[t]?).bind Peer.bid).map PeerBid.floor).getD 0

/-- What `t` can be asked for in the donor stage: its surplus, or under ROTATE its held count over its floor. -/
def State.askable (s : State) (t : Nat) : Nat :=
  if !s.peerIs t .live || t == s.own then 0
  else match policyOf s.conf.policy with
    | .rotate => s.heldCountOf t - s.bidFloorOf t
    | _ => s.surplusOf t

/-- Station `a` comes before `b` in the donor order (R94). -/
def State.donorBefore (s : State) (a b : Nat) : Bool :=
  let u := fun t => ((s.ptu.entries[t]?).map Peer.unanswered).getD 0
  decide (s.surplusOf b < s.surplusOf a) ||
    (s.surplusOf a == s.surplusOf b && (decide (u a < u b) || (u a == u b && decide (a < b))))

/-- Puts a station in its place in the donor order. -/
def State.insertDonor (s : State) (t : Nat) : List Nat → List Nat
  | [] => [t]
  | x :: xs => if s.donorBefore t x then t :: x :: xs else x :: s.insertDonor t xs

/-- The donor order as it is formed when the donor stage begins (R94, R95). -/
def State.donorOrder (s : State) : List Nat :=
  match policyOf s.conf.policy with
  | .rotate =>
    ((List.range s.conf.nSt).map fun i => (s.hc.rotate + 1 + i) % s.conf.nSt).filter (· ≠ s.own)
  | _ =>
    ((List.range s.conf.nSt).filter fun t => decide (0 < s.askable t)).foldl (fun l t => s.insertDonor t l) []

/-- A yield request is queued and becomes the outstanding request (R96). -/
def Work.sendRequest (w : Work) (t : Nat) (disp : Disposition) (count : Nat) (listed : List Nat) : Work :=
  ({ w with hc := { w.hc with
      request := some { target := t, disp := disp, count := count, listed := listed, echoAt := none, ofSweep := true,
                        answered := false } } }
    : Work).enqueue (.yieldReq t count disp listed)

/-- One move of the sweep: it ends when the need is met, and while no request is outstanding and no YIELD-REQ queued (R104;
log 63) it moves on, sends a request, or ends with its order (R93 to R95). The 400 ms of PERSIST run from the queueing of
the first request (log 62). -/
def Work.sweepMove (w : Work) : Work :=
  let s := w.toState
  match s.hc.sweep with
  | none => w
  | some sw =>
    if s.need = 0 then w.endSweep
    else if s.hc.request.isSome || s.hasQueued .yieldReq then w
    else match sw.stage with
      | .home [] =>
        { w with hc := { w.hc with sweep := some { stage := .donors s.donorOrder, firstAt := none } } }
      | .home (t :: ts) =>
        let w : Work := { w with hc := { w.hc with sweep := some { sw with stage := .home ts } } }
        let qs := (s.homeHeldBy t).take s.need
        if s.peerIs t .live && !qs.isEmpty then w.sendRequest t .home qs.length qs else w
      | .donors [] => w.endSweep
      | .donors (t :: ts) =>
        let n := min (min s.need (s.askable t)) 8
        if n = 0 then
          { w with hc := { w.hc with sweep := some { stage := .donors ts, firstAt := none } } }
        else
          let rotate := if policyOf s.conf.policy = .rotate then t else s.hc.rotate
          let w : Work := { w with hc := { w.hc with
            rotate := rotate
            sweep := some { sw with firstAt := some (sw.firstAt.getD s.now) } } }
          w.sendRequest t .surplus n []

/-- The sweep moves until it has a request outstanding or has ended: at most N_st moves in each stage and three more. -/
def Work.sweepRun (w : Work) : Work := (List.range 68).foldl (fun (w : Work) _ => w.sweepMove) w

/-- The sweep starts, at most once for each target, at the first moment at which R84 permits requests (R93). Where FREEZE was
in force at the target and no sweep has run for it, the clearing of FREEZE is such a moment: R169 keeps a sweep that has run
from starting again and does not speak of one that has not, and this is the model's choice (log 78). -/
def Work.considerSweep (w : Work) : Work :=
  let s := w.toState
  if s.mayTake && s.hc.needOpen && decide (0 < s.need) && !s.hc.sweepRun && s.eligibleQuanta.isEmpty then
    { w with hc := { w.hc with
      sweepRun := true, sweep := some { stage := .home (List.range s.conf.nSt), firstAt := none } } }
  else w

/-- A promise none of whose quanta carries its mark ends (R98). -/
def State.livePromise (s : State) (p : Promise) : Bool :=
  p.quanta.any fun q => s.entry q == .held p.donor true

/-- A map change of the step has made a quantum Free (R91). A Withdrawn quantum becomes Free by a rise of B_eff alone,
and those are taken up by claims made after the next allocation (R11; log 17). -/
def Work.madeFree (w : Work) : Bool :=
  (w.before.map.zip w.map).any fun (a, b) => b == .free && !(a == .free) && !(a == .withdrawn)

/-- B_eff has fallen in the step (R9). -/
def Work.budgetFell (w : Work) : Bool := decide (w.bu.bEff < w.before.bu.bEff)

/-- A sweep is started, and the sweep goes on (R93 to R95); but the only frame a fall of B_eff causes is the RELEASE of R9
(R8), so in the step of a fall no YIELD-REQ is queued and the sweep stands until a later step (log 71), or ends where the
need is met (R93). -/
def Work.sweepProgress (w : Work) : Work :=
  if !w.budgetFell then w.considerSweep.sweepRun
  else if w.toState.need = 0 then w.endSweep
  else w

/-- What the Holdings Controller does at the end of a step: promises that have ended go, a sweep that is no longer
permitted ends, a claim is considered, a sweep is started, and the sweep goes on (R84, R91, R93, R98). -/
def Work.holdingsProgress (w : Work) : Work :=
  let w : Work := { w with hc := { w.hc with promises := w.hc.promises.filter w.toState.livePromise } }
  let w := if w.toState.mayTake then w else w.endSweep
  let w : Work := { w with considerClaim := w.considerClaim || w.madeFree }
  w.considerClaiming.sweepProgress

/-! ## Targets (R84, R85) -/

/-- The claim's CLAIM is queued and not on the line: it is removed, and the claim ends with no quantum taken. -/
def Work.removeQueuedClaim (w : Work) : Work :=
  let isClaim := fun f => kindOf f == .claim
  if (w.lc.offLineFrames isClaim).isEmpty then w
  else ({ w with lc := w.lc.removeOffLine isClaim } : Work).endClaim

/-- A YIELD-REQ queued and not on the line is removed; its request ends with no answer (R94). -/
def Work.removeQueuedRequest (w : Work) : Work :=
  let isReq := fun f => kindOf f == .yieldReq
  if (w.lc.offLineFrames isReq).isEmpty then w
  else ({ w with lc := w.lc.removeOffLine isReq } : Work).endRequest .noAnswer

/-- Quanta with `p`, highest number first. -/
def State.descending (s : State) (p : Nat → QEntry → Bool) : List Nat := (quantaWhere s.map p).reverse

/-- The surplus of `n` quanta is given up in the order of R85. -/
def Work.drainSurplus (w : Work) (n : Nat) : Work :=
  let s := w.toState
  let pend := s.descending (fun q e => e == .pending && !s.ownHome q) ++
    s.descending (fun q e => e == .pending && s.ownHome q)
  let mine := s.descending (fun q e => e == .mine && !s.ownHome q) ++
    s.descending (fun q e => e == .mine && s.ownHome q)
  (w.giveUpPending true (pend.take n)).startDrain .surplus none (mine.take (n - pend.length))

/-- A new target is handed to the Holdings Controller (R84). -/
def Work.newTarget (w : Work) (t : Nat) : Work :=
  let w := w.endSweep.removeQueuedClaim
  let w : Work := { w with hc := { w.hc with target := t, sweepRun := false }, considerClaim := true }
  let held := w.toState.heldCount
  if t < held then
    ({ w with hc := { w.hc with needOpen := false } } : Work).drainSurplus (held - t)
  else { w with hc := { w.hc with needOpen := decide (held < t) } }

/-! ## Arrivals (R27, R136) -/

/-- What a quantum that becomes Mine ends as in the same map change, by converter and mode (R136, R156, R158). While the
converter is LOST it drains with Shutdown in every mode (R136; log 58). -/
def State.settledReason (s : State) (q : Nat) : Option DrainReason :=
  if s.ci.conv = .lost then some .shutdown
  else if (s.mc.mode = .isolated ∨ s.mc.mode = .muted) ∧ s.ownHome q = false then some .isolation
  else none

/-- Own target in the last result record, 0 before the first (R27, R100). -/
def State.recordTarget (s : State) : Nat := (s.ae.result.map Result.ownTarget).getD 0

/-- What a quantum that arrives through a RELEASE to this station ends as (R27, and R136 while the converter is LOST; log
58); `marked` says that it carried the promise-to-me mark. The held count does not yet count it. -/
def State.arrivalReason (s : State) (q : Nat) (marked : Bool) : Option DrainReason :=
  if s.sessionEnding ∨ s.mc.mode = .offline ∨ s.withdrawing then some .shutdown
  else match s.settledReason q with
    | some r => some r
    | none => if marked = false ∧ s.recordTarget < s.heldCount + 1 then some .surplus else none

/-- A quantum becomes Mine, or goes straight to Draining with a reason. -/
def Work.takeMine (w : Work) (q : Nat) (reason : Option DrainReason) : Work :=
  let w := w.setEntry q .mine
  match reason with
  | none => w
  | some r => w.startDrain r none [q]

/-! ## Frames lost from the queue (R30, R105) -/

/-- The Holdings Controller acts on a frame that was emptied, removed or dropped (R105). -/
def Work.lostFrame (w : Work) (f : Frame) : Work :=
  match f with
  | .release _ qs => w.freeLocally qs
  | .claim _ =>
    match w.hc.claim with
    | some (.queued _) => w.endClaim
    | _ => w
  | .yieldReq _ _ _ _ => w.endRequest .noAnswer
  | .contest _ | .yieldAns _ _ _ | .budget _ _ _ _ | .report _ _ _ _ _ _ _ _ _ | .join _ _ _ | .leave => w

/-- The frames with `p` that are not on the line are removed, and R105 is applied to each. -/
def Work.loseFrames (w : Work) (p : Frame → Bool) : Work :=
  let gone := w.lc.offLineFrames p
  gone.foldl (fun (w : Work) x => w.lostFrame x.frame) { w with lc := w.lc.removeOffLine p }

/-- The queue and the waiting frames are emptied, with R105 applied. A frame on the line is left to the end of its
attempt and then not tried again (log 26). -/
def Work.emptyQueue (w : Work) : Work :=
  ({ w with lc := w.lc.lastAttempt } : Work).loseFrames fun _ => true

end Sys2Proof.Machine
end

