-- ==== Sys2Proof/Machine/Offers.lean ====
section
/-! DEFINITION. The Budget Unit: taking an offer, its expiry, forming B_eff, and what a fall and a rise of B_eff do to the
map (01_feeder_budget_and_quanta.md, R4 to R11). -/

namespace Sys2Proof.Machine

/-- B_eff for an offer list and an offers-seen flag (R7). -/
def effectiveBudget (c : Cfg) (offers : List Offer) (seen : Bool) : Nat :=
  match offers with
  | [] => if seen then c.bSafe else c.bCfg
  | o :: os => os.foldl (fun m x => min m x.value) (min c.bCfg o.value)

/-- What a fall of B_eff to `b` makes of entry `q` (R9). -/
def fallEntry (b bCfg q : Nat) (e : QEntry) : QEntry :=
  if b ≤ q ∧ q < bCfg then
    match e with
    | .free => .withdrawn
    | .withdrawn => .withdrawn
    | .mine => .draining .withdrawal none
    | .pending => .withdrawn
    | .draining .yield _ => .draining .withdrawal none
    | .draining r x => .draining r x
    | .held t _ => .held t false
  else e

/-- B_eff falls to `b` (R9): the map changes; quanta that were Mine enter the drain list, and those that were Pending
leave the claim and are listed in a RELEASE. -/
def Work.budgetFall (w : Work) (b : Nat) : Work :=
  let c := w.toState.conf
  let inRange := fun q => decide (b ≤ q ∧ q < c.bCfg)
  let mine := w.toState.mineWhere inRange
  let pend := quantaWhere w.map fun q e => e == .pending && inRange q
  let w : Work := { w with bu := { w.bu with bEff := b } }
  let w := (w.startDrain .withdrawal none mine).mapAll (fallEntry b c.bCfg)
  (pend.foldl (fun (w : Work) q => w.leaveClaim q) w).enqueue (.release none pend)

/-- B_eff rises to `b`: Withdrawn quanta below it become Free (R11). -/
def Work.budgetRise (w : Work) (b : Nat) : Work :=
  let w : Work := { w with bu := { w.bu with bEff := b } }
  w.mapAll fun q e => if e = .withdrawn ∧ q < b then .free else e

/-- B_eff is formed again, and a value different from the previous one is handed on (R7). -/
def Work.formBudget (w : Work) : Work :=
  let b := effectiveBudget w.toState.conf w.bu.offers w.bu.seen
  if b < w.bu.bEff then (w.budgetFall b).handBudget
  else if w.bu.bEff < b then (w.budgetRise b).handBudget
  else w

/-- Sequence `n` is newer than `o` (R5). -/
def newerSeq (n o : Nat) : Bool :=
  let d := (n + 256 - o % 256) % 256
  decide (1 ≤ d ∧ d ≤ 127)

/-- Clamps to a range (00_scope.md, Ranges). -/
def clamp (lo hi n : Nat) : Nat := max lo (min hi n)

/-- The offer a full list gives up: the highest value, and among those the lowest source (R5). -/
def highestOffer : List Offer → Option Offer
  | [] => none
  | o :: os =>
    match highestOffer os with
    | none => some o
    | some p => if p.value < o.value ∨ (p.value = o.value ∧ o.source < p.source) then some o else some p

/-- The offer list after an offer is heard; none where the offer is ignored (the table of R5). -/
def takeOffer (l : List Offer) (o : Offer) : Option (List Offer) :=
  match l.find? (fun x => x.source == o.source) with
  | some old =>
    if newerSeq o.seq old.seq then some (l.map fun x => if x.source = o.source then o else x) else none
  | none =>
    if l.length < Config.offerPlaces then some (l ++ [o])
    else match highestOffer l with
      | some h => if o.value < h.value then some (l.map fun x => if x.source = h.source then o else x) else none
      | none => none

/-- A BUDGET frame heard from `sender`, the own echo included (R5). -/
def Work.hearBudget (w : Work) (sender source value seq hold : Nat) : Work :=
  let c := w.toState.conf
  if source ≠ sender ∨ c.nSt ≤ source ∨ w.toState.peerIs source .mismatched then w
  else
    let o : Offer :=
      { source := source, value := clamp 0 c.bCfg value, seq := seq
        expiry := w.toState.sinceStart + clamp 1 60 hold * 1000 }
    match takeOffer w.bu.offers o with
    | some l => ({ w with bu := { w.bu with offers := l, seen := true } } : Work).formBudget
    | none => w

end Sys2Proof.Machine
end

