-- ==== Sys2Proof/Machine/Session.lean ====
section
/-! DEFINITION. The Session Sequencer: steps, energy, completion, resumption and the end of a session
(06_charging_sessions_and_plans.md). -/

namespace Sys2Proof.Machine

/-- Changes the session record, if there is one. -/
def Work.setSession (w : Work) (f : Session → Session) : Work :=
  { w with ss := { w.ss with session := w.ss.session.map f } }

/-- The session becomes COMPLETE; the bid is derived again (R117, R60). -/
def Session.complete (x : Session) : Session := { x with phase := .complete }

/-! ## End conditions (R113) -/

def Session.energyEnds (x : Session) (st : PlanStep) : Bool :=
  decide (0 < st.endEnergy ∧ st.endEnergy ≤ x.stepEnergy)

def Session.durationEnds (x : Session) (st : PlanStep) : Bool :=
  decide (0 < st.endDuration ∧ st.endDuration * 1000 ≤ x.stepTime)

def Session.acceptanceEnds (x : Session) (st : PlanStep) : Bool :=
  decide (0 < st.endAcceptance ∧ x.pAcc < st.endAcceptance)

def Session.deadlineEnds (x : Session) (st : PlanStep) : Bool := st.endAtDeadline && x.runOut

/-- The conditions tested on one occasion; the first that holds, in the order of R113, is the cause. -/
def Session.endCause (x : Session) (causes : List EndCause) : Option EndCause :=
  match x.step with
  | none => none
  | some st => causes.find? fun
    | .energy => x.energyEnds st
    | .duration => x.durationEnds st
    | .acceptance => x.acceptanceEnds st
    | .deadline => x.deadlineEnds st

/-! ## Steps (R112, R114) -/

/-- The record as the current step is entered (R112). -/
def Session.enter (x : Session) : Session :=
  { x with entered := true, stepMark := x.joules, stepEnergy := 0, stepTime := 0 }

/-- The current step ends with a cause (R114). -/
def Session.endStep (x : Session) (c : EndCause) : Session :=
  { x with stepsDone := x.stepsDone + 1, lastEnd := some c }

/-- The current step is entered, and the plan advances until a step does not end at its entry or the session is
COMPLETE; gives the record and the indices of the steps ended, in order. `n` bounds the steps still to enter. -/
def Session.enterSteps : Nat → Session → Session × List Nat
  | 0, x => (x.complete, [])
  | n + 1, x =>
    let x := x.enter
    match x.step with
    | none => (x.complete, [])
    | some st =>
      if st.kind = .halt then (x.complete, [])
      else match x.endCause [.acceptance, .deadline] with
        | none => (x, [])
        | some c =>
          let y := x.endStep c
          if x.plan.length ≤ x.stepIndex then (y.complete, [x.stepIndex])
          else
            let r := Session.enterSteps n { y with stepIndex := y.stepIndex + 1 }
            (r.1, x.stepIndex :: r.2)

/-- The current step ends, and the plan advances (R114). -/
def Session.advancePlan (x : Session) (c : EndCause) : Session × List Nat :=
  let y := x.endStep c
  if x.plan.length ≤ x.stepIndex then (y.complete, [x.stepIndex])
  else
    let r := Session.enterSteps (x.plan.length - x.stepIndex) { y with stepIndex := y.stepIndex + 1 }
    (r.1, x.stepIndex :: r.2)

/-- The record after a chain of steps is put in place: the bid is derived again, and the STEP_END events are handed to
the BKU in order of index (R107, R114; log 20). -/
def Work.putSession (w : Work) (r : Session × List Nat) : Work :=
  let w := (w.setSession fun _ => r.1).derive
  r.2.foldl (fun (w : Work) k => w.handStepEnd k) w

/-- In CHARGING, the conditions `causes` of the current step are tested, and the step ends if one holds (R113). -/
def Work.testStep (w : Work) (causes : List EndCause) : Work :=
  match w.ss.session with
  | none => w
  | some x =>
    if x.phase = .charging then
      match x.endCause causes with
      | some c => w.putSession (x.advancePlan c)
      | none => w
    else w

/-- In CHARGING, an E_rem of 0 makes the session COMPLETE (R116). -/
def Work.testRemaining (w : Work) : Work :=
  match w.ss.session with
  | none => w
  | some x => if x.phase = .charging ∧ x.eRem = 0 then (w.setSession Session.complete).derive else w

/-! ## Energy (R115, R116) -/

/-- E_rem is formed (R116). -/
def Session.formRemaining (x : Session) : Session := { x with eRem := x.eReq - x.delivered }

/-- An energy increment is taken in (R115). -/
def Session.addEnergy (x : Session) (e : Nat) : Session :=
  if 65535 ≤ x.delivered then x.formRemaining
  else
    let j := x.joules + e
    ({ x with
      joules := j
      delivered := min 65535 (j / Config.joulesPerUnit)
      stepEnergy := min 65535 ((j - x.stepMark) / Config.joulesPerUnit) } : Session).formRemaining

/-- What a valid meter report does to the session: the increment, the ENERGY_AT bookings, the end conditions, and
E_rem, in this order (R113, R115, R116; log 64). -/
def Work.sessionMeter (w : Work) (e : Nat) : Work :=
  let w := (w.setSession fun x => x.addEnergy e).handEnergy
  (w.testStep [.energy, .acceptance]).testRemaining

/-! ## Resumption (R123, R124) -/

/-- The session becomes CHARGING as an accepted RESUME makes it (R123). -/
def Work.resumeSession (w : Work) : Work :=
  match w.ss.session with
  | none => w
  | some x =>
    let y : Session := { x with phase := .charging }
    if x.entered then
      (((w.setSession fun _ => y).derive).testStep [.acceptance, .deadline]).testRemaining
    else (w.putSession (Session.enterSteps y.plan.length y)).testRemaining

/-- The converter state is FAULT or LOST. -/
def State.converterDown (s : State) : Bool := s.ci.conv == .fault || s.ci.conv == .lost

/-- The mode enters ACTIVE with the isolate request clear: a session SUSPENDED with reason OFFLINE resumes, or takes
reason CONVERTER (R124). -/
def Work.autoResume (w : Work) : Work :=
  match w.ss.session with
  | some x =>
    if x.phase = .suspended .offline ∧ w.mc.isolateReq = false then
      if w.toState.converterDown then w.suspendCause .converter else w.resumeSession
    else w
  | none => w

/-! ## The end of a session (R125, R126) -/

/-- A session becomes ENDING (R125). -/
def Work.endSession (w : Work) (why : EndReason) : Work :=
  let left := w.toState.sessState
  let w := (w.setSession fun x => { x with phase := .ending why left }).derive
  let w := w.drainMine .shutdown fun _ => true
  let w := w.giveUpPending true w.toState.settling
  w.removeQueuedClaim.removeQueuedRequest.endSweep

/-- The tag bytes of SESSION_END (R126). -/
def sessionEndTags (x : Session) : List Byte :=
  match x.phase with
  | .ending why left => [byteOf x.stepsDone, byteOf (endReasonCode why), byteOf (sessCode left)]
  | _ => [0, 0, 0]

/-- The session leaves ENDING for EMPTY when nothing is held and no own CLAIM awaits its echo (R126). -/
def Work.testSessionEnd (w : Work) : Work :=
  match w.ss.session with
  | none => w
  | some x =>
    if w.toState.sessionEnding && w.toState.holdsNothing && w.toState.noClaimAwaiting then
      let w := w.notice .sessionEnd x.delivered (sessionEndTags x)
      (({ w with ss := { w.ss with session := none } } : Work).derive).handEnergy
    else w

/-! ## Terms (R107) -/

/-- Step cap term. -/
def State.capTerm (s : State) : Nat :=
  match s.ss.session with
  | none => 0
  | some x =>
    if x.phase = .charging then
      match x.step with
      | some st => if st.kind = .bulk ∨ st.kind = .taper ∨ st.kind = .topup then st.cap else 0
      | none => 0
    else 0

/-- Acceptance term. -/
def State.accTerm (s : State) : Nat := (s.ss.session.map Session.pAcc).getD 0

end Sys2Proof.Machine
end

