-- ==== Sys2Proof/Machine/Setpoint.lean ====
section
/-! DEFINITION. The Converter Interface: the setpoint, the messages, INHIBIT, meter reports and their drain tests
(07_converter_port.md). -/

namespace Sys2Proof.Machine

/-! ## Setpoint (R129, R130) -/

/-- Mode limit (Table 52). -/
def State.modeLimit (s : State) : Nat :=
  match s.mc.mode with
  | .active => (if s.mc.solo then min s.mineCount s.conf.sSolo else s.mineCount) * s.conf.qs10
  | .isolated | .muted => s.homeMineCount * s.conf.qs10
  | .unconfigured | .configured | .listening | .tripped | .offline => 0

/-- P_set as it is formed from the terms as they stand (R129). -/
def State.formSetpoint (s : State) : Nat :=
  if s.converterDown then 0
  else min s.capTerm (min s.accTerm (min s.conf.pMax (min (s.mineCount * s.conf.qs10) s.modeLimit)))

/-- The value setpoint messages carry for a P_set (R130). -/
def sendValueOf (pMin p : Nat) : Nat := if p < pMin then 0 else p

/-- One or more of the three causes of INHIBIT holds (R138). -/
def State.inhibitCause (s : State) : Bool := s.ci.causeTripped || s.hc.stuck || s.ci.causeLost

/-- Limit and inhibit flag of the latest message, being sent or sent (R131). -/
def State.latestMessage (s : State) : Nat × Bool :=
  match s.ci.outbox.getLast? with
  | some m => (m.limit, m.inhibit)
  | none => (s.ci.lastLimit, s.ci.lastInhibit)

/-- A setpoint message with the send value and INHIBIT state current is sent (R131). That a message sent at once which waits
behind one being sent carries the values as they stand at its cause, and not at its own start, is the model's choice
(log 77). -/
def State.sendMessage (s : State) (marks : List Nat) : State :=
  { s with ci := { s.ci with outbox := s.ci.outbox ++ [{ limit := s.ci.sendValue, inhibit := s.ci.inhibit, marks := marks }] } }

/-- The messages not yet complete no longer record the marks of `qs`, quanta that enter the drain list in this step: each
entry's mark is the completion of the message sent at its own entry (R131), and an earlier entry of the quantum has gone. -/
def State.forgoMarks (s : State) (qs : List Nat) : State :=
  { s with ci := { s.ci with
    outbox := s.ci.outbox.map fun m => { m with marks := m.marks.filter fun q => !qs.contains q } } }

/-- A setpoint message on the Converter Port: 0xA1, the limit with its high byte first, and the inhibit flag (R187). -/
def SetMsg.bytes (m : SetMsg) : List Byte := [0xA1#8] ++ be2 m.limit ++ [flagByte m.inhibit]

/-- One bit of a character on the Converter Port (R187). -/
inductive PortBit where
  | start
  | data (b : Bool)
  | stop
  deriving DecidableEq, Repr

/-- A Converter Port character: one start bit, 8 data bits with the least significant first, one stop bit (R187). -/
def portCharacter (b : Byte) : List PortBit := .start :: ((List.range 8).map fun i => .data (b.getLsbD i)) ++ [.stop]

/-- The byte of a character received on the Converter Port, its first data bit the least significant; none for bits that
are no character, which is a framing error (R132, R187). -/
def portByte : List PortBit → Option Byte
  | [.start, .data b0, .data b1, .data b2, .data b3, .data b4, .data b5, .data b6, .data b7, .stop] =>
    some (byteOf ([b7, b6, b5, b4, b3, b2, b1, b0].foldl (fun n b => 2 * n + b.toNat) 0))
  | _ => none

/-- The message that the CI is sending, by its bytes; none while the port is idle (R131, R187). -/
def State.ctxBytes (s : State) : List Byte := (s.ci.outbox.head?.map SetMsg.bytes).getD []

/-- What the CI drives on CTX for the message it is sending, bit by bit (R187). -/
def State.ctx (s : State) : List PortBit := s.ctxBytes.flatMap portCharacter

/-- P_set and the send value are formed again, and INHIBIT is asserted where a cause holds (R129, R130, R138). Its release
waits for the next refresh (R131, R160). -/
def State.reform (s : State) : State :=
  let p := s.formSetpoint
  { s with ci := { s.ci with pSet := p, sendValue := sendValueOf s.conf.pMin p, inhibit := s.ci.inhibit || s.inhibitCause } }

/-- At the end of a step P_set is formed again, and a message is sent at once where R131, or a rule of the step, has
one sent (log 34). -/
def Work.formAndSend (w : Work) : Work :=
  let w := w.onState State.reform
  let last := w.toState.latestMessage
  if w.ci.sendValue < last.1 ∨ (w.ci.inhibit = true ∧ last.2 = false) ∨ w.newDrains ≠ [] ∨ w.sendAtOnce = true then
    w.onState fun s => (s.forgoMarks w.newDrains).sendMessage w.newDrains
  else w

/-- A refresh (R131): INHIBIT is released unless a cause holds it, and a message carries the send value and INHIBIT as they
then stand (R137, R138, R160; log 67). -/
def State.refresh (s : State) : State :=
  ({ s with ci := { s.ci with inhibit := s.inhibitCause } } : State).sendMessage []

/-- The last character of the message at the head leaves the port: the drain-confirm mark of each entry it was sent at is
recorded (R131). -/
def State.messageSent (s : State) (m : SetMsg) (rest : List SetMsg) : State :=
  let n := s.ci.sentCount + 1
  { s with
    ci := { s.ci with
      outbox := rest, lastLimit := m.limit, lastInhibit := m.inhibit, lastSentAt := some s.now, sentCount := n
      limits := (m.limit :: s.ci.limits).take Config.limitsKept }
    hc := { s.hc with drains := s.hc.drains.map fun d =>
      if d.mark.isNone && m.marks.contains d.quantum then { d with mark := some n } else d } }

/-! ## Meter reports (R132, R133) -/

/-- The messages that characters received on the Converter Port make, each character with the idle time in front of it,
µs, and none for one with a framing error (R132): an idle time of 1 ms or more ends a message, a shorter one does not
(R187). -/
def converterMessages : List (Nat × Option Byte) → List (List (Option Byte))
  | [] => []
  | (_, b) :: rest =>
    match rest, converterMessages rest with
    | (gap, _) :: _, m :: ms => if Config.messageGapUs ≤ gap then [b] :: m :: ms else (b :: m) :: ms
    | _, _ => [[b]]

/-- The fields of a valid meter report; none where R132 or R187 discards the message. -/
def readMeter (pMax : Nat) (msg : List Byte) (began : Nat) : Option Meter :=
  if msg.length = 7 ∧ at1 msg 0 = 0xB2 ∧ 10 * at2 msg 1 ≤ 11 * pMax then
    (convOf (at1 msg 5)).map fun st =>
      { power := at2 msg 1, energy := at2 msg 3, state := st, faultCode := at1 msg 6, began := began }
  else none

/-- The limit whose message was the last complete before the report's reception began (R133). -/
def State.limitBefore (s : State) (overlap : Nat) : Nat := (s.ci.limits.drop overlap).headD 0

/-- The confirmation test for a drain-list entry (R87, R133). -/
def Drain.confirmedBy (d : Drain) (r : Meter) (limit : Nat) : Bool :=
  !d.stuck && decide (r.power ≤ limit + Config.drainTolerance) &&
    match d.mark with
    | some m => decide (m ≤ r.began)
    | none => false

/-- The low-power test (R88, R133). -/
def Meter.lowPower (r : Meter) : Bool := decide (r.power ≤ Config.drainTolerance)

/-- DRAIN_STUCK is cleared and the quiesce timer stopped (R88). -/
def Work.clearStuck (w : Work) : Work := { w with hc := { w.hc with stuck := false, quiesceAt := none } }

/-- The drain tests of a report (R87, R88, R133): one of low power completes every entry and ends DRAIN_STUCK, and any
other completes the entries it confirms. With an empty list a report has no effect on the Holdings Controller. -/
def Work.drainTests (w : Work) (r : Meter) (limit : Nat) : Work :=
  if w.hc.drains.isEmpty then w
  else if r.lowPower then w.completeAll.clearStuck
  else w.completeDrains ((w.hc.drains.filter fun d => d.confirmedBy r limit).map Drain.quantum)

/-- A report ends LOST: the drain timeouts of entries in phase draining start again, and a stuck entry goes back under
the quiesce timer with its full T_q (R89, R137). -/
def Work.endLost (w : Work) (r : Meter) : Work :=
  let again := fun d : Drain => if d.stuck then d else { d with timeoutAt := w.now + Config.drainMs }
  { w with
    ci := { w.ci with conv := r.state, lostQuiesce := .stopped, causeLost := false }
    hc := { w.hc with
      drains := w.hc.drains.map again
      quiesceAt := if w.hc.stuck then some (w.now + w.toState.conf.tQ) else none } }

/-- The converter changes into FAULT (R134); `lost` says that it was LOST, so that CONVERTER is already in force. -/
def Work.converterFault (w : Work) (code : Nat) (lost : Bool) : Work :=
  let w := if lost then w else w.suspendCause .converter
  ({ w with sendAtOnce := true } : Work).notice .converterFault code

/-- The converter state follows a valid report (R134, R137). -/
def Work.takeConverterState (w : Work) (before : ConvState) (r : Meter) : Work :=
  let w : Work := { w with ci := { w.ci with conv := r.state } }
  if r.state = .fault ∧ before ≠ .fault then w.converterFault r.faultCode (before == .lost) else w

/-- A valid meter report is taken (R133): it is recorded and the silence timer restarted; LOST ends; then the session
takes the energy, the Holdings Controller the drain tests, and the converter state is taken. That they are taken in this
order is the model's choice (log 68). -/
def Work.takeReport (w : Work) (r : Meter) (limit : Nat) : Work :=
  let before := w.ci.conv
  let w : Work := { w with ci := { w.ci with
    lastReport := some r, silenceAt := some (w.now + Config.silenceMs) } }
  let w := if before = .lost then w.endLost r else w
  ((w.sessionMeter r.energy).drainTests r limit).takeConverterState before r

/-! ## Meter loss (R135, R136) -/

/-- The converter becomes LOST (R135). -/
def Work.becomeLost (w : Work) : Work :=
  let n := w.toState.mineCount
  let w : Work :=
    { w with
      ci := { w.ci with
        conv := .lost, silenceAt := none, causeLost := true
        lostQuiesce := .running (w.now + w.toState.conf.tQ) }
      hc := { w.hc with quiesceAt := none }
      sendAtOnce := true }
  ((w.drainMine .shutdown fun _ => true).suspendCause .converter).notice .meterLost n

/-- Once the LOST quiesce timer stands expired, an entry added to the drain list completes in the same step (R136). -/
def Work.lostCompletes (w : Work) : Work :=
  if w.ci.conv = .lost ∧ w.ci.lostQuiesce = .expired then w.completeAll else w

end Sys2Proof.Machine
end

