-- ==== Sys2Proof/Machine/Share.lean ====
section
/-! DEFINITION. The share computation of an epoch (04_share_computation.md, R72 to R80). -/

namespace Sys2Proof.Machine

/-- A participant with its running grant (R72). -/
structure Part where
  station : Nat
  tier : Nat
  weight : Nat
  want : Nat
  floor : Nat
  grant : Nat
  deriving DecidableEq, Repr

/-- The participants, in ascending order of station number: the own station with its bid and every Live peer (R72). -/
def State.participants (s : State) : List Part :=
  s.ptu.entries.zipIdx.filterMap fun (x, t) =>
    if t = s.own then
      some { station := t, tier := s.ss.bid.tier, weight := s.ss.bid.weight, want := s.ss.bid.want
             floor := s.ss.bid.floor, grant := 0 }
    else if x.state = .live then
      match x.bid with
      | some b => some { station := t, tier := b.tier, weight := b.weight, want := b.want, floor := b.floor, grant := 0 }
      | none => some { station := t, tier := 0, weight := 1, want := 0, floor := 0, grant := 0 }
    else none

/-- Reserved quanta: entries below B_eff Held by a Silent or Expelled station (R73). -/
def State.reservedCount (s : State) : Nat :=
  (quantaWhere s.map fun q e => decide (q < s.bu.bEff) &&
    match e with
    | .held t _ => s.peerIs t .silent || s.peerIs t .expelled
    | _ => false).length

/-- The floors stage over participants in the order given: each floor that fits the remaining budget is granted (R74).
Gives the participants, the remaining budget and whether a floor was refused. -/
def floorsStage : List Part → Nat → List Part × Nat × Bool
  | [], r => ([], r, false)
  | p :: ps, r =>
    if p.floor ≤ r then
      let z := floorsStage ps (r - p.floor)
      ({ p with grant := p.floor } :: z.1, z.2.1, z.2.2)
    else
      let z := floorsStage ps r
      (p :: z.1, z.2.1, true)

/-- Participants in order of tier, highest first, and within one in ascending order of station number (R74). -/
def byTier (ps : List Part) : List Part := [3, 2, 1, 0].flatMap fun t => ps.filter fun p => p.tier == t

/-- Shortfall of a participant (R75). -/
def Part.short (p : Part) : Nat := p.want - p.grant

/-- Set U of a tier (R75). -/
def Part.open (t : Nat) (p : Part) : Bool := p.tier == t && decide (p.grant < p.want)

/-- Sum of the weights of U (R75). -/
def weightSum (u : List Part) : Nat := (u.map Part.weight).sum

/-- The saturation test of R75 for a total weight `w` and a remaining budget `r`. -/
def Part.saturates (w r : Nat) (p : Part) : Bool := decide (p.short * w ≤ p.weight * r)

/-- Quotient and remainder of the share by weight (R76). -/
def Part.quotient (w r : Nat) (p : Part) : Nat := p.weight * r / w
def Part.remainder (w r : Nat) (p : Part) : Nat := p.weight * r % w

/-- Participants of U that come before `p` for the residue: a larger remainder, or an equal one and a lower number
(R76). -/
def rankIn (u : List Part) (w r : Nat) (p : Part) : Nat :=
  u.countP fun x => decide (p.remainder w r < x.remainder w r) ||
    (x.remainder w r == p.remainder w r && decide (x.station < p.station))

/-- Shares `r` over the open participants of tier `t` by weight, and says whether a remainder was above 0 (R76). -/
def shareTier (t r : Nat) (ps : List Part) : List Part × Bool :=
  let u := ps.filter (Part.open t)
  let w := weightSum u
  let residue := r - (u.map (Part.quotient w r)).sum
  (ps.map fun p =>
    if p.open t then
      { p with grant := p.grant + p.quotient w r + (if rankIn u w r p < residue then 1 else 0) }
    else p,
   u.any fun p => decide (0 < p.remainder w r))

/-- Fills tier `t` (R75): the participants that pass the test are saturated together and the test is made again; when
none passes, the tier is shared by weight. `n` bounds the rounds. -/
def fillTier (t : Nat) : Nat → List Part × Nat × Bool → List Part × Nat × Bool
  | 0, z => z
  | n + 1, (ps, r, inexact) =>
    let u := ps.filter (Part.open t)
    if u.isEmpty ∨ r = 0 then (ps, r, inexact)
    else
      let w := weightSum u
      let sat := u.filter (Part.saturates w r)
      if sat.isEmpty then
        let z := shareTier t r ps
        (z.1, 0, inexact || z.2)
      else
        fillTier t n
          (ps.map fun p => if p.open t && p.saturates w r then { p with grant := p.want } else p,
           r - (sat.map Part.short).sum, inexact)

/-- The division of budget `a` among participants (R74 to R77): the participants with their final grants, the spare
count, and the flags FLOOR_SHORT and INEXACT. -/
def divide (ps : List Part) (a : Nat) : List Part × Nat × Bool × Bool :=
  let f := floorsStage (byTier ps) a
  let z := [3, 2, 1, 0].foldl (fun z t => fillTier t (ps.length + 1) z) (f.1, f.2.1, false)
  (z.1, z.2.1, f.2.2, z.2.2)

/-- Final grant of a station (R77). -/
def grantOf (ps : List Part) (t : Nat) : Nat := ((ps.find? fun p => p.station == t).map Part.grant).getD 0

/-- The result record of a computation on the state as it stands, for epoch sequence `seq` (R79, Table 24). -/
def State.compute (s : State) (seq : Nat) : Result :=
  let r := s.reservedCount
  let a := s.bu.bEff - r
  let ps := s.participants
  let z := divide ps a
  { seq := seq, bEff := s.bu.bEff, reserved := r, a := a
    participants := ps.map Part.station
    targets := (List.range 32).map (grantOf z.1)
    ownTarget := grantOf z.1 s.own
    ownWant := s.ss.bid.want, ownFloor := s.ss.bid.floor
    spareCount := z.2.1
    flags := { inexact := z.2.2.2, floorShort := z.2.2.1, saturated := s.ss.bid.saturated
               spare := decide (0 < z.2.1), reserved := decide (0 < r) } }

/-- The flags of a computation are ORed into the sticky flags (R80). -/
def CompFlags.or (a b : CompFlags) : CompFlags :=
  { inexact := a.inexact || b.inexact, floorShort := a.floorShort || b.floorShort
    saturated := a.saturated || b.saturated, spare := a.spare || b.spare, reserved := a.reserved || b.reserved }

/-- The projected energy of R118 for a slack; P_set is the limit last sent (log 22). -/
def projectedEnergy (pSet slack : Nat) : Nat := pSet * slack / 360

/-- The holdings set of the own REPORT (R31). -/
def State.holdings (s : State) : List Nat :=
  quantaWhere s.map fun _ e => match e with
    | .pending => true
    | .mine => true
    | .draining .conflict _ => false
    | .draining _ _ => true
    | _ => false

/-- The REPORT of an epoch expiry, its holdings still to be formed at the attempt (R31, R71). -/
def State.reportFrame (s : State) : Frame :=
  .report s.ae.seq s.ss.bid.tier s.ss.bid.weight s.ss.bid.want s.ss.bid.floor (sessCode s.sessState) s.vehicleTag []
    (s.cpi.fingerprint.getD 0)

/-- The whole operation of an epoch expiry (R70): the sequence and the bid, the REPORT, the computation, the record and
the sticky flags, and the handing on (R81, R118). The sequence is recorded as that of the own last REPORT (R43) where one
is offered to the queue, also where R104 discards it (log 23). The Booking Unit is handed the target for
TARGET_BELOW_FLOOR first and the deadline risk after it (log 66). -/
def Work.epoch (w : Work) : Work :=
  let w : Work := { w with ae := { w.ae with seq := (w.ae.seq + 1) % 256 } }
  let w := w.derive
  let w : Work := { w with ss := { w.ss with projected := w.ss.bid.slack.map (projectedEnergy w.ci.lastLimit) } }
  let w :=
    if w.mc.mode = .active ∨ w.mc.mode = .isolated then
      ({ w with ae := { w.ae with lastReportSeq := w.ae.seq } } : Work).enqueue w.toState.reportFrame
    else w
  let r := w.toState.compute w.ae.seq
  let w : Work := { w with ae := { w.ae with result := some r, sticky := w.ae.sticky.or r.flags } }
  let w := if w.toState.working then w.newTarget r.ownTarget else w
  w.handTarget.handRisk

end Sys2Proof.Machine
end

