-- ==== Sys2Proof/Machine/Peers.lean ====
section
/-! DEFINITION. The Peer Table Unit: what a frame heard does to the sender's entry, and ageing
(03_the_peer_table_and_joining.md, R44 to R52). -/

namespace Sys2Proof.Machine

/-- A JOIN or REPORT matches the own configuration (R45); other kinds are not checked. -/
def State.matches (s : State) : Frame → Bool
  | .report _ _ _ _ _ _ _ _ fp => s.cpi.fingerprint == some fp
  | .join fp nSt h => s.cpi.fingerprint == some fp && nSt == s.conf.nSt && h == s.conf.h
  | _ => true

/-- The frame is a JOIN or a REPORT. -/
def announces : Frame → Bool
  | .report _ _ _ _ _ _ _ _ _ => true
  | .join _ _ _ => true
  | _ => false

/-- Bid of a REPORT with the clamps of R48; a tier above 3 makes it absent. -/
def reportBid (tier weight want floor : Nat) : Option PeerBid :=
  if 3 < tier then none
  else
    let d := min want Config.quanta
    some { tier := tier, weight := max 1 (min weight 64), want := d, floor := min floor d }

/-- The entry after a frame from its station (Table 17, R46, R48), its ageing restarted (R52). -/
def Peer.hear (x : Peer) (now : Nat) (ok : Bool) (f : Frame) : Peer :=
  let x := { x with heardAt := some now }
  match f with
  | .leave => { x with state := .left, bid := none, summary := none, unanswered := 0 }
  | .report seq tier weight want floor sess tag _ _ =>
    if ok then
      { x with
        state := .live, lastSeq := seq, bid := reportBid tier weight want floor
        summary := (sessOf sess).map fun st => (st, tag) }
    else { x with state := .mismatched, bid := none, summary := none, fpSeen := true }
  | .join _ _ _ =>
    if ok then { x with state := .live }
    else { x with state := .mismatched, bid := none, summary := none, fpSeen := true }
  | _ => match x.state with
    | .silent => { x with state := .live }
    | .expelled => { x with state := .live }
    | _ => x

/-- The PTU takes a frame from station `t` (R44 to R48, R52): the entry changes, CONFIG_MISMATCH is posted at the first
mismatch, the line-heard time is renewed, the solo flag cleared (R57), and a change of the entry's state handed on. -/
def Work.hearPeer (w : Work) (t : Nat) (f : Frame) : Work :=
  match w.ptu.entries[t]? with
  | none => w
  | some x =>
    let ok := w.toState.matches f
    let y := x.hear w.now ok f
    let w : Work :=
      { w with
        ptu := { w.ptu with entries := w.ptu.entries.set t y, lineHeard := some w.now }
        mc := { w.mc with solo := false } }
    let w := if announces f && !ok && !x.fpSeen then w.notice .configMismatch t else w
    if y.state = x.state then w else w.handPeer t false

/-- A Live entry becomes Silent (R49, R50). -/
def Work.silence (w : Work) (t : Nat) : Work :=
  (w.onState fun s => s.setPeer t fun x => { x with state := .silent }).handPeer t true

/-- Entries after station `t` has gone: those shown Held by it, but its home quanta where `keepHome`, become Free or
Withdrawn, and Draining entries on its behalf lose the beneficiary (R35, R37). -/
def State.forgetEntry (s : State) (t : Nat) (keepHome : Bool) (q : Nat) (e : QEntry) : QEntry :=
  if keepHome && s.conf.homeStation q == some t then e
  else match e with
    | .held u m => if u = t then s.vacant q else .held u m
    | .draining r (some b) => if b = t then .draining r none else .draining r (some b)
    | e => e

def Work.forgetHoldings (w : Work) (t : Nat) (keepHome : Bool) : Work := w.mapAll (w.toState.forgetEntry t keepHome)

/-- A Silent entry becomes Expelled, and its holdings but its home quanta are freed (R37, R50). -/
def Work.expel (w : Work) (t : Nat) : Work :=
  ((w.onState fun s => s.setPeer t fun x => { x with state := .expelled }).forgetHoldings t true).handPeer t false

/-- One more unanswered yield request for `t` (R51). -/
def Work.countUnanswered (w : Work) (t : Nat) : Work :=
  w.onState fun s => s.setPeer t fun x => { x with unanswered := min 255 (x.unanswered + 1) }

end Sys2Proof.Machine
end

