-- ==== Sys2Proof/Machine/MapFrames.lean ====
section
/-! DEFINITION. What the frames of other stations and the own echoes do to the quantum map, and the answers of the
Holdings Controller to yield requests and answers (02_the_quantum_map.md, R18 to R35; R97, R99 to R101). -/

namespace Sys2Proof.Machine

/-! ## The conflict rule (R34) -/

/-- Winner between stations `u` and `v` over quantum `q` (R34). -/
def Cfg.winner (c : Cfg) (q u v : Nat) : Nat :=
  if c.homeStation q = some u then u
  else if c.homeStation q = some v then v
  else min u v

/-- A conflict over `q` between this station, holding it as Mine or Draining for another reason than Conflict, and `s`
(R34). Where `s` wins, a setpoint without `q` is sent at once, whichever the entry was. Gives the quanta to contest.
A quantum it loses after its drain has completed leaves its RELEASE queued, whose echo or loss frees it (log 72). -/
def Work.conflictOwn (w : Work) (q s : Nat) : Work × List Nat :=
  if w.toState.conf.winner q w.toState.own s = w.toState.own then (w, [q])
  else
    let w' := match w.toState.entry q with
      | .mine => w.startDrain .conflict (some s) [q]
      | _ => w.setEntry q (.draining .conflict (some s))
    ({ w' with conflictLost := w'.conflictLost ++ [q], sendAtOnce := true }, [])

/-- Own Draining with reason Conflict against `s` (R34): the winner between the recorded one and `s` is recorded. Where the
recorded winner has been dropped (R35, R37), `s` is recorded: the tables of R21, R32 and R34 name no result there, and this
is the model's choice (log 74). -/
def Cfg.laterWinner (c : Cfg) (q s : Nat) : Option Nat → Nat
  | some w => c.winner q w s
  | none => s

/-- A conflict between the holder `u` the map shows and `t` (R34): the mark stays if the holder wins. -/
def Cfg.conflictOthers (c : Cfg) (q u t : Nat) (marked : Bool) : QEntry :=
  if c.winner q u t = u then .held u marked else .held t false

/-- One quantum that station `t` states it holds: by a CONTEST (R21) or in the holdings of a REPORT (R32). -/
def Work.statedBy (w : Work) (t q : Nat) : Work × List Nat :=
  match w.toState.entry q with
  | .pending => ((w.setEntry q (.held t false)).leaveClaim q, [])
  | .mine => w.conflictOwn q t
  | .draining .conflict b => (w.setEntry q (.draining .conflict (some (w.toState.conf.laterWinner q t b))), [])
  | .draining _ _ => w.conflictOwn q t
  | .held u m => if u = t then (w, []) else (w.setEntry q (w.toState.conf.conflictOthers q u t m), [])
  | .free => (w.setEntry q (.held t false), [])
  | .withdrawn => (w.setEntry q (.held t false), [])

/-- Takes the quanta of one frame in the order given, each whole before the next, and gives the quanta to contest. -/
def Work.overQuanta (w : Work) (f : Work → Nat → Work × List Nat) (qs : List Nat) : Work × List Nat :=
  qs.foldl (fun z q => let r := f z.1 q; (r.1, z.2 ++ r.2)) (w, [])

/-- The CONTESTs of one frame are queued and its lost conflicts handed on, after the whole map change (R16, R18;
log 27). -/
def contestAndHand (z : Work × List Nat) : Work := (z.1.enqueue (.contest z.2)).handConflict

/-- The quanta that station `t` states it holds, as one map change (R16, R86). -/
def Work.statedAll (w : Work) (t : Nat) (qs : List Nat) : Work × List Nat :=
  let z := w.overQuanta (fun w q => w.statedBy t q) (w.toState.listedQuanta qs)
  (z.1.orderDrains w.hc.drains.length, z.2)

/-! ## Frames of another station -/

/-- One quantum of a CLAIM from `s` (R18). -/
def Work.claimedBy (w : Work) (s q : Nat) : Work × List Nat :=
  match w.toState.entry q with
  | .free => (w.setEntry q (.held s false), [])
  | .mine => (w, [q])
  | .draining .conflict _ => (w, [])
  | .draining _ _ => (w, [q])
  | .withdrawn => (w, [])
  | .pending => (w, [])
  | .held _ _ => (w, [])

/-- A CLAIM from `s` (R18). -/
def Work.hearClaim (w : Work) (s : Nat) (qs : List Nat) : Work :=
  contestAndHand (w.overQuanta (fun w q => w.claimedBy s q) (w.toState.listedQuanta qs))

/-- A CONTEST from `t` (R21). -/
def Work.hearContest (w : Work) (t : Nat) (qs : List Nat) : Work :=
  contestAndHand (w.statedAll t qs)

/-- The beneficiary of a RELEASE as it counts (R24). -/
def State.keptBeneficiary (s : State) (sender : Nat) : Option Nat → Option Nat
  | none => none
  | some b =>
    if s.conf.nSt ≤ b ∨ b = sender then none
    else if b = s.own then some b
    else if s.peerIs b .live || s.peerIs b .silent then some b
    else none

/-- One quantum of a RELEASE from `s` with the beneficiary `b` of R24 (R10, R23, R25). -/
def Work.releasedBy (w : Work) (s : Nat) (b : Option Nat) (q : Nat) : Work :=
  let st := w.toState
  let pass := fun (marked : Bool) => match b with
    | none => w.setEntry q .free
    | some t => if t = st.own then (w.setEntry q .free).takeMine q (st.arrivalReason q marked)
                else w.setEntry q (.held t false)
  match st.entry q with
  | .held t m =>
    if t = s then (if q < st.bu.bEff then pass m else w.setEntry q .withdrawn) else w
  | .free => pass false
  | .withdrawn | .pending | .mine | .draining _ _ => w

/-- A RELEASE from `s` (R23 to R25, R27). The quanta are taken in the order the frame lists them, so that the held count
with which R27 judges one already counts those before it (log 57). -/
def Work.hearRelease (w : Work) (s : Nat) (b : Option Nat) (qs : List Nat) : Work :=
  let b := w.toState.keptBeneficiary s b
  ((w.toState.listedQuanta qs).foldl (fun (w : Work) q => w.releasedBy s b q) w).orderDrains w.hc.drains.length

/-- The entries Held by `s` that its holdings do not list become Free or Withdrawn (R33). -/
def Work.unlisted (w : Work) (s : Nat) (qs : List Nat) : Work :=
  let st := w.toState
  w.mapAll fun q e => match e with
    | .held t m => if t = s ∧ qs.contains q = false then st.vacant q else .held t m
    | e => e

/-- The holdings of a REPORT from `s`, in ascending order (R32, R33). -/
def Work.hearHoldings (w : Work) (s : Nat) (qs : List Nat) : Work :=
  contestAndHand ((w.unlisted s qs).statedAll s qs)

/-! ## Answering as a donor (R99 to R101) -/

/-- What a SURPLUS request for `count` quanta is granted (R100). -/
def State.surplusGrant (s : State) (count : Nat) : List Nat :=
  let y := s.map.countP fun e => match e with
    | .draining .yield (some _) => true
    | .draining .conflict (some _) => true
    | _ => false
  (s.descending (fun q e => e == .mine && !s.ownHome q)).take (min count (s.heldCount - s.recordTarget - y))

/-- One listed quantum of a HOME request from `r` (R101): granted, or the reason it is not. -/
def State.homeAnswer (s : State) (r q : Nat) : Option YieldReason :=
  if s.conf.homeStation q ≠ some r ∨ s.bu.bEff ≤ q then some .notHeld
  else match s.entry q with
    | .mine => none
    | .draining .conflict _ => some .notHeld
    | .draining .yield (some b) => if b = r then none else some .alreadyPromised
    | .draining _ _ => none
    | .pending | .free | .withdrawn | .held _ _ => some .notHeld

/-- A granted home quantum: Mine goes to Draining, and an own Draining one keeps its place in the drain list (R101).
That a RELEASE without beneficiary already queued for such a quantum stays queued is the model's choice (log 79). -/
def Work.grantHome (w : Work) (r q : Nat) : Work :=
  match w.toState.entry q with
  | .mine => w.startDrain .yield (some r) [q]
  | .draining _ _ => w.setEntry q (.draining .yield (some r))
  | _ => w

/-- The Holdings Controller answers a YIELD-REQ addressed to this station (R99). -/
def Work.answerYield (w : Work) (r count : Nat) (disp : Disposition) (listed : List Nat) : Work :=
  let s := w.toState
  if !(s.mc.mode == .active || s.mc.mode == .isolated) || !s.peerIs r .live then w
  else match disp with
    | .surplus =>
      let g := s.surplusGrant count
      let reason := if g.length = count then YieldReason.none else .noSurplus
      (w.startDrain .yield (some r) g.reverse).enqueue (.yieldAns r (yieldReasonCode reason) g.reverse)
    | .home =>
      let qs := (List.range Config.quanta).filter (s.listedQuanta listed).contains
      let grants := (qs.filter fun q => s.homeAnswer r q == none).take 8
      let reason := (qs.findSome? fun q => s.homeAnswer r q).getD .none
      let giveUp := qs.filter fun q => s.entry q == .pending && s.conf.homeStation q == some r && decide (q < s.bu.bEff)
      let w := grants.foldl (fun (w : Work) q => w.grantHome r q) w
      (w.enqueue (.yieldAns r (yieldReasonCode reason) grants)).giveUpPending true giveUp

/-! ## Taking an answer (R97) -/

/-- The outstanding request, which is so from its queueing on, awaits the answer of `donor` (R96). -/
def State.awaits (s : State) (donor : Nat) : Bool := s.hc.request.any fun r => r.target == donor

/-- An answer that R97 has ignored has been heard from `donor`: where it is the target of the outstanding request, R51 no
longer counts that request unanswered. The request stays outstanding until its timeout (log 61). -/
def Work.noteAnswer (w : Work) (donor : Nat) : Work :=
  { w with hc := { w.hc with
    request := w.hc.request.map fun r => if r.target = donor then { r with answered := true } else r } }

/-- The Holdings Controller takes a YIELD-ANS from `donor` whose requester is this station (R97, R51). In OFFLINE and
LISTENING the answer is ignored but for R51: the unanswered count becomes 0, and the outstanding request to this donor is
no longer counted at its timeout (log 61). The outstanding request ends where this donor is its target, whether or not its echo has been heard; a YIELD-REQ of it that is
still queued stays so (log 63). -/
def Work.takeAnswer (w : Work) (donor reason : Nat) (granted : List Nat) : Work :=
  let why := yieldReasonOf reason
  let w := w.onState fun s => s.setPeer donor fun x => { x with unanswered := 0 }
  if !w.toState.working then w.noteAnswer donor
  else
    let w := w.onState fun s => s.setPeer donor fun x => { x with lastRefusal := some why }
    let s := w.toState
    let qs := (s.listedQuanta granted).filter fun q => (s.entry q).heldBy donor
    let w : Work :=
      { w with
        map := qs.foldl (fun m q => m.set q (.held donor true)) w.map
        hc := { w.hc with
          promises := if qs.isEmpty then w.hc.promises
            else w.hc.promises ++ [{ donor := donor, quanta := qs, expiry := w.now + Config.promiseMs }]
          lastRefusal := some why } }
    if w.toState.awaits donor then w.endRequest (.granted qs.length) else w

/-! ## Own echoes -/

/-- The echo of the own CLAIM (R19): Free quanta become Pending and settle, and the others are dropped from the claim.
In ENDING what became Pending is given up in the same step (R125). -/
def Work.echoClaim (w : Work) (qs : List Nat) : Work :=
  match w.hc.claim with
  | some (.queued _) =>
    let got := (w.toState.listedQuanta qs).filter fun q => w.toState.entry q == .free
    if got.isEmpty then w.endClaim
    else
      let w : Work :=
        { w with
          map := got.foldl (fun m q => m.set q .pending) w.map
          hc := { w.hc with claim := some (.settling got (w.now + Config.settleMs)) } }
      if w.toState.sessionEnding then w.giveUpPending true got else w
  | _ => w

/-- The echo of the own RELEASE (R26, R24). -/
def Work.echoRelease (w : Work) (b : Option Nat) (qs : List Nat) : Work :=
  let s := w.toState
  let b := s.keptBeneficiary s.own b
  (s.listedQuanta qs).foldl (fun (w : Work) q =>
    if (s.entry q).isDraining then
      let w : Work := { w with hc := { w.hc with drains := w.hc.drains.filter fun d => d.quantum ≠ q } }
      match b with
      | some t => w.setEntry q (if q < s.bu.bEff then .held t false else .withdrawn)
      | none => w.setEntry q (s.vacant q)
    else w) w

/-- The settle timer expires: what is still Pending of the claim becomes Mine, by mode and converter (R20, R136, R156,
R158; log 58). -/
def Work.settleClaim (w : Work) (qs : List Nat) : Work :=
  let qs := qs.filter fun q => w.toState.entry q == .pending
  ((qs.foldl (fun (w : Work) q => w.takeMine q (w.toState.settledReason q)) w).orderDrains w.hc.drains.length).endClaim

/-! ## Handing on (R44) -/

/-- A frame from another station is handed on by the PTU to the QMU, the BU and the HC, with the sender's entry as it now
stands (R5, R16, R44). A LEAVE can make home quanta of its sender eligible, at which the HC considers a claim (R91). -/
def Work.applyFrame (w : Work) (s : Nat) (f : Frame) : Work :=
  let good := !w.toState.peerIs s .mismatched
  match f with
  | .claim qs => if good then w.hearClaim s qs else w
  | .contest qs => if good then w.hearContest s qs else w
  | .release b qs => if good then w.hearRelease s b qs else w
  | .report _ _ _ _ _ _ _ hs _ => if good then w.hearHoldings s hs else w
  | .join _ _ _ => w
  | .leave => { w.forgetHoldings s false with considerClaim := true }
  | .budget source value seq hold => w.hearBudget s source value seq hold
  | .yieldReq target count disp listed => if target = w.toState.own then w.answerYield s count disp listed else w
  | .yieldAns requester reason granted => if requester = w.toState.own then w.takeAnswer s reason granted else w

/-- The echo of an own frame is handed on (R44): the QMU, the BU, and for a YIELD-REQ the HC apply it. -/
def Work.applyEcho (w : Work) (f : Frame) : Work :=
  match f with
  | .claim qs => w.echoClaim qs
  | .release b qs => w.echoRelease b qs
  | .budget source value seq hold => w.hearBudget w.toState.own source value seq hold
  | .yieldReq target _ _ _ =>
    { w with hc := { w.hc with request := w.hc.request.map fun r =>
      if r.target = target ∧ r.echoAt = none then { r with echoAt := some w.now } else r } }
  | .contest _ | .yieldAns _ _ _ | .report _ _ _ _ _ _ _ _ _ | .join _ _ _ | .leave => w

end Sys2Proof.Machine
end

