-- ==== Sys2Proof/Machine/Modes.lean ====
section
/-! DEFINITION. The Mode Controller: entry to each mode, the isolate drain, the restart, the duplicate fault
(09_degraded_operation.md; R54 to R59 of 03, R181 and R182 of 11), and the end of a step. -/

namespace Sys2Proof.Machine

/-! ## Changes of mode -/

/-- Transmitter state of a mode (R140). -/
def txOf : Mode → Transmitter
  | .active => .on
  | .isolated => .on
  | .muted => .probe
  | .unconfigured | .configured | .listening | .tripped | .offline => .off

/-- The mode changes and is handed on: the transmitter follows it (R140), need open is cleared on leaving and on entering
ACTIVE (R84), the echo-silence watch runs in ACTIVE and ISOLATED and is restarted on entry to ACTIVE (R158), and the BKU
evaluates its MODE bookings (R155). -/
def Work.setMode (w : Work) (m : Mode) : Work :=
  ({ w with
    mc := { w.mc with
      mode := m
      echoSince := if m = .active then some w.now else if m = .isolated then w.mc.echoSince else none
      errSince := if m = .isolated then w.mc.errSince else false }
    lc := { w.lc with tx := txOf m }
    hc := { w.hc with needOpen := w.hc.needOpen && !(m == .active) && !(w.mc.mode == .active) } } : Work).handMode

/-- A JOIN with the own fingerprint, N_st and H (R56, R150). -/
def State.joinFrame (s : State) : Frame := .join (s.cpi.fingerprint.getD 0) s.conf.nSt s.conf.h

/-- The epoch timer is started (R68). -/
def Work.startEpoch (w : Work) : Work := { w with ae := { w.ae with epochAt := some (w.now + w.toState.conf.tEp) } }

/-! ## ISOLATED (R156, R157) -/

/-- The quantum is not one of the own home quanta. -/
def State.foreign (s : State) (q : Nat) : Bool := !s.ownHome q

/-- Entry to ISOLATED (R156). -/
def Work.enterIsolated (w : Work) : Work :=
  let w := w.setMode .isolated
  let w := w.drainMine .isolation w.toState.foreign
  let w := w.giveUpPending true (w.toState.settling.filter w.toState.foreign)
  w.removeQueuedClaim.removeQueuedRequest.endSweep

/-- Isolation is judged from the line-heard time (R156, R157). -/
def Work.judgeIsolation (w : Work) : Work :=
  if w.mc.mode = .active ∧ w.mc.solo = false ∧ w.toState.conf.silenceMs ≤ w.toState.sinceLineHeard then w.enterIsolated
  else w

/-! ## MUTED (R149, R158) -/

/-- The kinds of frame the LC removes at the entry to MUTED (R149). -/
def removedAtMute (f : Frame) : Bool :=
  match kindOf f with
  | .claim | .contest | .yieldReq | .yieldAns | .report | .join => true
  | .release | .budget | .leave => false

/-- Quanta listed in the RELEASEs that are queued or waiting and not on the line (R30). -/
def Link.queuedReleases (l : Link) : List Nat :=
  (l.offLineFrames fun f => kindOf f == .release).flatMap fun x => match x.frame with
    | .release _ qs => qs
    | _ => []

/-- Entry to MUTED (R149, R158, R30). -/
def Work.enterMuted (w : Work) : Work :=
  let w := (w.setMode .muted).loseFrames removedAtMute
  let w := w.freeLocally w.lc.queuedReleases
  let w := w.drainMine .isolation w.toState.foreign
  let w := w.giveUpPending false (w.toState.settling.filter w.toState.foreign)
  { w.endSweep with lc := { w.lc with muteAt := some (w.now + w.lc.muteHold), probeDue := false } }

/-! ## OFFLINE (R161) -/

/-- Entry to OFFLINE. A LEAVE of a restart that waits is gone with the queue, and the restart goes on (R181). -/
def Work.enterOffline (w : Work) : Work :=
  let w := w.setMode .offline
  let w : Work :=
    { w with
      mc := { w.mc with listenAt := none, leaving := w.mc.leaving && w.mc.restarting }
      lc := { w.lc with muteAt := none, probeDue := false } }
  w.emptyQueue.suspendCause .offline

/-- The drain with which an isolate request or a restart begins (R161, R181). With the transmitter in probe or off no
RELEASE is queued for what was Pending. -/
def Work.beginDrain (w : Work) : Work :=
  let w := (w.suspendCause .offline).drainMine .shutdown fun _ => true
  let w := w.giveUpPending (w.lc.tx == .on) w.toState.settling
  w.removeQueuedClaim.removeQueuedRequest.endSweep

/-- The isolate request is set (R161). The session is suspended in every mode (R120; log 37); the drain begins in ACTIVE,
ISOLATED and MUTED. -/
def Work.requestIsolation (w : Work) : Work :=
  let w : Work := { w with mc := { w.mc with isolateReq := true } }
  if w.toState.working then w.beginDrain else w.suspendCause .offline

/-! ## TRIPPED (R159) and the clearing point (R182) -/

/-- Entry to TRIPPED, but for a restart in progress. -/
def Work.tripEffects (w : Work) : Work :=
  let w := w.setMode .tripped
  ({ w with
    mc := { w.mc with listenAt := none, leaving := false }
    ci := { w.ci with causeTripped := true }
    sendAtOnce := true
    map := w.toState.wipedMap
    hc := { w.hc with
      claim := none, request := none, sweep := none, promises := [], drains := [], stuck := false, quiesceAt := none
      needOpen := false }
    lc := { w.lc.lastAttempt.removeOffLine (fun f => !(kindOf f == .budget)) with muteAt := none, probeDue := false }
    ae := { w.ae with epochAt := none } } : Work).suspendCause .trip

/-- The blocks take the values given for RESTART (R182). The BKU evaluates every condition afresh from them (R167). -/
def Work.clearBlocks (w : Work) : Work :=
  let w := w.emptyQueue
  let c := w.toState.conf
  let own := w.toState.own
  ({ w with
    bu := { w.bu with offers := [], seen := false, bEff := c.bCfg }
    map := startMap c.bCfg
    ptu := { entries := freshTable c.nSt own, lineHeard := none, lineCleared := w.now }
    ae := { w.ae with sticky := CompFlags.clear }
    hc := { Holdings.reset own with rotate := w.hc.rotate }
    ss := { w.ss with bid := Bid.null }
    lc := { w.lc with
      txErrors := 0, rxErrors := 0, listenErrors := 0, rxRun := 0, rateSuspect := false
      muteHold := Config.muteHoldMin, muteAt := none, probeDue := false }
    mc := { w.mc with duplicate := false, restarting := false, leaving := false } } : Work).refreshMarks

/-- Entry to TRIPPED (R159). A restart in progress reaches its clearing point in the same step, and the station stays
TRIPPED (R181). -/
def Work.tripEntry (w : Work) : Work :=
  let w := w.tripEffects
  if w.mc.restarting then w.clearBlocks else w

/-! ## LISTENING (R54) -/

/-- Entry to LISTENING (R54, R52, R69, R79, R152). With the TRIP input asserted the station passes on into TRIPPED and
sends no break (R159). -/
def Work.enterListening (w : Work) : Work :=
  let w := w.setMode .listening
  let w : Work :=
    { w with
      mc := { w.mc with solo := false, listenAt := some (w.now + w.toState.conf.silenceMs) }
      ptu := { w.ptu with lineHeard := none, lineCleared := w.now }
      ae := { w.ae with epochAt := none, seq := 0, result := none }
      lc := { w.lc with txErrors := 0, listenErrors := 0 } }
  let w := w.handTarget
  if w.io.trip then w.tripEntry else w

/-- The clearing point of a restart (R182). -/
def Work.clearingPoint (w : Work) : Work :=
  let w := w.clearBlocks
  if w.mc.mode = .tripped then w else w.enterListening

/-- A RESTART is taken (R181). -/
def Work.restart (w : Work) : Work :=
  if w.mc.restarting then w
  else
    let w : Work := { w with mc := { w.mc with restarting := true } }
    if w.mc.mode = .listening ∨ w.mc.mode = .tripped then (w.suspendCause .offline).clearingPoint else w.beginDrain

/-! ## The end of an isolate drain or of the drain of a restart (R161, R181) -/

/-- The drain has ended: a restart reaches its clearing point, and an isolate drain ends in OFFLINE. -/
def Work.concludeDrain (w : Work) : Work :=
  let w : Work := { w with mc := { w.mc with leaving := false } }
  if w.mc.restarting then w.clearingPoint else w.enterOffline

/-- A LEAVE waits in the queue or is on the line. -/
def Link.leaveQueued (l : Link) : Bool := l.anyQueued fun x => kindOf x.frame == .leave

/-- A LEAVE is on the line. -/
def Link.leaveOnLine (l : Link) : Bool := l.queue.any fun x => kindOf x.frame == .leave && l.onLine x

/-- An isolate drain or the drain of a restart is under way. -/
def State.draining (s : State) : Bool :=
  (s.mc.isolateReq && s.working) || (s.mc.restarting && (s.working || s.mc.mode == .offline))

/-- The drain is done: nothing is held and no own CLAIM awaits its echo. -/
def State.drainIsDone (s : State) : Bool := s.holdsNothing && s.noClaimAwaiting

/-- When the drain is done a LEAVE is queued if the transmitter is on, and the station goes on when the LEAVE has gone
from the queue, or at once with the transmitter in probe or off. A LEAVE on the line at the entry to MUTED or OFFLINE does
not count as waiting: the station goes on when its attempt ends, whatever the ending (log 76). -/
def Work.testDrainDone (w : Work) : Work :=
  if !w.toState.draining then w
  else
    let w : Work :=
      if !w.mc.leaving && w.toState.drainIsDone && w.lc.tx == .on then
        { w.enqueue .leave with mc := { w.mc with leaving := true } }
      else w
    let ended :=
      if w.mc.leaving then !w.lc.leaveQueued || (!(w.lc.tx == .on) && !w.lc.leaveOnLine)
      else w.toState.drainIsDone
    if ended then w.concludeDrain else w

/-! ## The duplicate fault (R58, R59) -/

/-- Drops every promise-to-me mark. -/
def dropMark (_ : Nat) : QEntry → QEntry
  | .held t _ => .held t false
  | e => e

/-- A duplicate of kind `k` is heard. Only the first acts. The notice's value is the kind character of Table 73
(log 60). -/
def Work.hearDuplicate (w : Work) (k : FrameKind) : Work :=
  if w.mc.duplicate then w
  else
    let listening : Bool := w.mc.mode == .listening
    let w := ({ w with mc := { w.mc with duplicate := true } } : Work).notice .duplicateStation (kindChar k)
    let w := w.emptyQueue.drainMine .shutdown fun _ => true
    let w := (w.giveUpPending false w.toState.settling).endSweep
    let w := ({ w with hc := { w.hc with request := none, promises := [] } } : Work).mapAll dropMark
    let w := w.enterOffline
    if listening then w.startEpoch else w

/-! ## The end of a step -/

/-- What follows from the state a step has come to, in the same step: drains complete under an expired LOST quiesce
(R136), lost conflicts are handed on (R34), ENDING and the isolate drain are tested (R126, R161), the Holdings Controller
claims and sweeps (R91, R93), P_set is formed and sent (R129, R131), and the step's notices are posted (R171). -/
def Work.settle (w : Work) : Work :=
  (((w.lostCompletes.handConflict.testSessionEnd).testDrainDone.testSessionEnd).holdingsProgress).formAndSend.flushNotices

/-- A step ends. -/
def Work.finish (w : Work) : State := w.settle.toState

/-- A command goes on with the next state. -/
def goOn (s : State) : Host.Outcome State Fault Refusal := .next s

end Sys2Proof.Machine
end

