-- ==== Sys2Proof/Machine/Cabinet.lean ====
section
/-! DEFINITION. Cabinet Port transactions (R175, R176, R186): the response slot, the order of the checks, and what a
fetch reads. -/

namespace Sys2Proof.Machine

/-- A refusal (R176). The detail of a refused command has no stated meaning but for CONFIGURE (log 8). -/
def Response.refused (code : Nat) (c : RefCode) : Response :=
  { cls := .refused, refusal := some c, detail := Config.unusedDetail code, payload := [] }

/-- ACCEPTED with a payload; the command gives its detail no meaning (log 8). -/
def Response.accepted (code : Nat) (payload : List Byte) : Response :=
  { cls := .accepted, refusal := none, detail := Config.unusedDetail code, payload := payload }

/-- ACCEPTED or CLAMPED, with a detail. -/
def Response.done (clamped : Bool) (detail : Byte) : Response :=
  { cls := if clamped then .clamped else .accepted, refusal := none, detail := detail, payload := [] }

/-- The response is placed in the slot, not ready, in place of any response still there (R175). -/
def State.respond (s : State) (r : Response) : State :=
  { s with cpi := { s.cpi with slot := some { response := r, ready := false, readyAt := s.now + Config.readyMs } } }

/-- The first check that fails decides the refusal (R176). A check is given with whether it fails. -/
def firstRefusal : List (Bool × RefCode) → Option RefCode
  | [] => none
  | (fails, c) :: rest => if fails then some c else firstRefusal rest

/-- A command is taken: its checks are made in order, and where none fails it acts, and the response is formed (R175,
R176). A refused command has no effect beyond its own response. -/
def State.command (s : State) (code : Nat) (checks : List (Bool × RefCode)) (act : State → State × Response) : State :=
  match firstRefusal checks with
  | some c => s.respond (.refused code c)
  | none => (act s).1.respond (act s).2

/-- The bytes of a command payload. -/
def payloadBytes : Payload → List Byte
  | .whole bytes => bytes
  | .cut _ bytes => bytes

/-- The payload is whole and its length satisfies `ok`. One that is cut short has no allowed length: where its payload
length is allowed, its bytes are fewer (R176, R186; log 48). -/
def payloadAllowed (ok : Nat → Bool) : Payload → Bool
  | .whole bytes => ok bytes.length
  | .cut _ _ => false

/-- The payload has not the length Table 74 gives (R176, R186). -/
def badLength (p : Payload) (n : Nat) : Bool × RefCode := (!payloadAllowed (· == n) p, .format)

/-- STATE in UNCONFIGURED (Table 68, "from CONFIGURED on"). -/
def State.notConfigured (s : State) : Bool × RefCode := (s.mc.mode == .unconfigured, .state)

/-- STATE in UNCONFIGURED and CONFIGURED (Table 68, "from LISTENING on"). -/
def State.notStarted (s : State) : Bool × RefCode := (!s.started, .state)

/-- The bytes of a response as a fetch clocks them out (R186). -/
def Response.bytes (r : Response) : List Byte :=
  [byteOf (classCode r.cls), byteOf ((r.refusal.map refCode).getD 0), r.detail, byteOf r.payload.length] ++ r.payload

/-- What a fetch reads from the slot: the slot byte, and the response where it is ready (R175, R186). -/
def slotBytes : Option Slot → List Byte
  | none => [0]
  | some x => if x.ready then 2 :: x.response.bytes else [1]

/-- A fetch of `n` bytes; bytes beyond the response read 0x00 (R186). -/
def fetchBytes (slot : Option Slot) (n : Nat) : List Byte := (slotBytes slot ++ List.replicate n 0).take n

/-- The slot after a fetch (R175). -/
def slotAfterFetch : Option Slot → Option Slot
  | none => none
  | some x => if x.ready then none else some x

end Sys2Proof.Machine
end

