-- ==== Sys2Proof/Machine/Readout.lean ====
section
/-! DEFINITION. The payloads of the read responses (R186 and the tables it names): IDENTIFY, STATUS, READ PEER,
READ QUANTA, READ SESSION, READ RESULT and FETCH NOTICE. -/

namespace Sys2Proof.Machine

/-! ## IDENTIFY (R179) -/

def State.identifyPayload (s : State) : List Byte :=
  be2 Config.partCode ++ [byteOf Config.revision, byteOf s.own, byteOf (modeCode s.mc.mode)]

/-! ## READ PEER (R43, R53, Table 16) -/

/-- A bid as an optional record (R184). -/
def bidBytes : Option PeerBid → List Byte
  | none => [0, 0, 0, 0, 0]
  | some b => [1, byteOf b.tier, byteOf b.weight, byteOf b.want, byteOf b.floor]

/-- A session summary as an optional record. -/
def summaryBytes : Option (SessState × Nat) → List Byte
  | none => [0, 0, 0, 0]
  | some x => [1, byteOf (sessCode x.1)] ++ be2 x.2

/-- The entry of another station. -/
def State.peerBytes (s : State) (x : Peer) : List Byte :=
  [byteOf (peerCode x.state)] ++ bidBytes x.bid ++ [byteOf x.lastSeq] ++ summaryBytes x.summary
    ++ be4 (s.sinceHeard x)
    ++ [byteOf x.unanswered, flagByte x.fpSeen, optByte (x.lastRefusal.map yieldReasonCode)]

/-- The own entry (R43); its fingerprint-seen flag is not stated (log 11), and it holds no refusal reason. -/
def State.selfBytes (s : State) : List Byte :=
  let b := s.ss.bid
  [byteOf (peerCode .self)] ++ bidBytes (some ⟨b.tier, b.weight, b.want, b.floor⟩) ++ [byteOf s.ae.lastReportSeq]
    ++ summaryBytes (some (s.sessState, s.vehicleTag)) ++ be4 0
    ++ [0, Config.ownFingerprintSeen, optByte none]

def State.readPeerPayload (s : State) (t : Nat) : List Byte :=
  if t = s.own then s.selfBytes else ((s.ptu.entries[t]?).map s.peerBytes).getD []

/-! ## READ QUANTA (R41) -/

/-- One entry: state, holder, reason, beneficiary, promise mark. -/
def entryBytes : QEntry → List Byte
  | .free => [0, 0xFF, 0xFF, 0xFF, 0]
  | .withdrawn => [1, 0xFF, 0xFF, 0xFF, 0]
  | .pending => [2, 0xFF, 0xFF, 0xFF, 0]
  | .mine => [3, 0xFF, 0xFF, 0xFF, 0]
  | .draining r b => [4, 0xFF, byteOf (reasonCode r), optByte b, 0]
  | .held t m => [5, byteOf t, 0xFF, 0xFF, flagByte m]

/-- The entries from the first quantum up to 15 beyond it, stopping at 127. -/
def State.readQuantaPayload (s : State) (first : Nat) : List Byte := ((s.map.drop first).take 16).flatMap entryBytes

/-! ## READ SESSION (R127, Tables 43 and 44) -/

/-- Suspension reason, present in SUSPENDED. -/
def SessPhase.reason : SessPhase → Option SuspReason
  | .suspended r => some r
  | _ => none

/-- End reason and state left, present in ENDING. -/
def SessPhase.ended : SessPhase → Option (EndReason × SessState)
  | .ending why left => some (why, left)
  | _ => none

/-- A plan step as a record preceded by its presence byte (log 35). -/
def stepBytes : Option PlanStep → List Byte
  | none => List.replicate 11 0
  | some st =>
    [1, byteOf (stepKindCode st.kind)] ++ be2 st.cap ++ be2 st.endEnergy ++ be2 st.endDuration
      ++ be2 st.endAcceptance ++ [flagByte st.endAtDeadline]

/-- The fields of Table 43 in table order, for a session that is present. -/
def State.sessionBytes (s : State) (x : Session) : List Byte :=
  [byteOf (sessCode x.phase.report), optByte (x.phase.reason.map suspCode)] ++ be2 x.tag ++ be2 x.eReq ++ be2 x.pAcc
    ++ be2 x.deadline ++ be4 (s.deadlineClock x) ++ [flagByte x.runOut, flagByte x.critical, byteOf x.stepIndex]
    ++ be4 x.stepTime ++ be4 x.joules ++ be4 x.stepMark ++ be2 x.delivered ++ be2 x.stepEnergy ++ be2 x.eRem
    ++ [byteOf x.stepsDone, optByte (x.lastEnd.map endCauseCode), optByte (x.phase.ended.map fun e => endReasonCode e.1)
      , optByte (x.phase.ended.map fun e => sessCode e.2)]

/-- The fields of Table 43 in EMPTY: the state, and every other field absent. The bytes of an absent field wider than one
byte are not stated (log 9). -/
def emptySessionBytes : List Byte :=
  [byteOf (sessCode .empty), 0xFF] ++ absentBytes 0 2 ++ absentBytes 1 2 ++ absentBytes 2 2 ++ absentBytes 3 2
    ++ absentBytes 4 4 ++ [0xFF, 0xFF, 0xFF] ++ absentBytes 5 4 ++ absentBytes 6 4 ++ absentBytes 7 4
    ++ absentBytes 8 2 ++ absentBytes 9 2 ++ absentBytes 10 2 ++ [0xFF, 0xFF, 0xFF, 0xFF]

/-- A two-byte field that may be absent. -/
def optHalf (field : Nat) : Option Nat → List Byte
  | none => absentBytes field 2
  | some n => be2 n

/-- The working values of the last derivation, the projected energy, the SHED and FREEZE marks, and D_s (R127, R169;
log 35). -/
def State.sessionTail (s : State) : List Byte :=
  optHalf 11 s.ss.bid.slack ++ optWord s.ss.bid.pReq ++ [flagByte s.ss.bid.saturated] ++ optWord s.ss.projected
    ++ [flagByte s.bk.shed, flagByte s.bk.freeze] ++ optHalf 12 (s.ss.session.map s.deadlineLeft)

def State.readSessionPayload (s : State) : List Byte :=
  (match s.ss.session with
    | some x => s.sessionBytes x ++ stepBytes x.step
    | none => emptySessionBytes ++ stepBytes none) ++ s.sessionTail

/-! ## READ RESULT (R82, Table 24) -/

/-- One byte of the participant set: station 0 in the top bit of the first byte. -/
def setByte (ts : List Nat) (k : Nat) : Byte :=
  byteOf (((List.range 8).map fun j => if ts.contains (8 * k + j) then 2 ^ (7 - j) else 0).sum)

def resultBytes (r : Result) : List Byte :=
  [0, byteOf r.seq, byteOf r.bEff, byteOf r.reserved, byteOf r.a] ++ (List.range 4).map (setByte r.participants)
    ++ ((List.range 32).map fun t => byteOf (r.targets.getD t 0))
    ++ [byteOf r.ownTarget, byteOf r.ownWant, byteOf r.ownFloor, byteOf r.spareCount, flagsByte r.flags]

/-- The record with its empty mark in front. An empty record reads as zeros (R79, R184; log 40). -/
def State.readResultPayload (s : State) : List Byte :=
  match s.ae.result with
  | none => 1 :: List.replicate 45 0
  | some r => resultBytes r

/-! ## STATUS (R180, Table 70, block by block) -/

/-- The need; below 0 its byte is not stated (R83, R84; log 10). -/
def State.needByte (s : State) : Byte :=
  if s.needParts.2 = 0 then byteOf s.needParts.1 else Config.negativeNeed s.needParts.2

/-- Time left on the trip hold timer, in ms, a unit that no rule names (R164; log 70); on a stopped timer it is not stated
(log 13). -/
def State.tripHoldLeft (s : State) : Nat :=
  match s.mc.tripHoldAt with
  | some t => t - s.now
  | none => Config.stoppedHoldLeft

/-- The Mode Controller's fields (R164, R181). The time left on the trip hold is sent as a time in ms, four bytes wide
(log 70). -/
def State.statusMC (s : State) : List Byte :=
  [byteOf (modeCode s.mc.mode), flagByte s.mc.restarting, flagByte s.mc.solo, flagByte s.mc.isolateReq
  , flagByte s.mc.duplicate, flagByte s.mc.tripHoldAt.isSome] ++ be4 s.tripHoldLeft ++ be4 s.sinceLineHeard

def State.statusBU (s : State) : List Byte :=
  [byteOf s.bu.bEff, byteOf s.bu.offers.length, flagByte s.bu.seen]

def State.statusAE (s : State) : List Byte :=
  [byteOf s.ae.seq, byteOf s.recordTarget, byteOf ((s.ae.result.map Result.spareCount).getD 0)
  , flagsByte ((s.ae.result.map Result.flags).getD CompFlags.clear), flagsByte s.ae.sticky]

def State.statusHC (s : State) : List Byte :=
  [byteOf s.heldCount, s.needByte, byteOf s.hc.drains.length, flagByte s.hc.stuck, flagByte s.hc.claim.isSome
  , flagByte s.hc.request.isSome, flagByte s.hc.sweep.isSome, optByte (s.hc.lastRefusal.map yieldReasonCode)]

def State.statusSS (s : State) : List Byte :=
  [byteOf (sessCode s.sessState), optByte (s.ss.session.bind fun x => x.phase.reason.map suspCode)
  , optByte (s.ss.session.map Session.stepIndex), flagByte s.bk.shed, flagByte s.bk.freeze]

def State.statusCI (s : State) : List Byte :=
  [byteOf (convCode s.ci.conv), optByte (s.ci.lastReport.map Meter.faultCode), flagByte s.ci.inhibit
  , flagByte s.ci.causeTripped, flagByte s.hc.stuck, flagByte s.ci.causeLost] ++ be2 s.ci.discarded

def State.statusLC (s : State) : List Byte :=
  be2 s.lc.rxErrors ++ [byteOf s.lc.txErrors, byteOf s.lc.queue.length, byteOf s.lc.waiting.length, byteOf (txCode s.lc.tx)]
    ++ be4 s.lc.muteHold ++ [flagByte s.lc.rateSuspect]

def State.statusBKU (s : State) : List Byte :=
  [byteOf s.bk.notices.length, byteOf s.bk.urgentCount, byteOf s.bk.pendingCount]

def State.statusPayload (s : State) : List Byte :=
  s.statusMC ++ s.statusBU ++ s.statusAE ++ s.statusHC ++ s.statusSS ++ s.statusCI ++ s.statusLC ++ s.statusBKU

/-! ## Notices (R170, R186) -/

/-- A notice, 13 bytes. -/
def noticeBytes (n : Notice) : List Byte :=
  [byteOf n.booking, byteOf n.code] ++ be2 n.value ++ n.tags ++ [if n.urgent then 0 else 1] ++ be4 n.time
    ++ [flagByte n.overrun]

/-- The payload of FETCH NOTICE: the oldest notice, or nothing (R174). -/
def fetchNoticePayload : List Notice → List Byte
  | [] => []
  | n :: _ => noticeBytes n

/-- The oldest notice has gone, and withheld notices are posted while the level is at 8 or fewer
(R171, R174). -/
def Bookings.fetch (k : Bookings) : Bookings :=
  match k.notices with
  | [] => k
  | _ :: rest => ({ k with notices := rest } : Bookings).postAllWithheld

end Sys2Proof.Machine
end

