-- ==== Sys2Proof/Machine/Operands.lean ====
section
/-! DEFINITION. The payload fields of the Cabinet Port commands (Table 74): CONFIGURE, ADMIT, VEHICLE UPDATE,
BUDGET OFFER and BOOK, with their checks and clamps. -/

namespace Sys2Proof.Machine

/-! ## CONFIGURE (R177, R178, Table 69) -/

/-- A field for which 0 selects a default (R177). -/
def orDefault (d n : Nat) : Nat := if n = 0 then d else n

/-- The fields of a CONFIGURE payload, with the defaults of R177 applied. -/
def readCfg (p : List Byte) : Cfg :=
  { qs := at1 p 0, bCfg := at1 p 1, bSafe := at1 p 2, sSolo := at1 p 3, h := at1 p 4, nSt := at1 p 5
    tEp := orDefault 1000 (at2 p 6), lSil := at1 p 8, lExp := at1 p 9, tQ := at2 p 10
    tripHold := orDefault 10 (at1 p 12), policy := at1 p 13, d := at1 p 14, pMax := at2 p 15, pMin := at2 p 17
    attention := at1 p 19 }

/-- `n` lies in the range lo–hi. -/
def inRange (lo hi n : Nat) : Bool := decide (lo ≤ n ∧ n ≤ hi)

/-- The range checks of Table 69 in table order, with the number of the field. -/
def Cfg.rangeChecks (c : Cfg) : List (Nat × Bool) :=
  [ (1, inRange 1 63 c.qs), (2, inRange 1 128 c.bCfg), (3, inRange 1 128 c.bSafe), (4, inRange 0 128 c.sSolo)
  , (5, inRange 0 4 c.h), (6, inRange 2 32 c.nSt), (7, inRange 500 4000 c.tEp && c.tEp % 250 == 0)
  , (8, inRange 2 8 c.lSil), (9, inRange 4 32 c.lExp), (10, inRange 500 2000 c.tQ && c.tQ % 100 == 0)
  , (11, inRange 5 60 c.tripHold), (12, inRange 0 3 c.policy), (13, inRange 1 63 c.d), (14, inRange 1 6000 c.pMax)
  , (15, inRange 0 c.pMax c.pMin), (16, inRange 1 16 c.attention) ]

/-- The cross-checks of R178 in order, with their detail. -/
def Cfg.crossChecks (c : Cfg) (own : Nat) : List (Nat × Bool) :=
  [ (17, decide (own < c.nSt)), (3, decide (c.nSt * c.h ≤ c.bSafe)), (3, decide (c.bSafe ≤ c.bCfg))
  , (4, decide (c.sSolo ≤ c.bCfg)), (9, decide (2000 + c.tQ ≤ (c.lExp - c.lSil) * c.tEp)) ]

/-- Detail of the first check that fails. -/
def firstFailure : List (Nat × Bool) → Option Nat
  | [] => none
  | (n, ok) :: rest => if ok then firstFailure rest else some n

/-- The 19 bytes of fields 1 to 15 as stored (R178, R186). -/
def Cfg.fingerprintBytes (c : Cfg) : List Byte :=
  [byteOf c.qs, byteOf c.bCfg, byteOf c.bSafe, byteOf c.sSolo, byteOf c.h, byteOf c.nSt] ++ be2 c.tEp
    ++ [byteOf c.lSil, byteOf c.lExp] ++ be2 c.tQ ++ [byteOf c.tripHold, byteOf c.policy, byteOf c.d]
    ++ be2 c.pMax ++ be2 c.pMin

/-- The fingerprint (R178). -/
def Cfg.fingerprintOf (c : Cfg) : Half := crc16 c.fingerprintBytes

/-! ## ADMIT (R108 to R110) -/

/-- Step count of an ADMIT payload. -/
def stepCount (p : List Byte) : Nat := at1 p 10

/-- Deadline of an ADMIT payload, before the clamp of R110. -/
def rawDeadline (p : List Byte) : Nat := at3 p 6

/-- Offset of step `i`. -/
def stepAt (i : Nat) : Nat := 11 + 10 * i

/-- Step `i`, its cap and end acceptance clamped to P_max (R110). -/
def readStep (pMax : Nat) (p : List Byte) (i : Nat) : PlanStep :=
  let o := stepAt i
  { kind := (stepKindOf (at1 p o)).getD .halt, cap := min pMax (at2 p (o + 1)), endEnergy := at2 p (o + 3)
    endDuration := at2 p (o + 5), endAcceptance := min pMax (at2 p (o + 7)), endAtDeadline := flagOf (p.getD (o + 9) 0) }

/-- The plan. -/
def readPlan (pMax : Nat) (p : List Byte) : List PlanStep := (List.range (stepCount p)).map (readStep pMax p)

/-- Step `i` makes the plan malformed (R109). -/
def stepMalformed (p : List Byte) (i : Nat) : Bool :=
  let o := stepAt i
  match stepKindOf (at1 p o) with
  | none => true
  | some .hold => at2 p (o + 5) == 0
  | some .halt => false
  | some .bulk | some .taper | some .topup =>
    at2 p (o + 3) == 0 && at2 p (o + 5) == 0 && at2 p (o + 7) == 0
      && !(flagOf (p.getD (o + 9) 0) && decide (0 < rawDeadline p))

/-- The plan is malformed (R109). -/
def planMalformed (p : List Byte) : Bool :=
  stepCount p == 0 || decide (8 < stepCount p) || (List.range (stepCount p)).any (stepMalformed p)

/-- A value of the payload is clamped (R110). -/
def admitClamps (pMax : Nat) (p : List Byte) : Bool :=
  decide (pMax < at2 p 4) || decide (65535 < rawDeadline p) ||
    (List.range (stepCount p)).any fun i =>
      decide (pMax < at2 p (stepAt i + 1)) || decide (pMax < at2 p (stepAt i + 7))

/-- The entry state (R110). -/
def State.admitPhase (s : State) (plan : List PlanStep) : SessPhase :=
  if (plan.head?.map PlanStep.kind) = some .halt then .complete
  else if s.mc.mode = .tripped then .suspended .trip
  else if s.mc.mode = .offline ∨ s.mc.isolateReq = true then .suspended .offline
  else if s.converterDown then .suspended .converter
  else .charging

/-- The session record ADMIT creates (R110). -/
def State.newSession (s : State) (p : List Byte) : Session :=
  let plan := readPlan s.conf.pMax p
  { phase := s.admitPhase plan, tag := at2 p 0, eReq := at2 p 2, pAcc := min s.conf.pMax (at2 p 4)
    deadline := min 65535 (rawDeadline p), admittedAt := s.now, runOut := false, critical := flagOf (p.getD 9 0)
    stepIndex := 1, entered := false, stepTime := 0, joules := 0, stepMark := 0, delivered := 0, stepEnergy := 0
    eRem := at2 p 2, stepsDone := 0, lastEnd := none, plan := plan }

/-! ## VEHICLE UPDATE (R119) -/

/-- The update carries P_acc. -/
def carriesAcc (p : List Byte) : Bool := (p.getD 0 0).getLsbD 0

/-- The update carries E_req. -/
def carriesReq (p : List Byte) : Bool := (p.getD 0 0).getLsbD 1

/-- The fields the update carries are replaced, P_acc clamped to P_max, and E_rem is formed again. -/
def Session.update (pMax : Nat) (p : List Byte) (x : Session) : Session :=
  ({ x with
    pAcc := if carriesAcc p then min pMax (at2 p 1) else x.pAcc
    eReq := if carriesReq p then at2 p 3 else x.eReq } : Session).formRemaining

/-! ## BOOK (R166, Table 64) -/

/-- The trigger a BOOK payload names; none for an unknown kind or a parameter outside Table 64. -/
def readTrigger (nSt own kind param : Nat) : Option Trigger :=
  match kind with
  | 0 =>
    if param = 0xFFFF then some (.peerSilent none)
    else if param < nSt ∧ param ≠ own then some (.peerSilent (some param)) else none
  | 1 => if 1 ≤ param ∧ param ≤ 128 then some (.budgetBelow param) else none
  | 2 => some .targetBelowFloor
  | 3 => if 1 ≤ param ∧ param ≤ 8 then some (.stepEnd param) else none
  | 4 => if 1 ≤ param ∧ param ≤ 65535 then some (.energyAt param) else none
  | 5 => some .deadlineRisk
  | 6 => some .conflict
  | 7 =>
    match param with
    | 4 => some (.mode .isolated)
    | 5 => some (.mode .muted)
    | 6 => some (.mode .tripped)
    | _ => none
  | _ => none

/-- The booking a BOOK payload carries, ARMED with its mark clear; none where R166 refuses RANGE. -/
def State.readBooking (s : State) (p : List Byte) : Option Booking :=
  match readTrigger s.conf.nSt s.own (at1 p 1) (at2 p 2), actionOf (at1 p 4) with
  | some t, some a =>
    if at1 p 0 < Config.bookings ∧ at1 p 5 ≤ 1 ∧ at1 p 6 ≤ 1 then
      some { state := .armed, trigger := t, action := a, repeats := at1 p 5 == 1, urgent := at1 p 6 == 0
             tags := [p.getD 7 0, p.getD 8 0, p.getD 9 0], mark := false }
    else none
  | _, _ => none

end Sys2Proof.Machine
end

