-- ==== Sys2Proof/Machine/Pins.lean ====
section
/-! DEFINITION. The commands of the discrete inputs: HARDWARE_RESET, TRIP_ASSERTED, TRIP_DEASSERTED and
OFFLINE_ASSERTED (R151, R159 to R161, R183). -/

namespace Sys2Proof.Machine

/-- HARDWARE_RESET (R183): every block takes its reset values, and STN is sampled. The inputs keep their levels (log 6). -/
def execHardwareReset (stn : BitVec 5) (s : State) : Host.Outcome State Fault Refusal :=
  goOn (State.resetWith stn.toNat s.io.trip s.io.offline s.pending)

/-- The level of the TRIP input. -/
def State.setTrip (s : State) (level : Bool) : State := { s with io := { s.io with trip := level } }

/-- The trip hold timer is started with a full hold (R160). -/
def State.startTripHold (s : State) : State :=
  { s with mc := { s.mc with tripHoldAt := some (s.now + s.conf.tripHold * 1000) } }

/-- The trip hold timer is stopped (R160). -/
def State.stopTripHold (s : State) : State := { s with mc := { s.mc with tripHoldAt := none } }

/-- A break is asked for (R151). -/
def Work.sendBreak (w : Work) : Work := { w with lc := w.lc.askBreak }

/-- TRIP_ASSERTED (R151, R159, R160). An input that is asserted already does not change (log 3). -/
def execTripAsserted (s : State) : Host.Outcome State Fault Refusal :=
  if s.io.trip then goOn s
  else
    let s := s.setTrip true
    if !s.started then goOn s
    else if s.mc.mode = .tripped then goOn (s.stopTripHold.begin.sendBreak).finish
    else goOn (s.begin.tripEntry.sendBreak).finish

/-- TRIP_DEASSERTED (R160). -/
def execTripDeasserted (s : State) : Host.Outcome State Fault Refusal :=
  if !s.io.trip then goOn s
  else
    let s := s.setTrip false
    if s.mc.mode = .tripped ∧ s.mc.breakOn = false then goOn s.startTripHold else goOn s

/-- OFFLINE_ASSERTED (R161): in ACTIVE, ISOLATED and MUTED it sets the isolate request. -/
def execOfflineAsserted (s : State) : Host.Outcome State Fault Refusal :=
  let s : State := { s with io := { s.io with offline := true } }
  if s.working && !s.mc.isolateReq then goOn s.begin.requestIsolation.finish else goOn s

end Sys2Proof.Machine
end

