-- ==== Sys2Proof/Machine/Configuration.lean ====
section
/-! DEFINITION. The commands of the Cabinet Port Interface and the Mode Controller: IDENTIFY, CONFIGURE, START, STATUS,
ISOLATE, REJOIN, RESTART (R54, R161, R162, R177 to R182). -/

namespace Sys2Proof.Machine

/-- IDENTIFY (R179). -/
def execIdentify (p : Payload) (s : State) : Host.Outcome State Fault Refusal :=
  goOn (s.command 0x01 [badLength p 0] fun s => (s, .accepted 0x01 s.identifyPayload))

/-- The CONFIGURE values of the blocks (R178): the record, the fingerprint, the peer table, B_eff, the bookings. -/
def State.configure (s : State) (c : Cfg) : State :=
  { s with
    cpi := { s.cpi with cfg := some c, fingerprint := some c.fingerprintOf }
    mc := { s.mc with mode := .configured }
    ptu := { s.ptu with entries := freshTable c.nSt s.own }
    bu := { s.bu with bEff := c.bCfg }
    bk := { s.bk with table := List.replicate Config.bookings none } }

/-- CONFIGURE (R177, R178). -/
def execConfigure (p : Payload) (s : State) : Host.Outcome State Fault Refusal :=
  let c := readCfg (payloadBytes p)
  goOn (s.command 0x02 [badLength p 20, (s.mc.mode != .unconfigured, .state)] fun s =>
    match firstFailure (c.rangeChecks ++ c.crossChecks s.own) with
    | some n => (s, { cls := .refused, refusal := some .configCheck, detail := byteOf n, payload := [] })
    | none => (s.configure c, .accepted 0x02 (be2 c.fingerprintOf.toNat)))

/-- The START values of the blocks (R4, R7, R17, R42, R60, R80, R83, R128, R132, R153, R170). -/
def State.startValues (s : State) : State :=
  let c := s.conf
  { s with
    bk := { s.bk with startAt := s.now }
    bu := { s.bu with offers := [], seen := false, bEff := c.bCfg }
    map := startMap c.bCfg
    ptu := { entries := freshTable c.nSt s.own, lineHeard := none, lineCleared := s.now }
    ae := { s.ae with sticky := CompFlags.clear }
    hc := Holdings.reset s.own
    ss := { s.ss with bid := Bid.null }
    ci := { s.ci with lostQuiesce := .running (s.now + c.tQ), discarded := 0 }
    lc := { s.lc with
      queue := [], waiting := [], txErrors := 0, rxErrors := 0, listenErrors := 0, rxRun := 0, rateSuspect := false
      muteHold := Config.muteHoldMin, muteAt := none, probeDue := false } }

/-- START (R54): the blocks take their START values, every booking's condition is evaluated afresh (R167), and the
station enters LISTENING. -/
def execStart (p : Payload) (s : State) : Host.Outcome State Fault Refusal :=
  goOn (s.command 0x03 [badLength p 0, (s.mc.mode != .configured, .state)] fun s =>
    (s.startValues.begin.refreshMarks.enterListening.finish, .accepted 0x03 []))

/-- STATUS (R180). -/
def execStatus (p : Payload) (s : State) : Host.Outcome State Fault Refusal :=
  goOn (s.command 0x04 [badLength p 0, s.notConfigured] fun s => (s, .accepted 0x04 s.statusPayload))

/-- ISOLATE (R161). In OFFLINE, or with the request already set, it changes nothing. -/
def execIsolate (p : Payload) (s : State) : Host.Outcome State Fault Refusal :=
  goOn (s.command 0x21 [badLength p 0, s.notStarted] fun s =>
    (if s.mc.mode = .offline ∨ s.mc.isolateReq = true then s else s.begin.requestIsolation.finish, .accepted 0x21 []))

/-- The isolate request is cleared (R162). -/
def State.clearIsolation (s : State) : State := { s with mc := { s.mc with isolateReq := false } }

/-- REJOIN in OFFLINE (R162): a JOIN is queued, the station enters ACTIVE, the session resumes by R124, and isolation is
judged at once. -/
def Work.rejoin (w : Work) : Work :=
  ((w.setMode .active).enqueue w.toState.joinFrame).autoResume.judgeIsolation

/-- REJOIN (R162). `offlineLevel` is the level of the OFFLINE input. -/
def execRejoin (p : Payload) (offlineLevel : Bool) (s : State) : Host.Outcome State Fault Refusal :=
  let s : State := { s with io := { s.io with offline := offlineLevel } }
  let taken := s.mc.mode == .listening || s.mc.mode == .offline || s.mc.mode == .tripped
  goOn (s.command 0x22
    [badLength p 0, (!taken, .state), (s.mc.duplicate, .duplicate), (offlineLevel, .causePersists)] fun s =>
    let s := s.clearIsolation
    (if s.mc.mode = .offline then s.begin.rejoin.finish else s, .accepted 0x22 []))

/-- RESTART (R181, R182). -/
def execRestart (p : Payload) (s : State) : Host.Outcome State Fault Refusal :=
  goOn (s.command 0x23 [badLength p 0, s.notStarted] fun s => (s.begin.restart.finish, .accepted 0x23 []))

end Sys2Proof.Machine
end

