-- ==== Sys2Proof/Machine/SessionCommands.lean ====
section
/-! DEFINITION. The commands of the Session Sequencer: ADMIT, VEHICLE UPDATE, UNDOCK, ABORT SESSION, SUSPEND, RESUME and
READ SESSION (R108 to R110, R119, R122, R123, R125, R127). -/

namespace Sys2Proof.Machine

/-- The record of ADMIT is put in place; a session that enters CHARGING enters step 1 (R110, R112). -/
def Work.takeAdmission (w : Work) (p : List Byte) : Work :=
  let x := w.toState.newSession p
  let w : Work := { w with ss := { w.ss with session := some x, projected := none } }
  (if x.phase = .charging then w.putSession (Session.enterSteps x.plan.length x) else w.derive).handEnergy

/-- ADMIT (R108 to R110). The detail is the session state as it stands after the command (log 21). -/
def execAdmit (p : Payload) (s : State) : Host.Outcome State Fault Refusal :=
  let bs := payloadBytes p
  goOn (s.command 0x10
    [ (!payloadAllowed (inRange 11 91) p, .format), s.notStarted, (s.ss.session.isSome, .busy)
    , badLength p (11 + 10 * stepCount bs), (planMalformed bs, .malformedPlan), (at2 bs 2 == 0, .range) ]
    fun s =>
      let t := (s.begin.takeAdmission bs).finish
      (t, .done (admitClamps s.conf.pMax bs) (byteOf (sessCode t.sessState))))

/-- The session is CHARGING or SUSPENDED. -/
def State.inUse (s : State) : Bool := s.sessState == .charging || s.sessState == .suspended

/-- The update is taken in (R119). -/
def Work.vehicleUpdate (w : Work) (p : List Byte) : Work :=
  let w := w.setSession (Session.update w.toState.conf.pMax p)
  ((w.testStep [.acceptance]).testRemaining).derive

/-- VEHICLE UPDATE (R119). The detail has no stated meaning (log 8). -/
def execVehicleUpdate (p : Payload) (s : State) : Host.Outcome State Fault Refusal :=
  let bs := payloadBytes p
  goOn (s.command 0x11
    [ badLength p 5, s.notStarted, (!s.inUse, .state), (!carriesAcc bs && !carriesReq bs, .format)
    , (carriesReq bs && at2 bs 3 == 0, .range) ]
    fun s =>
      ((s.begin.vehicleUpdate bs).finish
      , .done (carriesAcc bs && decide (s.conf.pMax < at2 bs 1)) (Config.unusedDetail 0x11)))

/-- UNDOCK and ABORT SESSION are taken (R125): in ENDING they change nothing. -/
def State.leaveSession (s : State) (why : EndReason) : State :=
  if s.sessionEnding then s else (s.begin.endSession why).finish

/-- UNDOCK (R125). -/
def execUndock (p : Payload) (s : State) : Host.Outcome State Fault Refusal :=
  goOn (s.command 0x12 [badLength p 0, s.notStarted, (s.ss.session.isNone, .state)] fun s =>
    (s.leaveSession .undocked, .accepted 0x12 []))

/-- ABORT SESSION (R125). -/
def execAbortSession (p : Payload) (s : State) : Host.Outcome State Fault Refusal :=
  goOn (s.command 0x13 [badLength p 0, s.notStarted, (s.ss.session.isNone, .state)] fun s =>
    (s.leaveSession .aborted, .accepted 0x13 []))

/-- SUSPEND (R122). -/
def execSuspend (p : Payload) (s : State) : Host.Outcome State Fault Refusal :=
  goOn (s.command 0x14 [badLength p 0, s.notStarted, (!s.inUse, .state)] fun s =>
    ((s.begin.suspendCause .command).finish, .accepted 0x14 []))

/-- RESUME is refused CAUSE_PERSISTS (R123). -/
def State.causePersists (s : State) : Bool :=
  s.converterDown || s.mc.mode == .tripped || s.mc.mode == .offline || s.mc.isolateReq

/-- RESUME (R123). -/
def execResume (p : Payload) (s : State) : Host.Outcome State Fault Refusal :=
  goOn (s.command 0x15
    [badLength p 0, s.notStarted, (s.sessState != .suspended, .state), (s.causePersists, .causePersists)] fun s =>
    (s.begin.resumeSession.finish, .accepted 0x15 []))

/-- READ SESSION (R127). -/
def execReadSession (p : Payload) (s : State) : Host.Outcome State Fault Refusal :=
  goOn (s.command 0x42 [badLength p 0, s.notConfigured] fun s => (s, .accepted 0x42 s.readSessionPayload))

end Sys2Proof.Machine
end

