-- ==== Sys2Proof/Machine/PortCommands.lean ====
section
/-! DEFINITION. The commands of the Budget Unit, the Allocation Engine, the peer table, the map and the Booking Unit, and
the transactions that are no command of Table 68 (R12, R41, R53, R80, R82, R166, R169, R174 to R176, R186). -/

namespace Sys2Proof.Machine

/-- CLEAR FLAGS (R80). -/
def execClearFlags (p : Payload) (s : State) : Host.Outcome State Fault Refusal :=
  goOn (s.command 0x05 [badLength p 0, s.notConfigured] fun s =>
    ({ s with ae := { s.ae with sticky := CompFlags.clear } }, .accepted 0x05 []))

/-- The BUDGET frame of an offer is queued with the next own sequence (R12). -/
def Work.offerBudget (w : Work) (value hold : Nat) : Work :=
  let seq := (w.bu.ownSeq + 1) % 256
  ({ w with bu := { w.bu with ownSeq := seq } } : Work).enqueue (.budget w.toState.own value seq hold)

/-- BUDGET OFFER (R12). -/
def execBudgetOffer (p : Payload) (s : State) : Host.Outcome State Fault Refusal :=
  let bs := payloadBytes p
  goOn (s.command 0x20 [badLength p 2, (!s.working, .state), (!inRange 1 60 (at1 bs 1), .range)] fun s =>
    let t := (s.begin.offerBudget (min s.conf.bCfg (at1 bs 0)) (at1 bs 1)).finish
    (t, .done (decide (s.conf.bCfg < at1 bs 0)) (byteOf t.bu.ownSeq)))

/-- The booking under number `i` (R166). -/
def State.setBooking (s : State) (i : Nat) (b : Option Booking) : State :=
  { s with bk := { s.bk with table := s.bk.table.set i b } }

/-- State code of the booking under number `i`. -/
def State.bookingCode (s : State) (i : Nat) : Byte := byteOf (bookStateCode (s.bk.table.getD i none))

/-- BOOK (R166). The detail gives the state the number held before. -/
def execBook (p : Payload) (s : State) : Host.Outcome State Fault Refusal :=
  let bs := payloadBytes p
  goOn (s.command 0x30 [badLength p 10, s.notConfigured, ((s.readBooking bs).isNone, .range)] fun s =>
    ( s.setBooking (at1 bs 0) ((s.readBooking bs).map fun b => { b with mark := s.holds b.trigger })
    , .done false (s.bookingCode (at1 bs 0))))

/-- UNBOOK (R166). -/
def execUnbook (p : Payload) (s : State) : Host.Outcome State Fault Refusal :=
  let bs := payloadBytes p
  goOn (s.command 0x31 [badLength p 1, s.notConfigured, (decide (Config.bookings ≤ at1 bs 0), .range)] fun s =>
    (s.setBooking (at1 bs 0) none, .accepted 0x31 []))

/-- The action marks named are cleared (R169): clearing SHED derives the bid again, and clearing FREEZE lets the Holdings
Controller claim, and start a sweep that has not run for this target (log 78). -/
def Work.clearActions (w : Work) (shed freeze : Bool) : Work :=
  let w : Work := { w with bk := { w.bk with
    shed := w.bk.shed && !shed, freeze := w.bk.freeze && !freeze }, considerClaim := freeze }
  if shed then w.derive else w

/-- CLEAR ACTION (R169). -/
def execClearAction (p : Payload) (s : State) : Host.Outcome State Fault Refusal :=
  let bs := payloadBytes p
  goOn (s.command 0x32 [badLength p 1, s.notConfigured, (!inRange 1 3 (at1 bs 0), .range)] fun s =>
    ((s.begin.clearActions ((bs.getD 0 0).getLsbD 0) ((bs.getD 0 0).getLsbD 1)).finish, .accepted 0x32 []))

/-- FETCH NOTICE (R174). -/
def execFetchNotice (p : Payload) (s : State) : Host.Outcome State Fault Refusal :=
  goOn (s.command 0x33 [badLength p 0] fun s =>
    ({ s with bk := s.bk.fetch }, .accepted 0x33 (fetchNoticePayload s.bk.notices)))

/-- READ PEER (R53). -/
def execReadPeer (p : Payload) (s : State) : Host.Outcome State Fault Refusal :=
  let bs := payloadBytes p
  goOn (s.command 0x40 [badLength p 1, s.notConfigured, (decide (s.conf.nSt ≤ at1 bs 0), .range)] fun s =>
    (s, .accepted 0x40 (s.readPeerPayload (at1 bs 0))))

/-- READ QUANTA (R41). -/
def execReadQuanta (p : Payload) (s : State) : Host.Outcome State Fault Refusal :=
  let bs := payloadBytes p
  goOn (s.command 0x41 [badLength p 1, s.notConfigured, (decide (Config.quanta ≤ at1 bs 0), .range)] fun s =>
    (s, .accepted 0x41 (s.readQuantaPayload (at1 bs 0))))

/-- READ RESULT (R82). -/
def execReadResult (p : Payload) (s : State) : Host.Outcome State Fault Refusal :=
  goOn (s.command 0x43 [badLength p 0, s.notConfigured] fun s => (s, .accepted 0x43 s.readResultPayload))

/-- UNKNOWN_COMMAND (R176): refused FORMAT. A code of Table 74 does not spell this row (log 29). -/
def execUnknownCommand (code : Byte) (p : Payload) (s : State) : Host.Outcome State Fault Refusal :=
  if (Instr.unknownCommand code p).wellFormed then goOn (s.respond (.refused code.toNat .format))
  else .refused (.illFormed "UNKNOWN_COMMAND")

/-- FETCH_RESPONSE (R175, R186): `clocked` bytes are clocked out after the opening byte. -/
def execFetchResponse (clocked : Nat) (s : State) : Host.Outcome State Fault Refusal :=
  goOn { s with
    io := { s.io with sdo := fetchBytes s.cpi.slot clocked }
    cpi := { s.cpi with slot := slotAfterFetch s.cpi.slot } }

/-- INVALID_TRANSACTION (R175, R186): it changes nothing. Bytes that spell a fetch or a command do not spell this row
(log 29). -/
def execInvalidTransaction (bytes : List Byte) (s : State) : Host.Outcome State Fault Refusal :=
  if takenTransaction bytes then .refused (.illFormed "INVALID_TRANSACTION") else goOn s

/-- RESPONSE_READY (R175). -/
def execResponseReady (s : State) : Host.Outcome State Fault Refusal :=
  match s.cpi.slot with
  | some x =>
    if x.ready then goOn s
    else
      let s := s.atTime x.readyAt
      goOn { s with cpi := { s.cpi with slot := some { x with ready := true } } }
  | none => goOn s

end Sys2Proof.Machine
end

