-- ==== Sys2Proof/Machine/PadFrames.lean ====
section
/-! DEFINITION. The frames heard from other stations: CLAIM, CONTEST, RELEASE, REPORT, JOIN, LEAVE, BUDGET, YIELD-REQ,
YIELD-ANS, and DUPLICATE_FRAME (R16, R44, R58, R142, R157). -/

namespace Sys2Proof.Machine

/-- The PTU takes a frame of another station below N_st (R44): the sender's entry, then the return from ISOLATED (R157),
then the blocks it is handed to. -/
def Work.takeFrame (w : Work) (t : Nat) (f : Frame) : Work :=
  let w := w.hearPeer t f
  let w := if w.mc.mode = .isolated then w.setMode .active else w
  w.applyFrame t f

/-- A valid frame of kind `k` that the LC hands to the PTU (R44, R142, R143). In TRIPPED it is not taken; with the own
number it is a duplicate; from a number at or above N_st it is passed over. -/
def Work.hearValid (w : Work) (k : FrameKind) (t : Nat) (f : Frame) : Work :=
  let w : Work := { w with lc := w.lc.validFrame }
  if !w.toState.takesFrames then w
  else if t = w.toState.own then w.hearDuplicate k
  else if w.toState.conf.nSt ≤ t then w
  else w.takeFrame t f

/-- A frame of kind `k` with payload `p` is heard whole from the number `t`. A payload with no length allowed for the kind
is a receive error (R142). Before START the LC takes no notice of the line (R140). -/
def State.heard (s : State) (k : FrameKind) (t : BitVec 5) (p : List Byte) : State :=
  if !s.started then s
  else match parsePayload k p with
    | none => s.begin.countReceiveError.finish
    | some f => (s.begin.hearValid k t.toNat f).finish

/-- CLAIM (R18). -/
def execClaim (sender : BitVec 5) (p : List Byte) (s : State) : Host.Outcome State Fault Refusal :=
  goOn (s.heard .claim sender p)

/-- CONTEST (R21). -/
def execContest (sender : BitVec 5) (p : List Byte) (s : State) : Host.Outcome State Fault Refusal :=
  goOn (s.heard .contest sender p)

/-- RELEASE (R23 to R25, R27). -/
def execRelease (sender : BitVec 5) (p : List Byte) (s : State) : Host.Outcome State Fault Refusal :=
  goOn (s.heard .release sender p)

/-- REPORT (R32, R33, R48). -/
def execReport (sender : BitVec 5) (p : List Byte) (s : State) : Host.Outcome State Fault Refusal :=
  goOn (s.heard .report sender p)

/-- JOIN (R45 to R47). -/
def execJoin (sender : BitVec 5) (p : List Byte) (s : State) : Host.Outcome State Fault Refusal :=
  goOn (s.heard .join sender p)

/-- LEAVE (R35, R47). -/
def execLeave (sender : BitVec 5) (p : List Byte) (s : State) : Host.Outcome State Fault Refusal :=
  goOn (s.heard .leave sender p)

/-- BUDGET (R5). -/
def execBudget (sender : BitVec 5) (p : List Byte) (s : State) : Host.Outcome State Fault Refusal :=
  goOn (s.heard .budget sender p)

/-- YIELD-REQ (R99 to R101). -/
def execYieldReq (sender : BitVec 5) (p : List Byte) (s : State) : Host.Outcome State Fault Refusal :=
  goOn (s.heard .yieldReq sender p)

/-- YIELD-ANS (R51, R97). -/
def execYieldAns (sender : BitVec 5) (p : List Byte) (s : State) : Host.Outcome State Fault Refusal :=
  goOn (s.heard .yieldAns sender p)

/-- DUPLICATE_FRAME (R58, R59). -/
def execDuplicateFrame (k : FrameKind) (s : State) : Host.Outcome State Fault Refusal :=
  if !s.started then goOn s
  else
    let w : Work := { s.begin with lc := s.lc.validFrame }
    goOn (if w.toState.takesFrames then w.hearDuplicate k else w).finish

end Sys2Proof.Machine
end

