-- ==== Sys2Proof/Machine/LinkEvents.lean ====
section
/-! DEFINITION. The events of the Link Controller: receive errors, dominant runs and breaks (R142 to R144, R160), and
the own attempts with their endings (R145 to R150). An event that cannot come in the state is passed over (log 3). -/

namespace Sys2Proof.Machine

/-- RECEIVE_ERROR (R142, R143). -/
def execReceiveError (s : State) : Host.Outcome State Fault Refusal :=
  if s.started then goOn s.begin.countReceiveError.finish else goOn s

/-- DOMINANT_RUN (R144): a run of 10 to 19 bit times is one receive error. -/
def execDominantRun (s : State) : Host.Outcome State Fault Refusal :=
  if !s.started then goOn s else goOn s.begin.countReceiveError.finish

/-- The line is dominant in a break (R144, R160). -/
def State.startBreak (s : State) : State :=
  { s with mc := { s.mc with breakOn := true }, lc := { s.lc with quietUs := 0, heldUs := 0 } }

/-- BREAK_DETECTED (R144, R159, R160): in TRIPPED it stops the trip hold timer; in the other modes the station trips. -/
def execBreakDetected (s : State) : Host.Outcome State Fault Refusal :=
  if !s.started then goOn s
  else if s.mc.mode = .tripped then goOn s.startBreak.stopTripHold
  else goOn s.startBreak.begin.tripEntry.finish

/-- The break on the line ends, and an own break with it (R151, R160). -/
def State.endBreak (s : State) : State :=
  { s with
    mc := { s.mc with breakOn := false }
    lc := match s.lc.attempt with
      | some (.brk _) => s.lc.endAttempt
      | _ => { s.lc with quietUs := 0, heldUs := 0 } }

/-- BREAK_ENDED (R160): in TRIPPED the trip hold timer starts if TRIP is deasserted. -/
def execBreakEnded (s : State) : Host.Outcome State Fault Refusal :=
  if !s.started || !s.mc.breakOn then goOn s
  else
    let s := s.endBreak
    if s.mc.mode = .tripped ∧ s.io.trip = false then goOn s.startTripHold else goOn s

/-! ## Own attempts -/

/-- A REPORT takes the holdings of the moment (R31). -/
def Frame.withHoldings (qs : List Nat) : Frame → Frame
  | .report seq tier weight want floor sess tag _ fp => .report seq tier weight want floor sess tag qs fp
  | f => f

/-- The head of the queue goes on the line (R145). -/
def State.startFrame (s : State) (x : QFrame) (rest : List QFrame) : State :=
  { s with lc := { s.lc with
    queue := { x with frame := x.frame.withHoldings s.holdings } :: rest
    attempt := some (.frame x.id 0 false), quietUs := 0, heldUs := 0 } }

/-- The probe goes on the line: a JOIN with the own fingerprint, N_st and H (R150). -/
def State.startProbe (s : State) : State :=
  { s with lc := { s.lc with
    attempt := some (.probe s.joinFrame 0 false), probeDue := false, quietUs := 0, heldUs := 0 } }

/-- No attempt is in progress, the transmitter state allows one, and it has something to send (R145, R150). -/
def State.mayStart (s : State) : Bool :=
  s.lc.attempt.isNone &&
    match s.lc.tx with
    | .on => !s.lc.queue.isEmpty
    | .probe => s.lc.probeDue
    | .off => false

/-- TRANSMIT_ATTEMPT_START (R145, R150): it comes when no attempt is in progress, the transmitter state allows one, a
frame stands at the head of the queue or the probe is due, and the idle count has reached 12. The command brings the clock
to the moment at which the count reaches 12 (log 4); where a level on the line prevents it, nothing comes of it. -/
def execTransmitAttemptStart (s : State) : Host.Outcome State Fault Refusal :=
  let a := s.pass s.gapWait
  if !s.mayStart || decide (a.idleCount < Config.idleBits) then goOn s
  else match s.lc.tx, s.lc.queue with
    | .on, x :: rest => goOn (a.startFrame x rest)
    | .probe, _ => goOn a.startProbe
    | _, _ => goOn s

/-- The frame on the line with age stamp `id`. -/
def Link.find (l : Link) (id : Nat) : Option Frame := (l.queue.find? fun x => x.id == id).map QFrame.frame

/-- Retry count of the frame with age stamp `id`. -/
def Link.retryOf (l : Link) (id : Nat) : Nat := ((l.queue.find? fun x => x.id == id).map QFrame.retry).getD 0

/-- What the LC drives on the line in the attempt in progress, bit time by bit time (R141, R150, R151). With no attempt
LTX rests recessive. -/
def State.ltx (s : State) : List Level :=
  match s.lc.attempt with
  | some (.frame id _ _) => ((s.lc.find id).map (frameLevels s.own)).getD []
  | some (.probe join _ _) => frameLevels s.own join
  | some (.brk _) => breakLevels
  | none => []

/-- What every good echo does at the LC and the MC (R143, R147, R158): the counts, the mute hold time, the echo-silence
watch where it runs, and the end of the attempt. -/
def Work.goodEcho (w : Work) : Work :=
  { w with
    lc := { w.lc.validFrame.endAttempt with txErrors := 0, muteHold := Config.muteHoldMin }
    mc := { w.mc with echoSince := w.mc.echoSince.map fun _ => w.now, errSince := false } }

/-- An own frame is read back whole: it leaves the queue and is handed on as heard (R44, R147). -/
def Work.echoFrame (w : Work) (id : Nat) : Work :=
  match w.lc.find id with
  | none => w.goodEcho
  | some f =>
    let w := ({ w with lc := w.lc.dropId id } : Work).goodEcho
    if w.toState.takesFrames then w.applyEcho f else w

/-- The probe is read back whole (R150): unless it has been abandoned, the station returns to ACTIVE and judges isolation
(R157, R158). -/
def Work.echoProbe (w : Work) (abandoned : Bool) : Work :=
  let w := w.goodEcho
  if abandoned ∨ w.mc.mode ≠ .muted then w else (w.setMode .active).judgeIsolation

/-- GOOD_ECHO (R147). -/
def execGoodEcho (s : State) : Host.Outcome State Fault Refusal :=
  match s.lc.attempt with
  | some (.frame id _ _) => goOn (s.begin.echoFrame id).finish
  | some (.probe _ _ last) => goOn (s.begin.echoProbe last).finish
  | _ => goOn s

/-- A frame leaves the queue unsent: R105 is applied. -/
def Work.dropFrame (w : Work) (id : Nat) : Work :=
  match w.lc.find id with
  | none => w
  | some f => ({ w with lc := w.lc.dropId id } : Work).lostFrame f

/-- The own attempt ends. -/
def Work.stopAttempt (w : Work) : Work := { w with lc := w.lc.endAttempt }

/-- The frame with age stamp `id` returns to its place in the queue (R102, R103). -/
def Work.returnFrame (w : Work) (id : Nat) : Work := { w with lc := w.lc.returned id }

/-- The attempt may still be in the data bits of its arbitration character (R146). -/
def Attempt.arbitrating (c : Cfg) : Attempt → Bool
  | .frame _ us _ => decide (us ≤ c.arbitrationUs)
  | .probe _ us _ => decide (us ≤ c.arbitrationUs)
  | .brk _ => false

/-- The frame that won the arbitration holds the line, for as long as its end is not told, and at most for the longest
frame (R141, R145, R146; log 4). An own break asked for meanwhile destroys it (R151). -/
def Work.yieldLine (w : Work) : Work :=
  if w.lc.attempt.isSome then w else { w with lc := { w.lc with heldUs := w.toState.conf.frameUs } }

/-- An attempt ends with its arbitration lost: the frame, or the probe, is tried again, unless the attempt is the last
(R83, R146, R150, R151). -/
def Work.loseArbitration (w : Work) : Attempt → Work
  | .frame id _ last => if last then w.stopAttempt.yieldLine.dropFrame id else w.stopAttempt.yieldLine.returnFrame id
  | .probe _ _ last => let w := w.stopAttempt.yieldLine; { w with lc := { w.lc with probeDue := !last } }
  | .brk _ => w

/-- LOST_ARBITRATION (R146). It comes within the data bits of the arbitration character, and past them it is passed
over (log 3). -/
def execLostArbitration (s : State) : Host.Outcome State Fault Refusal :=
  match s.lc.attempt with
  | some a => if a.arbitrating s.conf then goOn (s.begin.loseArbitration a).finish else goOn s
  | none => goOn s

/-- The frame that met a transmit error is tried again, or dropped with TX_DROPPED at retry count 3, the notice's
value being the kind character of Table 73 (R148; log 60). On a last attempt it is not tried again (R83, R151; log 38). -/
def Work.retryOrDrop (w : Work) (id : Nat) (last : Bool) : Work :=
  match w.lc.find id with
  | none => w
  | some f =>
    if Config.retryLimit ≤ w.lc.retryOf id then (w.dropFrame id).notice .txDropped (kindChar (kindOf f))
    else if last then w.dropFrame id
    else
      ({ w with lc := { w.lc with
        queue := w.lc.queue.map fun x => if x.id = id then { x with retry := x.retry + 1 } else x } } : Work).returnFrame id

/-- In ACTIVE and ISOLATED the consecutive transmit error count rises, and at 16 the station enters MUTED (R149). A count
that stood at 16 before counts as reached by the error (log 65). Where the echo-silence limit has already passed, the error
makes that limit due and does not mute the station in its own step (log 75). -/
def Work.countTransmitError (w : Work) : Work :=
  if w.mc.mode = .active ∨ w.mc.mode = .isolated then
    let w : Work :=
      { w with
        lc := { w.lc with txErrors := min Config.muteThreshold (w.lc.txErrors + 1) }
        mc := { w.mc with errSince := true } }
    if w.lc.txErrors = Config.muteThreshold then w.enterMuted else w
  else w

/-- A probe met a transmit error (R150): the mute hold time doubles and the timer starts again, unless the probe has been
abandoned. The error of an abandoned probe counts neither for R149 nor for the echo-silence watch (R158; log 69). -/
def Work.probeFailed (w : Work) (abandoned : Bool) : Work :=
  if abandoned ∨ w.mc.mode ≠ .muted then w
  else
    let hold := min Config.muteHoldMax (2 * w.lc.muteHold)
    { w with lc := { w.lc with muteHold := hold, muteAt := some (w.now + hold) } }

/-- TRANSMIT_ERROR (R147 to R150). -/
def execTransmitError (s : State) : Host.Outcome State Fault Refusal :=
  match s.lc.attempt with
  | some (.frame id _ last) => goOn ((s.begin.stopAttempt.retryOrDrop id last).countTransmitError).finish
  | some (.probe _ _ last) => goOn (s.begin.stopAttempt.probeFailed last).finish
  | _ => goOn s

end Sys2Proof.Machine
end

