-- ==== Sys2Proof/Machine/Timers.lean ====
section
/-! DEFINITION. The expiries and limits of the Budget Unit, the Quantum Map Unit, the Peer Table Unit, the Allocation Engine,
the Holdings Controller, the Session Sequencer and the Mode Controller. Each brings the clock to the time it is due at (log 2),
and one whose timer does not run is passed over (log 3). -/

namespace Sys2Proof.Machine

/-! ## Budget Unit and map -/

/-- The offer of a source. -/
def State.offerOf (s : State) (source : Nat) : Option Offer := s.bu.offers.find? fun o => o.source == source

/-- An offer is removed and B_eff formed again (R6, R7). -/
def Work.removeOffer (w : Work) (source : Nat) : Work :=
  ({ w with bu := { w.bu with offers := w.bu.offers.filter fun o => o.source ≠ source } } : Work).formBudget

/-- OFFER_EXPIRY (R6). -/
def execOfferExpiry (source : BitVec 5) (s : State) : Host.Outcome State Fault Refusal :=
  match s.offerOf source.toNat with
  | some o => goOn (((s.atTime (s.bk.startAt + o.expiry)).begin).removeOffer source.toNat).finish
  | none => goOn s

/-- SETTLE_EXPIRY (R20). -/
def execSettleExpiry (s : State) : Host.Outcome State Fault Refusal :=
  match s.hc.claim with
  | some (.settling qs t) => goOn ((s.atTime t).begin.settleClaim qs).finish
  | _ => goOn s

/-! ## Listening, ageing, epoch -/

/-- The solo flag is decided, and RATE_SUSPECT posted where receive errors were all that was heard (R56). -/
def Work.decideSolo (w : Work) : Work :=
  if w.ptu.lineHeard.isSome then w
  else
    let w : Work := { w with mc := { w.mc with solo := true } }
    if 0 < w.lc.listenErrors ∧ w.lc.rateSuspect = false then w.notice .rateSuspect w.lc.listenErrors else w

/-- The listening period ends (R56, R163): in OFFLINE, or with a JOIN queued in ACTIVE, where the session may resume
(R124). The epoch timer starts (R68). -/
def Work.endListening (w : Work) (offlineLevel : Bool) : Work :=
  let w : Work := { w with mc := { w.mc with listenAt := none } }
  let w :=
    if offlineLevel ∨ w.mc.isolateReq = true ∨ w.mc.duplicate = true then w.enterOffline
    else ((w.enqueue w.toState.joinFrame).setMode .active).autoResume
  w.decideSolo.startEpoch

/-- A timer of one mode, which runs in that mode only. -/
def State.timerIn (s : State) (m : Mode) (t : Option Nat) : Option Nat := if s.mc.mode = m then t else none

/-- LISTENING_EXPIRY (R56). `offlineLevel` is the level of the OFFLINE input sampled at it. -/
def execListeningExpiry (offlineLevel : Bool) (s : State) : Host.Outcome State Fault Refusal :=
  match s.timerIn .listening s.mc.listenAt with
  | some t =>
    let s := s.atTime t
    let s : State := { s with io := { s.io with offline := offlineLevel } }
    goOn (s.begin.endListening offlineLevel).finish
  | none => goOn s

/-- Time of the ageing limit `ms` of station `t`'s entry where it is in state `p` and ageing runs (R49). -/
def State.ageLimit (s : State) (t : Nat) (p : PeerState) (ms : Nat) : Option Nat :=
  if s.takesFrames && s.peerIs t p then ((s.ptu.entries[t]?).bind Peer.heardAt).map (· + ms) else none

/-- PEER_SILENCE_LIMIT (R49, R50). -/
def execPeerSilenceLimit (station : BitVec 5) (s : State) : Host.Outcome State Fault Refusal :=
  match s.ageLimit station.toNat .live s.conf.silenceMs with
  | some t => goOn ((s.atTime t).begin.silence station.toNat).finish
  | none => goOn s

/-- PEER_EXPULSION_LIMIT (R37, R49, R50). -/
def execPeerExpulsionLimit (station : BitVec 5) (s : State) : Host.Outcome State Fault Refusal :=
  match s.ageLimit station.toNat .silent s.conf.expulsionMs with
  | some t => goOn ((s.atTime t).begin.expel station.toNat).finish
  | none => goOn s

/-- EPOCH_EXPIRY (R68, R70): the next period is measured from this expiry. -/
def execEpochExpiry (s : State) : Host.Outcome State Fault Refusal :=
  match s.ae.epochAt with
  | some t => goOn ((s.atTime t).begin.startEpoch.epoch).finish
  | none => goOn s

/-! ## Drains -/

/-- The earliest drain timeout that runs: of an entry in phase draining while the converter is not LOST (R86, R89). -/
def State.drainDue (s : State) : Option Nat :=
  if s.ci.conv = .lost then none
  else ((s.hc.drains.filter fun d => !d.stuck).map Drain.timeoutAt).min?

/-- Number of stuck entries. -/
def State.stuckCount (s : State) : Nat := s.hc.drains.countP Drain.stuck

/-- The entries due at `t` become stuck; the first sets DRAIN_STUCK, starts the quiesce timer and posts the notice
(R88). -/
def Work.drainTimeout (w : Work) (t : Nat) : Work :=
  let w : Work := { w with hc := { w.hc with drains := w.hc.drains.map fun d =>
    if d.timeoutAt ≤ t then { d with stuck := true } else d } }
  if w.hc.stuck then w
  else
    ({ w with hc := { w.hc with stuck := true, quiesceAt := some (w.now + w.toState.conf.tQ) } } : Work).notice
      .drainStuck w.toState.stuckCount

/-- DRAIN_TIMEOUT (R88): of every entry due at the earliest timeout (log 24). -/
def execDrainTimeout (s : State) : Host.Outcome State Fault Refusal :=
  match s.drainDue with
  | some t => goOn ((s.atTime t).begin.drainTimeout t).finish
  | none => goOn s

/-- QUIESCE_EXPIRY (R88): every entry completes and DRAIN_STUCK is cleared. -/
def execQuiesceExpiry (s : State) : Host.Outcome State Fault Refusal :=
  match s.hc.quiesceAt with
  | some t => goOn (s.atTime t).begin.completeAll.clearStuck.finish
  | none => goOn s

/-- LOST_QUIESCE_EXPIRY (R89, R136): every entry completes, and the timer stands expired. -/
def execLostQuiesceExpiry (s : State) : Host.Outcome State Fault Refusal :=
  match s.ci.lostQuiesce with
  | .running t =>
    let s := s.atTime t
    goOn ({ s with ci := { s.ci with lostQuiesce := .expired } } : State).begin.completeAll.finish
  | _ => goOn s

/-! ## Promises and requests -/

/-- A promise lapses (R40, R98): the marks on its quanta that remain are dropped, those that a later answer set again
among them (log 59), and the Holdings Controller may claim (R91). -/
def Work.lapse (w : Work) (p : Promise) (rest : List Promise) : Work :=
  let w : Work := { w with
    map := p.quanta.foldl
      (fun m q => if m.getD q .free == .held p.donor true then m.set q (.held p.donor false) else m) w.map
    hc := { w.hc with promises := rest } }
  { w with considerClaim := true }

/-- PROMISE_EXPIRY (R98): of the oldest promise, which is the first due. -/
def execPromiseExpiry (s : State) : Host.Outcome State Fault Refusal :=
  match s.hc.promises with
  | p :: rest => goOn ((s.atTime p.expiry).begin.lapse p rest).finish
  | [] => goOn s

/-- Time of the answer timeout, which runs from the echo of the request (R96). -/
def State.answerDue (s : State) : Option Nat :=
  s.hc.request.bind fun r => r.echoAt.map fun t => t + Config.answerMs

/-- The target of the request that times out is counted unanswered, where no answer of it has been heard (R51). -/
def Work.countRequest (w : Work) : Work :=
  match w.hc.request with
  | some r => if r.answered then w else w.countUnanswered r.target
  | none => w

/-- ANSWER_TIMEOUT (R51, R96). -/
def execAnswerTimeout (s : State) : Host.Outcome State Fault Refusal :=
  match s.answerDue with
  | some t => goOn ((s.atTime t).begin.countRequest.endRequest .noAnswer).finish
  | none => goOn s

/-! ## Mode Controller -/

/-- MUTE_HOLD_EXPIRY (R150): the probe is due. -/
def execMuteHoldExpiry (s : State) : Host.Outcome State Fault Refusal :=
  match s.timerIn .muted s.lc.muteAt with
  | some t =>
    let s := s.atTime t
    goOn { s with lc := { s.lc with muteAt := none, probeDue := true } }
  | none => goOn s

/-- Every entry but Self becomes Absent and keeps its fingerprint-seen flag (R42). -/
def forgetPeers (es : List Peer) : List Peer :=
  es.map fun x => if x.state = .self then x else Peer.absentEntry x.fpSeen

/-- A change of the entries is handed to the PEER_SILENT bookings of the stations (log 25). -/
def Work.handPeers (w : Work) : Work := (List.range w.ptu.entries.length).foldl (fun (w : Work) t => w.handPeer t false) w

/-- The trip hold expires (R160): TRIPPED leaves the causes of INHIBIT, and the station enters LISTENING (R42, R54). -/
def Work.leaveTripped (w : Work) : Work :=
  ({ w with
    mc := { w.mc with tripHoldAt := none }
    ci := { w.ci with causeTripped := false }
    ptu := { w.ptu with entries := forgetPeers w.ptu.entries } } : Work).handPeers.enterListening

/-- TRIP_HOLD_EXPIRY (R160). -/
def execTripHoldExpiry (s : State) : Host.Outcome State Fault Refusal :=
  match s.timerIn .tripped s.mc.tripHoldAt with
  | some t => goOn (s.atTime t).begin.leaveTripped.finish
  | none => goOn s

/-- Time of the isolation silence limit, in ACTIVE with the solo flag clear (R52, R156). -/
def State.isolationDue (s : State) : Option Nat :=
  if s.mc.mode = .active ∧ s.mc.solo = false then some (s.ptu.lineHeard.getD s.ptu.lineCleared + s.conf.silenceMs)
  else none

/-- ISOLATION_SILENCE_LIMIT (R156). -/
def execIsolationSilenceLimit (s : State) : Host.Outcome State Fault Refusal :=
  match s.isolationDue with
  | some t => goOn (s.atTime t).begin.enterIsolated.finish
  | none => goOn s

/-- Time of the echo-silence limit, once a transmit error has come since the last good echo, in ACTIVE and ISOLATED
(R158). An error that comes after that time makes the limit due at once, as an event of its own (log 75). -/
def State.echoDue (s : State) : Option Nat :=
  if (s.mc.mode = .active ∨ s.mc.mode = .isolated) ∧ s.mc.errSince = true then s.mc.echoSince.map (· + s.conf.silenceMs) else none

/-- ECHO_SILENCE_LIMIT (R158). -/
def execEchoSilenceLimit (s : State) : Host.Outcome State Fault Refusal :=
  match s.echoDue with
  | some t => goOn (s.atTime t).begin.enterMuted.finish
  | none => goOn s

/-! ## Session Sequencer -/

/-- Time at which the deadline runs out (R111). -/
def State.runOutDue (s : State) : Option Nat :=
  match s.ss.session with
  | some x => if 0 < x.deadline ∧ x.runOut = false then some (x.admittedAt + x.deadline * 1000) else none
  | none => none

/-- The run-out mark is set, and the current step is tested (R111, R113). -/
def Work.runOut (w : Work) : Work := (w.setSession fun x => { x with runOut := true }).testStep [.deadline]

/-- DEADLINE_RUN_OUT (R111). -/
def execDeadlineRunOut (s : State) : Host.Outcome State Fault Refusal :=
  match s.runOutDue with
  | some t => goOn (s.atTime t).begin.runOut.finish
  | none => goOn s

/-- Time left until the step time reaches the end duration of the current step, which it does in CHARGING only (R113). -/
def State.durationLeft (s : State) : Option Nat :=
  match s.ss.session with
  | some x =>
    if x.phase = .charging ∧ x.entered then
      match x.step with
      | some st => if 0 < st.endDuration then some (st.endDuration * 1000 - x.stepTime) else none
      | none => none
    else none
  | none => none

/-- STEP_DURATION_REACHED (R113, R114). -/
def execStepDurationReached (s : State) : Host.Outcome State Fault Refusal :=
  match s.durationLeft with
  | some d => goOn ((s.advance d).begin.testStep [.duration]).finish
  | none => goOn s

end Sys2Proof.Machine
end

