-- ==== Sys2Proof/Machine/ConverterEvents.lean ====
section
/-! DEFINITION. The events of the Converter Port: SETPOINT_REFRESH, SETPOINT_MESSAGE_SENT, METER_REPORT,
METER_REPORT_DISCARDED and METER_SILENCE_EXPIRY (R131 to R137). -/

namespace Sys2Proof.Machine

/-- SETPOINT_REFRESH (R131): the refresh, and the next expiry 100 ms after this one. -/
def execSetpointRefresh (s : State) : Host.Outcome State Fault Refusal :=
  let t := s.ci.refreshAt
  let s := s.atTime t
  goOn (({ s with ci := { s.ci with refreshAt := t + Config.refreshMs } } : State).refresh)

/-- SETPOINT_MESSAGE_SENT (R131): the message being sent is complete. -/
def execSetpointMessageSent (s : State) : Host.Outcome State Fault Refusal :=
  match s.ci.outbox with
  | m :: rest => goOn (s.messageSent m rest)
  | [] => goOn s

/-- A discarded report is counted (R132). -/
def State.countDiscarded (s : State) : State :=
  { s with ci := { s.ci with discarded := min 65535 (s.ci.discarded + 1) } }

/-- METER_REPORT (R132, R133): before START it is passed over (R128). -/
def execMeterReport (msg : List Byte) (overlap : Nat) (s : State) : Host.Outcome State Fault Refusal :=
  if !s.started then goOn s
  else match readMeter s.conf.pMax msg (s.ci.sentCount - overlap) with
    | some r => goOn (s.begin.takeReport r (s.limitBefore overlap)).finish
    | none => goOn s.countDiscarded

/-- METER_REPORT_DISCARDED (R132). -/
def execMeterReportDiscarded (s : State) : Host.Outcome State Fault Refusal :=
  if s.started then goOn s.countDiscarded else goOn s

/-- Time of the meter silence expiry; while the converter is LOST the timer is stopped (R135). -/
def State.silenceDue (s : State) : Option Nat := if s.ci.conv = .lost then none else s.ci.silenceAt

/-- METER_SILENCE_EXPIRY (R135). -/
def execMeterSilenceExpiry (s : State) : Host.Outcome State Fault Refusal :=
  match s.silenceDue with
  | some t => goOn (s.atTime t).begin.becomeLost.finish
  | none => goOn s

end Sys2Proof.Machine
end

