-- ==== Sys2Proof/Machine/Dispatch.lean ====
section
/-! DEFINITION. One arm per command. -/

namespace Sys2Proof.Machine

/-- The effect of a command on everything but the queue of waiting commands. -/
def exec (i : Instr) (s : State) : Host.Outcome State Fault Refusal :=
  match i with
  | .hardwareReset stn => Sys2Proof.Machine.execHardwareReset stn s
  | .tripAsserted => Sys2Proof.Machine.execTripAsserted s
  | .tripDeasserted => Sys2Proof.Machine.execTripDeasserted s
  | .offlineAsserted => Sys2Proof.Machine.execOfflineAsserted s
  | .identify p => Sys2Proof.Machine.execIdentify p s
  | .configure p => Sys2Proof.Machine.execConfigure p s
  | .start p => Sys2Proof.Machine.execStart p s
  | .status p => Sys2Proof.Machine.execStatus p s
  | .clearFlags p => Sys2Proof.Machine.execClearFlags p s
  | .admitSession p => Sys2Proof.Machine.execAdmit p s
  | .vehicleUpdate p => Sys2Proof.Machine.execVehicleUpdate p s
  | .undock p => Sys2Proof.Machine.execUndock p s
  | .abortSession p => Sys2Proof.Machine.execAbortSession p s
  | .suspend p => Sys2Proof.Machine.execSuspend p s
  | .resume p => Sys2Proof.Machine.execResume p s
  | .budgetOffer p => Sys2Proof.Machine.execBudgetOffer p s
  | .isolate p => Sys2Proof.Machine.execIsolate p s
  | .rejoin p offlineLevel => Sys2Proof.Machine.execRejoin p offlineLevel s
  | .restart p => Sys2Proof.Machine.execRestart p s
  | .book p => Sys2Proof.Machine.execBook p s
  | .unbook p => Sys2Proof.Machine.execUnbook p s
  | .clearAction p => Sys2Proof.Machine.execClearAction p s
  | .fetchNotice p => Sys2Proof.Machine.execFetchNotice p s
  | .readPeer p => Sys2Proof.Machine.execReadPeer p s
  | .readQuanta p => Sys2Proof.Machine.execReadQuanta p s
  | .readSession p => Sys2Proof.Machine.execReadSession p s
  | .readResult p => Sys2Proof.Machine.execReadResult p s
  | .unknownCommand code p => Sys2Proof.Machine.execUnknownCommand code p s
  | .fetchResponse clocked => Sys2Proof.Machine.execFetchResponse clocked s
  | .invalidTransaction bytes => Sys2Proof.Machine.execInvalidTransaction bytes s
  | .responseReady => Sys2Proof.Machine.execResponseReady s
  | .claim sender p => Sys2Proof.Machine.execClaim sender p s
  | .contest sender p => Sys2Proof.Machine.execContest sender p s
  | .release sender p => Sys2Proof.Machine.execRelease sender p s
  | .report sender p => Sys2Proof.Machine.execReport sender p s
  | .join sender p => Sys2Proof.Machine.execJoin sender p s
  | .leave sender p => Sys2Proof.Machine.execLeave sender p s
  | .budget sender p => Sys2Proof.Machine.execBudget sender p s
  | .yieldReq sender p => Sys2Proof.Machine.execYieldReq sender p s
  | .yieldAns sender p => Sys2Proof.Machine.execYieldAns sender p s
  | .duplicateFrame kind => Sys2Proof.Machine.execDuplicateFrame kind s
  | .receiveError => Sys2Proof.Machine.execReceiveError s
  | .dominantRun => Sys2Proof.Machine.execDominantRun s
  | .breakDetected => Sys2Proof.Machine.execBreakDetected s
  | .breakEnded => Sys2Proof.Machine.execBreakEnded s
  | .transmitAttemptStart => Sys2Proof.Machine.execTransmitAttemptStart s
  | .goodEcho => Sys2Proof.Machine.execGoodEcho s
  | .lostArbitration => Sys2Proof.Machine.execLostArbitration s
  | .transmitError => Sys2Proof.Machine.execTransmitError s
  | .offerExpiry source => Sys2Proof.Machine.execOfferExpiry source s
  | .settleExpiry => Sys2Proof.Machine.execSettleExpiry s
  | .listeningExpiry offlineLevel => Sys2Proof.Machine.execListeningExpiry offlineLevel s
  | .peerSilenceLimit station => Sys2Proof.Machine.execPeerSilenceLimit station s
  | .peerExpulsionLimit station => Sys2Proof.Machine.execPeerExpulsionLimit station s
  | .epochExpiry => Sys2Proof.Machine.execEpochExpiry s
  | .drainTimeout => Sys2Proof.Machine.execDrainTimeout s
  | .quiesceExpiry => Sys2Proof.Machine.execQuiesceExpiry s
  | .lostQuiesceExpiry => Sys2Proof.Machine.execLostQuiesceExpiry s
  | .promiseExpiry => Sys2Proof.Machine.execPromiseExpiry s
  | .answerTimeout => Sys2Proof.Machine.execAnswerTimeout s
  | .setpointRefresh => Sys2Proof.Machine.execSetpointRefresh s
  | .setpointMessageSent => Sys2Proof.Machine.execSetpointMessageSent s
  | .meterReport msg overlap => Sys2Proof.Machine.execMeterReport msg overlap s
  | .meterReportDiscarded => Sys2Proof.Machine.execMeterReportDiscarded s
  | .meterSilenceExpiry => Sys2Proof.Machine.execMeterSilenceExpiry s
  | .muteHoldExpiry => Sys2Proof.Machine.execMuteHoldExpiry s
  | .tripHoldExpiry => Sys2Proof.Machine.execTripHoldExpiry s
  | .isolationSilenceLimit => Sys2Proof.Machine.execIsolationSilenceLimit s
  | .echoSilenceLimit => Sys2Proof.Machine.execEchoSilenceLimit s
  | .deadlineRunOut => Sys2Proof.Machine.execDeadlineRunOut s
  | .stepDurationReached => Sys2Proof.Machine.execStepDurationReached s

end Sys2Proof.Machine
end

