-- ==== Sys2Proof/Machine/Tick.lean ====
section
/-! DEFINITION. What happens when no command waits: the event of the part's own that is due, and how far time passes where
none is (log 1, log 30). -/

namespace Sys2Proof.Machine

/-- Every timer and limit that runs, with the time it is due at, in the order of spec/opcode_table.json. -/
def State.timers (s : State) : List (Option Nat × Instr) :=
  let stations := (List.range s.ptu.entries.length)
  [(s.cpi.slot.bind fun x => if x.ready then none else some x.readyAt, .responseReady)]
  ++ (s.bu.offers.map fun o => (some (s.bk.startAt + o.expiry), .offerExpiry (BitVec.ofNat 5 o.source)))
  ++ [ (match s.hc.claim with | some (.settling _ t) => some t | _ => none, .settleExpiry)
     , (s.timerIn .listening s.mc.listenAt, .listeningExpiry s.io.offline) ]
  ++ (stations.map fun t => (s.ageLimit t .live s.conf.silenceMs, .peerSilenceLimit (BitVec.ofNat 5 t)))
  ++ (stations.map fun t => (s.ageLimit t .silent s.conf.expulsionMs, .peerExpulsionLimit (BitVec.ofNat 5 t)))
  ++ [ (s.ae.epochAt, .epochExpiry)
     , (s.drainDue, .drainTimeout)
     , (s.hc.quiesceAt, .quiesceExpiry)
     , (match s.ci.lostQuiesce with | .running t => some t | _ => none, .lostQuiesceExpiry)
     , (s.hc.promises.head?.map Promise.expiry, .promiseExpiry)
     , (s.answerDue, .answerTimeout)
     , (some s.ci.refreshAt, .setpointRefresh)
     , (s.silenceDue, .meterSilenceExpiry)
     , (s.timerIn .muted s.lc.muteAt, .muteHoldExpiry)
     , (s.timerIn .tripped s.mc.tripHoldAt, .tripHoldExpiry)
     , (s.isolationDue, .isolationSilenceLimit)
     , (s.echoDue, .echoSilenceLimit)
     , (s.runOutDue, .deadlineRunOut)
     , (s.durationLeft.map (s.now + ·), .stepDurationReached) ]

/-- The first timer or limit of the order that is due. -/
def State.dueTimer (s : State) : Option Instr :=
  (s.timers.find? fun x => match x.1 with
    | some t => decide (t ≤ s.now)
    | none => false).map Prod.snd

/-- An attempt starts: there is one to make, and the idle count has reached 12 (R145). -/
def State.attemptDue (s : State) : Bool := s.mayStart && decide (Config.idleBits ≤ s.idleCount)

/-- The event that comes of itself when no command waits: a timer or limit that is due, then the completion of a setpoint
message being sent, then the start of an attempt. -/
def State.dueEvent (s : State) : Option Instr :=
  match s.dueTimer with
  | some c => some c
  | none =>
    if !s.ci.outbox.isEmpty then some .setpointMessageSent
    else if s.attemptDue then some .transmitAttemptStart
    else none

/-- Times to the moments on the line that do not wait for a ms of the clock, µs: the end of what the attempt in progress
drives (R141, R151), or the idle count of 12 for which a frame or the probe waits (R145), and the end of the levels told. A
moment that has come counts no more. -/
def State.lineMoments (s : State) : List Nat :=
  (match s.lc.attempt with
    | some a => [s.ltx.length * s.conf.bitUs - a.us]
    | none => if s.mayStart && !s.mc.breakOn then [s.gapWait] else [])
  ++ [s.lc.line.length * s.conf.bitUs - s.lc.lineUs]

/-- How long the part goes on with no command waiting and no event due, µs: to the next ms of the clock, or to a moment on
the line that comes sooner (log 1). -/
def State.tick (s : State) : Nat :=
  (s.lineMoments.filter fun m => decide (0 < m)).foldl min (1000 - s.lc.clockUs.val)

end Sys2Proof.Machine
end

