-- ==== Sys2Proof/Safety.lean ====
section
/-! DEFINITION. The terms of the statements: the invariants every step keeps, the calm states, the frames that say which
part of a state a command leaves as it was, what a firing, the clearing point and a first claim or request rest on, and the
tables of R9, R21 and R32 by which an entry of the map changes. -/

namespace Sys2Proof.Machine

/-! ## Invariants -/

/-- The mode limit of Table 52. -/
def State.limitOfTable52 (s : State) : Nat :=
  if s.mc.mode = .active ∧ s.mc.solo = false then s.mineCount * s.conf.qs10
  else if s.mc.mode = .active then min s.mineCount s.conf.sSolo * s.conf.qs10
  else if s.mc.mode = .isolated ∨ s.mc.mode = .muted then s.homeMineCount * s.conf.qs10
  else 0

/-- P_set is the least of the five terms of R129 as they stand, 0 while the converter is FAULT or LOST, and the send value
is P_set, or 0 where that lies above 0 and below P_min (R130). -/
abbrev State.setpointFormed (s : State) : Prop :=
  s.ci.pSet =
    (if s.ci.conv = .fault ∨ s.ci.conv = .lost then 0
     else [s.accTerm, s.conf.pMax, s.mineCount * s.conf.qs10, s.limitOfTable52].foldl min s.capTerm) ∧
  s.ci.sendValue = (if 0 < s.ci.pSet ∧ s.ci.pSet < s.conf.pMin then 0 else s.ci.pSet)

/-- No entry at or above B_eff is Free, Pending or Mine once the station has started, and B_eff and B_safe lie within
B_cfg (R3, R8, R178). -/
def State.budgetKept (s : State) : Prop :=
  s.bu.bEff ≤ s.conf.bCfg ∧ s.conf.bSafe ≤ s.conf.bCfg ∧
    (s.started = true → ∀ q, s.bu.bEff ≤ q → s.entry q ≠ .free ∧ s.entry q ≠ .pending ∧ s.entry q ≠ .mine)

/-- The map has its 128 entries, no list has more than its places, and no two offers have one source (R1, R4, R102, R165,
R170). -/
abbrev State.shaped (s : State) : Prop :=
  s.map.length = 128 ∧ s.bk.table.length = 12 ∧ s.lc.queue.length ≤ 8 ∧ s.bk.notices.length ≤ 16 ∧
    s.bu.offers.length ≤ 4 ∧ (s.bu.offers.map Offer.source).Nodup

/-- The age stamps of the queued and waiting frames are distinct, and older than the next one. -/
abbrev State.stamped (s : State) : Prop :=
  ((s.lc.queue ++ s.lc.waiting).map QFrame.id).Nodup ∧ ∀ f ∈ s.lc.queue ++ s.lc.waiting, f.id < s.lc.nextId

/-- The transmitter state is the one of the mode (R140). -/
abbrev State.transmitterFollows (s : State) : Prop := s.lc.tx = txOf s.mc.mode

/-- Under the DUPLICATE fault cause the station is out of the row (R59, R163). -/
abbrev State.duplicateIsOut (s : State) : Prop :=
  s.mc.duplicate = true → s.mc.mode = .offline ∨ s.mc.mode = .tripped ∨ s.mc.mode = .listening

/-- Every entry of the drain list is a Draining quantum, and is listed once (R86). -/
abbrev State.drainsAreDraining (s : State) : Prop :=
  (∀ d ∈ s.hc.drains, (s.entry d.quantum).isDraining = true) ∧ (s.hc.drains.map Drain.quantum).Nodup

/-- The Pending quanta are those of the claim in settle, each listed once (R19, R20). -/
def State.pendingSettles (s : State) : Prop := s.settling.Nodup ∧ ∀ q, s.entry q = .pending ↔ q ∈ s.settling

/-- At most one CLAIM is queued or waiting, and none while a claim settles (R19, R104). -/
abbrev State.claimAlone (s : State) : Prop :=
  ((s.lc.queue ++ s.lc.waiting).countP fun x => kindOf x.frame == .claim) ≤ (if s.settling = [] then 1 else 0)

/-- A sweep stands only where R84 permits yield requests (R93). -/
abbrev State.sweepPermitted (s : State) : Prop := s.hc.sweep.isSome = true → s.mayTake = true

/-- INHIBIT is asserted while one of its causes holds (R138). -/
abbrev State.inhibitFollows (s : State) : Prop := s.inhibitCause = true → s.ci.inhibit = true

/-! ## Calm states and quiet bookings -/

/-- The end of a step finds nothing to conclude: no isolate drain and no restart is under way, the session is not ENDING,
and no quiesce time of a lost converter has run out. -/
abbrev State.calm (s : State) : Prop :=
  s.mc.isolateReq = false ∧ s.mc.restarting = false ∧ s.sessionEnding = false ∧
    ¬(s.ci.conv = .lost ∧ s.ci.lostQuiesce = .expired)

/-- No booking does more than post its notice. -/
abbrev State.bookingsNotify (s : State) : Prop :=
  (s.bk.table.all fun o => o.all fun b => b.action == .notify) = true

/-! ## Frames -/

/-- `t` is `a` but for what the end of a step in a calm state may add: claims and yield requests (queue, Holdings
Controller) and the setpoint with its messages. P_set has been formed from the terms of `t`. -/
def State.endOf (a t : State) : Prop :=
  t = { a with lc := t.lc, hc := t.hc, ci := t.ci } ∧
  t.lc = { a.lc with queue := t.lc.queue, waiting := t.lc.waiting, nextId := t.lc.nextId } ∧
  t.hc = { a.hc with
    claim := t.hc.claim, request := t.hc.request, sweep := t.hc.sweep, sweepRun := t.hc.sweepRun, rotate := t.hc.rotate
    promises := t.hc.promises } ∧
  t.ci = { a.ci with
    pSet := t.ci.pSet, sendValue := t.ci.sendValue, outbox := t.ci.outbox, inhibit := a.ci.inhibit || a.inhibitCause } ∧
  t.setpointFormed

/-- The response of `t` has this class, refusal code and payload, is not ready, and becomes ready 1 ms after the time of
`s`; its detail byte is left open. Nothing else of the Cabinet Port Interface differs. -/
def State.answered (t s : State) (cls : RespClass) (refusal : Option RefCode) (payload : List Byte) : Prop :=
  t.cpi = { s.cpi with slot := t.cpi.slot } ∧
  t.cpi.slot.map (fun x => (x.ready, x.readyAt, x.response.cls, x.response.refusal, x.response.payload)) =
    some (false, s.now + 1, cls, refusal, payload)

/-- Detail byte of the pending response. -/
def State.detail (t : State) : Option Byte := t.cpi.slot.map fun x => x.response.detail

/-- What hearing a frame of station `u` does by itself, and what it leaves unchanged: the sender's entry, the line-heard
time and the solo flag change, ISOLATED becomes ACTIVE, and the receive error run ends (R44, R52, R57, R143, R157). -/
def State.heardFrom (s t : State) (u : Nat) : Prop :=
  t = { s with
    map := t.map, ptu := t.ptu, mc := t.mc, lc := t.lc, hc := t.hc, ci := t.ci, bu := t.bu, ss := t.ss, bk := t.bk } ∧
  t.mc = { s.mc with
    solo := false, mode := if s.mc.mode = .isolated then .active else s.mc.mode
    echoSince := t.mc.echoSince, errSince := t.mc.errSince } ∧
  t.lc = { s.lc with
    queue := t.lc.queue, waiting := t.lc.waiting, nextId := t.lc.nextId
    tx := if s.mc.mode = .isolated then .on else s.lc.tx, rxRun := 0, rateSuspect := false, quietUs := 0, heldUs := 0 } ∧
  t.ptu = { s.ptu with entries := t.ptu.entries, lineHeard := some s.now } ∧
  (∀ k, k < 32 → k ≠ u → t.ptu.entries[k]? = s.ptu.entries[k]?) ∧
  t.ci = { s.ci with
    pSet := t.ci.pSet, sendValue := t.ci.sendValue, outbox := t.ci.outbox, inhibit := s.ci.inhibit || s.inhibitCause } ∧
  t.setpointFormed

/-- `u` is another station below N_st, with entry `x`, and frames are taken (R44). -/
abbrev State.hears (s : State) (u : Nat) (x : Peer) : Prop :=
  s.takesFrames = true ∧ u < s.conf.nSt ∧ u ≠ s.own ∧ s.ptu.entries[u]? = some x

/-- A frame in the queue or among the waiting frames satisfies `p`. -/
def State.queues (s : State) (p : Frame → Bool) : Prop := ((s.lc.queue ++ s.lc.waiting).any fun x => p x.frame) = true

/-- No YIELD-REQ is queued in `t` that was not in `s` (R8). -/
def State.noNewRequest (s t : State) : Prop :=
  ∀ x ∈ t.lc.queue ++ t.lc.waiting, kindOf x.frame = .yieldReq → x ∈ s.lc.queue ++ s.lc.waiting

/-- A CONTEST that lists `q` is queued. -/
def State.contests (s : State) (q : Nat) : Prop :=
  s.queues fun f => match f with
    | .contest qs => qs.contains q
    | _ => false

/-- Quantum `q` is an own one that this station has not lost: Mine, or Draining for another reason than Conflict. -/
def QEntry.ownToContest : QEntry → Bool
  | .mine => true
  | .draining .conflict _ => false
  | .draining _ _ => true
  | _ => false

/-! ## Firings, restarts and donors -/

/-- What the firing of the ARMED booking `i` makes of the Booking Unit: the mark set, the mark of a SHED or FREEZE, and the
notice posted, or withheld where it is INFO and more than 8 wait; at 16 the newest is marked for overrun (Table 65, R168,
R169, R171, R172). -/
def Bookings.fired (k : Bookings) (i : Nat) (b : Booking) (code value time : Nat) : Bookings :=
  let offered := b.urgent || decide (k.notices.length ≤ 8)
  { k with
    table := k.table.set i (some { b with
      mark := true
      state := if offered then (if b.repeats then .armed else .spent) else .pending value time })
    shed := k.shed || b.action == .shed
    freeze := k.freeze || b.action == .freeze
    notices :=
      if offered = false then k.notices
      else if k.notices.length < 16 then
        k.notices ++ [{ booking := i, code := code, value := value, tags := b.tags, urgent := b.urgent, time := time
                        overrun := false }]
      else k.notices.dropLast ++ (k.notices.getLast?.map fun n => { n with overrun := true }).toList }

/-- The clearing point of a restart has taken `s` to `t` in LISTENING (R54, R181, R182): the Mode Controller, the map, the
offers, the peer table, the Allocation Engine, the Holdings Controller, the link state and the setpoint. -/
def State.cleared (s t : State) : Prop :=
  t.mc = { s.mc with
    mode := .listening, restarting := false, leaving := false, duplicate := false, solo := false
    listenAt := some (s.now + s.conf.lSil * s.conf.tEp), echoSince := none, errSince := false } ∧
  (∀ q, q < 128 → t.entry q = if q < s.conf.bCfg then .free else .withdrawn) ∧
  t.bu = { offers := [], seen := false, bEff := s.conf.bCfg, ownSeq := s.bu.ownSeq } ∧
  t.ptu = { entries := t.ptu.entries, lineHeard := none, lineCleared := s.now } ∧
  (∀ k, k < s.conf.nSt → (t.ptu.entries[k]?).map (fun y => (y.state, y.fpSeen)) =
    some (if k = s.own then .self else .absent, false)) ∧
  t.ae = { s.ae with epochAt := none, seq := 0, result := none, sticky := CompFlags.clear } ∧
  t.hc = { Holdings.reset s.own with rotate := s.hc.rotate } ∧
  (t.charging = false → t.ss.bid = Bid.null) ∧
  (t.lc.tx = .off ∧ t.lc.muteHold = 1000 ∧ t.lc.muteAt = none ∧ t.lc.probeDue = false ∧ t.lc.rateSuspect = false) ∧
  (t.lc.txErrors = 0 ∧ t.lc.rxErrors = 0 ∧ t.lc.listenErrors = 0 ∧ t.lc.rxRun = 0) ∧
  (∀ f ∈ t.lc.queue ++ t.lc.waiting, t.lc.onLine f = true) ∧
  t.ci = { s.ci with
    pSet := 0, sendValue := 0, outbox := t.ci.outbox, inhibit := s.ci.inhibit || s.ci.causeTripped || s.ci.causeLost }

/-- The need under a target, with no CLAIM of the own on its way: the target less the held and the promised-to-me count
(R84). -/
def State.needFor (s : State) (target : Nat) : Nat := target - (s.heldCount + s.promisedCount)

/-- Surplus of station `u`: its held count in the map of `s` over its target in the record of `t` (R94). -/
def State.surplusOver (s t : State) (u : Nat) : Nat := s.heldCountOf u - ((t.ae.result.map Result.targets).getD []).getD u 0

/-- Unanswered yield count of station `u`'s entry (R51). -/
def State.unansweredBy (s : State) (u : Nat) : Nat := ((s.ptu.entries[u]?).map Peer.unanswered).getD 0

/-- No Live station holds an own home quantum below B_eff whose number lies below `n` (R93). -/
abbrev State.noHomeAskedBelow (s : State) (n : Nat) : Prop :=
  ∀ v, v < n → s.peerIs v .live = true → ∀ q, q < s.bu.bEff → s.conf.homeStation q = some s.own →
    (s.entry q).heldBy v = false

/-- R84 permits claims, and no claim is made: ACTIVE, CHARGING, no FREEZE, and no CLAIM on its way. -/
abbrev State.freeToClaim (s : State) : Prop :=
  s.mc.mode = .active ∧ s.charging = true ∧ s.bk.freeze = false ∧ s.hc.claim = none ∧ s.hasQueued .claim = false

/-- A need would start the sweep with a first request: none is outstanding or queued, and no quantum is eligible for a claim,
every Free one below B_eff being home to another station that is neither Absent nor Left (R90, R93). -/
abbrev State.freeToAsk (s : State) : Prop :=
  s.freeToClaim ∧ s.hc.request = none ∧ s.hasQueued .yieldReq = false ∧ s.conf.nSt ≤ 32 ∧
    ∀ q, q < s.bu.bEff → s.entry q = .free →
      (s.conf.homeStation q).any (fun v => v != s.own && !s.peerIs v .absent && !s.peerIs v .left) = true

/-! ## Tables of the map -/

/-- Quantum `q` after station `u` has stated that it holds it (the tables of R21 and R32, by the conflict rule of R34).
Where an own Conflict quantum has lost its winner, `u` is recorded (log 74). -/
def State.stated (s : State) (u q : Nat) : QEntry :=
  match s.entry q with
  | .free => .held u false
  | .withdrawn => .held u false
  | .pending => .held u false
  | .mine => if s.conf.winner q s.own u = s.own then .mine else .draining .conflict (some u)
  | .draining .conflict none => .draining .conflict (some u)
  | .draining .conflict (some w) => .draining .conflict (some (s.conf.winner q w u))
  | .draining r b => if s.conf.winner q s.own u = s.own then .draining r b else .draining .conflict (some u)
  | .held v m => if v = u then .held v m else if s.conf.winner q v u = v then .held v m else .held u false

/-- Quantum `q` after B_eff has become `b` (R9, R11). -/
def State.rebudgeted (s : State) (b q : Nat) : QEntry :=
  if b ≤ q ∧ q < s.conf.bCfg ∧ b < s.bu.bEff then
    match s.entry q with
    | .free => .withdrawn
    | .withdrawn => .withdrawn
    | .mine => .draining .withdrawal none
    | .pending => .withdrawn
    | .draining .yield _ => .draining .withdrawal none
    | .draining r x => .draining r x
    | .held u _ => .held u false
  else if s.bu.bEff < b ∧ q < b ∧ s.entry q = .withdrawn then .free
  else s.entry q

/-- What the isolate drain, an ended session or a lost converter makes of an entry: Mine drains with `r`, Pending is given
up (R22, R28). -/
def State.drainedFor (s : State) (r : DrainReason) (q : Nat) : QEntry :=
  match s.entry q with
  | .mine => .draining r none
  | .pending => s.vacant q
  | e => e

/-! ## Frames that Table 73 can lay out -/

/-- Every number of the list fits a byte. -/
def bytesFit (qs : List Nat) : Prop := ∀ q ∈ qs, q < 256

/-- The fields of the frame lie within the ranges of Table 73, and its holdings set lists quanta of the map in ascending
order. -/
def Frame.wf : Frame → Prop
  | .contest qs => 1 ≤ qs.length ∧ qs.length ≤ 8 ∧ bytesFit qs
  | .claim qs => 1 ≤ qs.length ∧ qs.length ≤ 8 ∧ bytesFit qs
  | .yieldAns requester reason granted => requester < 256 ∧ reason < 256 ∧ granted.length ≤ 8 ∧ bytesFit granted
  | .release b qs => (∀ v ∈ b, v < 255) ∧ 1 ≤ qs.length ∧ qs.length ≤ 8 ∧ bytesFit qs
  | .yieldReq target count .surplus listed => target < 256 ∧ 1 ≤ count ∧ count ≤ 8 ∧ listed = []
  | .yieldReq target count .home listed =>
    target < 256 ∧ 1 ≤ count ∧ count ≤ 8 ∧ listed.length = count ∧ bytesFit listed
  | .budget source value seq hold => source < 256 ∧ value < 256 ∧ seq < 256 ∧ hold < 256
  | .report seq tier weight want floor sess tag holdings _ =>
    bytesFit [seq, tier, weight, want, floor, sess] ∧ tag < 65536 ∧
      holdings = (List.range 128).filter fun q => holdings.contains q
  | .join _ nSt h => nSt < 256 ∧ h < 256
  | .leave => True

end Sys2Proof.Machine
end

