-- ==== Sys2Proof/Certificates/Slice0/Obligations.lean ====
section
/-! DEFINITION. The statements for the provers,
    each with the rules it rests on. In a statement about a command `s` is the
state before it and `t` the state after it, and `a` is `s` with its clock at the moment of the event. -/

open Sys2Proof Sys2Proof.Machine

/-- A step takes the command at the front of the queue. For every state whose queue of waiting commands is c followed by
rest, step answers what exec answers for c on the state with the queue rest. (R175) -/
def Obligations.StepTakesTheFrontCommand : Prop :=
  ∀ (c : Instr) (rest : List Instr) (s : State),
    s.pending = c :: rest → step s = exec c { s with pending := rest }

/-- With no command waiting a step takes the event that is due, or lets time pass. With an empty queue, step answers
what exec answers for the event of the part's own that is due; where none is due it answers a next state in which only
the clock, the step time of the session, and of the line the quiet time, the levels to come and the attempt in progress
(its time, or the end of an own break) differ. The clock comes to the next ms, or to the earliest moment on the line that
lies before it: the end of what the attempt in progress drives, the idle count of 12 that a frame or the probe waits
for, or the end of the levels told. This is the model's choice (log 1), not a rule of the spec. -/
def Obligations.IdleStepTakesTheDueEventOrLetsTimePass : Prop :=
  ∀ (s : State), s.pending = [] →
    (∀ c, s.dueEvent = some c → step s = exec c s) ∧
    (s.dueEvent = none →
      ∃ t e, step s = .next t ∧
        t = { s with now := t.now, ss := { s.ss with session := t.ss.session }
                     lc := { s.lc with
                       quietUs := t.lc.quietUs, clockUs := t.lc.clockUs, line := t.lc.line, lineUs := t.lc.lineUs
                       heldUs := t.lc.heldUs, attempt := t.lc.attempt } } ∧
        t.now * 1000 + t.lc.clockUs.val = s.now * 1000 + s.lc.clockUs.val + e ∧
        0 < e ∧
        s.lc.clockUs.val + e ≤ 1000 ∧
        (∀ m ∈ s.lineMoments, 0 < m → e ≤ m) ∧
        (s.lc.clockUs.val + e = 1000 ∨ e ∈ s.lineMoments))

/-- The state after reset holds the values the spec states. In State.reset: the mode is UNCONFIGURED with the solo flag
and isolate request clear, no fault cause and every timer stopped; no configuration, fingerprint or response; every
map entry Free; no offer, B_eff 0, own sequence 0; no peer entry; no result, sequence 0, no sticky flag; an empty
queue with the transmitter off, error counts 0 and a mute hold time of 1000 ms; no session and the null bid; the
converter LOST with INHIBIT asserted and setpoint 0; every booking IDLE, no notice, no action mark, ATTN released; no
command waiting. (R4, R7, R17, R42, R69, R79, R83, R106, R128, R153, R155, R165) -/
def Obligations.ResetStateHoldsTheStatedValues : Prop :=
  State.reset.mc.mode = .unconfigured ∧ State.reset.mc.solo = false ∧ State.reset.mc.isolateReq = false ∧
    State.reset.mc.duplicate = false ∧ State.reset.mc.tripHoldAt = none ∧ State.reset.mc.listenAt = none ∧
    State.reset.cpi.cfg = none ∧ State.reset.cpi.fingerprint = none ∧ State.reset.cpi.slot = none ∧
    (∀ q, q < 128 → State.reset.entry q = .free) ∧
    State.reset.bu.offers = [] ∧ State.reset.bu.seen = false ∧ State.reset.bu.bEff = 0 ∧ State.reset.bu.ownSeq = 0 ∧
    State.reset.ptu.entries = [] ∧ State.reset.ae.result = none ∧ State.reset.ae.seq = 0 ∧
    State.reset.ae.sticky = CompFlags.clear ∧ State.reset.ae.epochAt = none ∧
    State.reset.lc.queue = [] ∧ State.reset.lc.waiting = [] ∧ State.reset.lc.tx = .off ∧ State.reset.lc.attempt = none ∧
    State.reset.lc.txErrors = 0 ∧ State.reset.lc.rxErrors = 0 ∧ State.reset.lc.muteHold = 1000 ∧
    State.reset.hc = Holdings.reset State.reset.cpi.stn ∧
    State.reset.ss.session = none ∧ State.reset.ss.bid = Bid.null ∧
    State.reset.ci.conv = .lost ∧ State.reset.ci.inhibit = true ∧ State.reset.ci.pSet = 0 ∧
    State.reset.bk.table = List.replicate 12 none ∧ State.reset.bk.notices = [] ∧ State.reset.bk.shed = false ∧
    State.reset.bk.freeze = false ∧ State.reset.attn = false ∧ State.reset.pending = []

/-- HARDWARE_RESET puts every block into its reset values. From every state HARDWARE_RESET answers the reset state with
the station number sampled from STN, the rotate pointer at that number, and the TRIP and OFFLINE levels and the
waiting commands as they were. The input levels kept (log 6), the clock at 0 (log 1), the first refresh and the other
values the spec does not give (log 7) and the empty bytes on SDO (log 31) are the model's choice. (R83, R155, R179,
R183) -/
def Obligations.HardwareResetRestoresResetValues : Prop :=
  ∀ (stn : BitVec 5) (s : State),
    ∃ t, exec (.hardwareReset stn) s = .next t ∧
      t = { State.reset with
          io := { trip := s.io.trip, offline := s.io.offline, sdo := [] }
          cpi := { State.reset.cpi with stn := stn.toNat }
          hc := { State.reset.hc with rotate := stn.toNat }
          pending := s.pending }

/-- A command whose payload length Table 74 does not allow is refused FORMAT. For every command of Table 74 and every
payload whose length the table does not allow for it, in every state and mode, the command is refused FORMAT, and
nothing but the pending response differs (for REJOIN also the sampled level of the OFFLINE input). ADMIT is allowed 11
to 91 bytes. A payload of which fewer bytes are clocked in than its payload length announces has no allowed length,
whatever it announces. That reading of such a transaction (log 48), the empty payload of the refusal (log 43) and the
OFFLINE level REJOIN records (log 5) are the model's choice. (R176, R186) -/
def Obligations.WrongPayloadLengthIsRefusedFormat : Prop :=
  (∀ (p : Payload) (c : Instr) (n : Nat) (s : State),
     (c, n) ∈ [(Instr.identify p, 0), (Instr.configure p, 20), (Instr.start p, 0), (Instr.status p, 0),
         (Instr.clearFlags p, 0), (Instr.vehicleUpdate p, 5), (Instr.undock p, 0), (Instr.abortSession p, 0),
         (Instr.suspend p, 0), (Instr.resume p, 0), (Instr.budgetOffer p, 2), (Instr.isolate p, 0), (Instr.restart p,
         0), (Instr.book p, 10), (Instr.unbook p, 1), (Instr.clearAction p, 1), (Instr.fetchNotice p, 0),
         (Instr.readPeer p, 1), (Instr.readQuanta p, 1), (Instr.readSession p, 0), (Instr.readResult p, 0)] →
     (∀ bytes, p = .whole bytes → bytes.length ≠ n) →
     ∃ t, exec c s = .next t ∧
       t = { s with cpi := t.cpi } ∧
       t.answered s .refused (some .format) []) ∧
  (∀ (p : Payload) (s : State),
     (∀ bytes, p = .whole bytes → bytes.length < 11 ∨ 91 < bytes.length) →
     ∃ t, exec (.admitSession p) s = .next t ∧
       t = { s with cpi := t.cpi } ∧
       t.answered s .refused (some .format) []) ∧
  (∀ (p : Payload) (level : Bool) (s : State),
     (∀ bytes, p = .whole bytes → bytes.length ≠ 0) →
     ∃ t, exec (.rejoin p level) s = .next t ∧
       t = { s with cpi := t.cpi, io := { s.io with offline := level } } ∧
       t.answered s .refused (some .format) [])

/-- A command outside the modes of Table 68 is refused STATE and has no other effect. With a payload of the allowed
length: the commands taken from LISTENING on are refused STATE in UNCONFIGURED and CONFIGURED; those taken from
CONFIGURED on are refused STATE in UNCONFIGURED; CONFIGURE is refused STATE outside UNCONFIGURED and START outside
CONFIGURED; BUDGET OFFER is refused STATE outside ACTIVE, ISOLATED and MUTED; REJOIN is refused STATE outside
LISTENING, OFFLINE and TRIPPED. Nothing but the pending response differs (for REJOIN also the sampled OFFLINE level).
The empty payload of the refusal (log 43) and the recorded level (log 5) are the model's choice. (R12, R108, R119,
R125, R161, R162, R166, R176, R177, R181) -/
def Obligations.CommandsOutsideTheirModesAreRefusedState : Prop :=
  (∀ (p : List Byte) (c : Instr) (n : Nat) (s : State),
     (c, n) ∈ [(Instr.vehicleUpdate (.whole p), 5), (Instr.undock (.whole p), 0), (Instr.abortSession (.whole p), 0),
         (Instr.suspend (.whole p), 0), (Instr.resume (.whole p), 0), (Instr.isolate (.whole p), 0), (Instr.restart (.whole p), 0)] →
     p.length = n →
     s.started = false →
     ∃ t, exec c s = .next t ∧
       t = { s with cpi := t.cpi } ∧
       t.answered s .refused (some .state) []) ∧
  (∀ (p : List Byte) (c : Instr) (n : Nat) (s : State),
     (c, n) ∈ [(Instr.status (.whole p), 0), (Instr.clearFlags (.whole p), 0), (Instr.book (.whole p), 10),
         (Instr.unbook (.whole p), 1), (Instr.clearAction (.whole p), 1), (Instr.readPeer (.whole p), 1),
         (Instr.readQuanta (.whole p), 1), (Instr.readSession (.whole p), 0), (Instr.readResult (.whole p), 0)] →
     p.length = n →
     s.mc.mode = .unconfigured →
     ∃ t, exec c s = .next t ∧
       t = { s with cpi := t.cpi } ∧
       t.answered s .refused (some .state) []) ∧
  (∀ (p : List Byte) (s : State),
     11 ≤ p.length →
     p.length ≤ 91 →
     s.started = false →
     ∃ t, exec (.admitSession (.whole p)) s = .next t ∧
       t = { s with cpi := t.cpi } ∧
       t.answered s .refused (some .state) []) ∧
  (∀ (p : List Byte) (c : Instr) (s : State),
     ((c = .configure (.whole p) ∧ p.length = 20 ∧ s.mc.mode ≠ .unconfigured) ∨ (c = .start (.whole p) ∧ p.length = 0 ∧
         s.mc.mode ≠ .configured) ∨
      (c = .budgetOffer (.whole p) ∧ p.length = 2 ∧ s.working = false)) →
     ∃ t, exec c s = .next t ∧
       t = { s with cpi := t.cpi } ∧
       t.answered s .refused (some .state) []) ∧
  (∀ (level : Bool) (s : State),
     s.mc.mode ≠ .listening →
     s.mc.mode ≠ .offline →
     s.mc.mode ≠ .tripped →
     ∃ t, exec (.rejoin (.whole []) level) s = .next t ∧
       t = { s with cpi := t.cpi, io := { s.io with offline := level } } ∧
       t.answered s .refused (some .state) [])

/-- IDENTIFY, STATUS and the READ commands report the state and change nothing else. IDENTIFY answers ACCEPTED in every
mode with part code 0x418, revision 3, the station number and the mode. From CONFIGURED on, STATUS, READ SESSION, READ
RESULT, READ PEER (of a station below N_st) and READ QUANTA (of a quantum below 128) answer ACCEPTED with the payload
laid out by R186, of which these bytes are stated (in STATUS the offsets after byte 6, the 14 of the Budget Unit
fields among them, and the length of 57 rest on a time left on the trip hold of four bytes in ms, the model's choice,
log 70, and the 46 bytes of an empty READ RESULT on the model's reading, log 40): the Mode Controller (fault cause by
log 14) and Budget Unit fields of STATUS, the session state of READ SESSION, the empty mark of READ RESULT, the Self
state and bid of READ PEER for the own number and the state of another entry, the SHED and FREEZE marks of READ
SESSION before its last two bytes (their place is the model's choice, log 35), and every entry of READ QUANTA by its
state. Nothing but the pending response differs. READ PEER of a number from N_st on and READ QUANTA from 128 on are
refused RANGE, with an empty payload (log 43, the model's choice). (R41, R43, R53, R82, R127, R164, R169, R179, R180,
R186) -/
def Obligations.ReadCommandsReportTheState : Prop :=
  (∀ (s : State),
     ∃ t, exec (.identify (.whole [])) s = .next t ∧
       t = { s with cpi := t.cpi } ∧
       t.answered s .accepted none [0x04, 0x18, 0x03, byteOf s.own, byteOf (modeCode s.mc.mode)]) ∧
  (∀ (s : State),
     s.mc.mode ≠ .unconfigured →
     ∃ t, exec (.status (.whole [])) s = .next t ∧
       t = { s with cpi := t.cpi } ∧
       t.answered s .accepted none s.statusPayload ∧
       (s.statusPayload.take 6 =
        [byteOf (modeCode s.mc.mode), flagByte s.mc.restarting, flagByte s.mc.solo, flagByte s.mc.isolateReq,
            flagByte s.mc.duplicate
        , flagByte s.mc.tripHoldAt.isSome]) ∧
       ((s.statusPayload.drop 14).take 4 =
        [byteOf s.bu.bEff, byteOf s.bu.offers.length, flagByte s.bu.seen, byteOf s.ae.seq]) ∧
       s.statusPayload.length = 57) ∧
  (∀ (s : State),
     s.mc.mode ≠ .unconfigured →
     ∃ t, exec (.readSession (.whole [])) s = .next t ∧
       t = { s with cpi := t.cpi } ∧
       t.answered s .accepted none s.readSessionPayload ∧
       s.readSessionPayload.head? = some (byteOf (sessCode s.sessState)) ∧
       (s.readSessionPayload.reverse.drop 2).take 2 = [flagByte s.bk.freeze, flagByte s.bk.shed]) ∧
  (∀ (s : State),
     s.mc.mode ≠ .unconfigured →
     ∃ t, exec (.readResult (.whole [])) s = .next t ∧
       t = { s with cpi := t.cpi } ∧
       t.answered s .accepted none s.readResultPayload ∧
       s.readResultPayload.head? = some (flagByte s.ae.result.isNone) ∧
       s.readResultPayload.length = 46) ∧
  (∀ (b : Byte) (s : State),
     s.mc.mode ≠ .unconfigured →
     b.toNat < s.conf.nSt →
     ∃ t, exec (.readPeer (.whole [b])) s = .next t ∧
       t = { s with cpi := t.cpi } ∧
       t.answered s .accepted none (s.readPeerPayload b.toNat) ∧
       (b.toNat = s.own → (s.readPeerPayload b.toNat).take 6 =
        [6, 1, byteOf s.ss.bid.tier, byteOf s.ss.bid.weight, byteOf s.ss.bid.want, byteOf s.ss.bid.floor]) ∧
       (b.toNat ≠ s.own → (s.readPeerPayload b.toNat).head? = (s.peerState b.toNat).map fun x => byteOf (peerCode x))) ∧
  (∀ (b : Byte) (s : State),
     s.mc.mode ≠ .unconfigured →
     b.toNat < 128 →
     s.map.length = 128 →
     ∃ t, exec (.readQuanta (.whole [b])) s = .next t ∧
       t = { s with cpi := t.cpi } ∧
       t.answered s .accepted none (s.readQuantaPayload b.toNat) ∧
       (s.readQuantaPayload b.toNat).length = 5 * min 16 (128 - b.toNat) ∧
       (∀ k, k < 16 → b.toNat + k < 128 → ((s.readQuantaPayload b.toNat).drop (5 * k)).take 5 =
        match s.entry (b.toNat + k) with
        | .free => [0, 0xFF, 0xFF, 0xFF, 0]
        | .withdrawn => [1, 0xFF, 0xFF, 0xFF, 0]
        | .pending => [2, 0xFF, 0xFF, 0xFF, 0]
        | .mine => [3, 0xFF, 0xFF, 0xFF, 0]
        | .draining r none => [4, 0xFF, byteOf (reasonCode r), 0xFF, 0]
        | .draining r (some u) => [4, 0xFF, byteOf (reasonCode r), byteOf u, 0]
        | .held u m => [5, byteOf u, 0xFF, 0xFF, flagByte m])) ∧
  (∀ (b : Byte) (c : Instr) (s : State),
     s.mc.mode ≠ .unconfigured →
     ((c = .readPeer (.whole [b]) ∧ s.conf.nSt ≤ b.toNat) ∨ (c = .readQuanta (.whole [b]) ∧ 128 ≤ b.toNat)) →
     ∃ t, exec c s = .next t ∧
       t = { s with cpi := t.cpi } ∧
       t.answered s .refused (some .range) [])

/-- A CONFIGURE whose checks all pass stores the record and enters CONFIGURED. In UNCONFIGURED, with 20 bytes whose
fields (T_ep and the trip hold defaulted where 0) lie within the ranges of Table 69 and pass the cross-checks of R178,
CONFIGURE answers ACCEPTED with the fingerprint, the CRC over the 19 bytes of fields 1 to 15 as stored; the record and
fingerprint are stored, the mode is CONFIGURED, B_eff is B_cfg, the peer table has N_st entries, the own one Self and
every other Absent, and every booking is IDLE; nothing else differs. (R7, R42, R165, R177, R178, R186) -/
def Obligations.ConfigureStoresTheCheckedRecord : Prop :=
  ∀ (p : List Byte) (c : Cfg) (s : State),
    p.length = 20 →
    s.mc.mode = .unconfigured →
    (c = {
          qs := at1 p 0, bCfg := at1 p 1, bSafe := at1 p 2, sSolo := at1 p 3, h := at1 p 4, nSt := at1 p 5
          tEp := if at2 p 6 = 0 then 1000 else at2 p 6, lSil := at1 p 8, lExp := at1 p 9, tQ := at2 p 10
          tripHold := if at1 p 12 = 0 then 10 else at1 p 12, policy := at1 p 13, d := at1 p 14
          pMax := at2 p 15, pMin := at2 p 17, attention := at1 p 19 }) →
    (1 ≤ c.qs ∧ c.qs ≤ 63 ∧ 1 ≤ c.bCfg ∧ c.bCfg ≤ 128 ∧ 1 ≤ c.bSafe ∧ c.bSafe ≤ 128 ∧ c.sSolo ≤ 128 ∧ c.h ≤ 4 ∧
      2 ≤ c.nSt ∧ c.nSt ≤ 32 ∧ 500 ≤ c.tEp ∧ c.tEp ≤ 4000 ∧ c.tEp % 250 = 0 ∧ 2 ≤ c.lSil ∧ c.lSil ≤ 8 ∧ 4 ≤ c.lExp ∧
      c.lExp ≤ 32 ∧ 500 ≤ c.tQ ∧ c.tQ ≤ 2000 ∧ c.tQ % 100 = 0 ∧ 5 ≤ c.tripHold ∧ c.tripHold ≤ 60 ∧ c.policy ≤ 3 ∧
      1 ≤ c.d ∧ c.d ≤ 63 ∧ 1 ≤ c.pMax ∧ c.pMax ≤ 6000 ∧ c.pMin ≤ c.pMax ∧ 1 ≤ c.attention ∧ c.attention ≤ 16) →
    (s.own < c.nSt ∧ c.nSt * c.h ≤ c.bSafe ∧ c.bSafe ≤ c.bCfg ∧ c.sSolo ≤ c.bCfg ∧
      2000 + c.tQ ≤ (c.lExp - c.lSil) * c.tEp) →
    ∃ t, exec (.configure (.whole p)) s = .next t ∧
      t = { s with
          cpi := t.cpi, mc := { s.mc with mode := .configured }, ptu := { s.ptu with entries := t.ptu.entries }
          bu := { s.bu with bEff := c.bCfg }, bk := { s.bk with table := List.replicate 12 none } } ∧
      t.cpi = { s.cpi with cfg := some c, fingerprint := t.cpi.fingerprint, slot := t.cpi.slot } ∧
      (t.cpi.fingerprint = some (crc16
        ([byteOf c.qs, byteOf c.bCfg, byteOf c.bSafe, byteOf c.sSolo, byteOf c.h, byteOf c.nSt, byteOf (c.tEp / 256)
        , byteOf c.tEp, byteOf c.lSil, byteOf c.lExp, byteOf (c.tQ / 256), byteOf c.tQ, byteOf c.tripHold,
            byteOf c.policy
        , byteOf c.d, byteOf (c.pMax / 256), byteOf c.pMax, byteOf (c.pMin / 256), byteOf c.pMin]))) ∧
      (t.cpi.slot.map (fun x => (x.ready, x.readyAt, x.response.cls, x.response.payload)) =
        some (false, s.now + 1, .accepted, (t.cpi.fingerprint.map fun f => be2 f.toNat).getD [])) ∧
      t.ptu.entries.length = c.nSt ∧
      (∀ k, k < c.nSt → (t.ptu.entries[k]?).map Peer.state = some (if k = s.own then .self else .absent)) ∧
      (∀ k, k < c.nSt → (t.ptu.entries[k]?).map Peer.fpSeen = some false)

/-- A CONFIGURE is refused CONFIG_CHECK with the number of the first check that fails. In UNCONFIGURED, with 20 bytes:
the checks being the ranges of Table 69 in table order, with their field numbers, and then the cross-checks of R178
with their details, where those before one numbered n pass and that one fails, CONFIGURE is refused CONFIG_CHECK with
detail n and nothing but the pending response differs. The empty payload of the refusal is the model's choice (log
43). (R177, R178) -/
def Obligations.ConfigureRefusesTheFirstFailedCheck : Prop :=
  ∀ (p : List Byte) (c : Cfg) (n : Nat) (before after : List (Nat × Bool)) (s : State),
    p.length = 20 →
    s.mc.mode = .unconfigured →
    (c = {
          qs := at1 p 0, bCfg := at1 p 1, bSafe := at1 p 2, sSolo := at1 p 3, h := at1 p 4, nSt := at1 p 5
          tEp := if at2 p 6 = 0 then 1000 else at2 p 6, lSil := at1 p 8, lExp := at1 p 9, tQ := at2 p 10
          tripHold := if at1 p 12 = 0 then 10 else at1 p 12, policy := at1 p 13, d := at1 p 14
          pMax := at2 p 15, pMin := at2 p 17, attention := at1 p 19 }) →
    ([ (1, decide (1 ≤ c.qs ∧ c.qs ≤ 63)), (2, decide (1 ≤ c.bCfg ∧ c.bCfg ≤ 128))
      , (3, decide (1 ≤ c.bSafe ∧ c.bSafe ≤ 128)), (4, decide (c.sSolo ≤ 128)), (5, decide (c.h ≤ 4))
      , (6, decide (2 ≤ c.nSt ∧ c.nSt ≤ 32)), (7, decide (500 ≤ c.tEp ∧ c.tEp ≤ 4000 ∧ c.tEp % 250 = 0))
      , (8, decide (2 ≤ c.lSil ∧ c.lSil ≤ 8)), (9, decide (4 ≤ c.lExp ∧ c.lExp ≤ 32))
      , (10, decide (500 ≤ c.tQ ∧ c.tQ ≤ 2000 ∧ c.tQ % 100 = 0)), (11, decide (5 ≤ c.tripHold ∧ c.tripHold ≤ 60))
      , (12, decide (c.policy ≤ 3)), (13, decide (1 ≤ c.d ∧ c.d ≤ 63)), (14, decide (1 ≤ c.pMax ∧ c.pMax ≤ 6000))
      , (15, decide (c.pMin ≤ c.pMax)), (16, decide (1 ≤ c.attention ∧ c.attention ≤ 16))
      , (17, decide (s.own < c.nSt)), (3, decide (c.nSt * c.h ≤ c.bSafe)), (3, decide (c.bSafe ≤ c.bCfg))
      , (4, decide (c.sSolo ≤ c.bCfg)), (9, decide (2000 + c.tQ ≤ (c.lExp - c.lSil) * c.tEp)) ] =
      before ++ (n, false) :: after) →
    (∀ x ∈ before, x.2 = true) →
    ∃ t, exec (.configure (.whole p)) s = .next t ∧
      t = { s with cpi := t.cpi } ∧
      t.answered s .refused (some .configCheck) [] ∧
      t.detail = some (byteOf n)

/-- START puts the blocks into their START values and the station into LISTENING. In CONFIGURED START answers ACCEPTED.
With TRIP deasserted: the mode is LISTENING with the listening timer at L_sil x T_ep and the solo flag clear; the map
is Free below B_cfg and Withdrawn from it on; no offer, offers-seen clear, B_eff is B_cfg, own sequence kept; the peer
table fresh, the line-heard time cleared; epoch timer stopped, sequence 0, no result, no sticky flag; the Holdings
Controller empty with target 0; the queue empty, the transmitter off, counts 0; the LOST quiesce timer runs T_q; the
time base starts. With TRIP asserted the station ends in TRIPPED. (R4, R7, R17, R42, R52, R54, R69, R79, R83, R128,
R153, R159) -/
def Obligations.StartEntersListening : Prop :=
  (∀ (s : State),
     s.mc.mode = .configured →
     s.io.trip = false →
     ∃ t, exec (.start (.whole [])) s = .next t ∧
       t = { s with
          cpi := t.cpi, mc := t.mc, bu := t.bu, map := t.map, ptu := t.ptu, ae := t.ae, hc := t.hc, ss := t.ss,
          ci := t.ci
          lc := t.lc, bk := t.bk } ∧
       t.answered s .accepted none [] ∧
       t.mc = { s.mc with
          mode := .listening, solo := false, listenAt := some (s.now + s.conf.lSil * s.conf.tEp), echoSince := none
          errSince := false } ∧
       (∀ q, q < 128 → t.entry q = if q < s.conf.bCfg then .free else .withdrawn) ∧
       t.bu = { offers := [], seen := false, bEff := s.conf.bCfg, ownSeq := s.bu.ownSeq } ∧
       (∀ k, k < s.conf.nSt → (t.ptu.entries[k]?).map Peer.state = some (if k = s.own then .self else .absent)) ∧
       t.ptu.lineHeard = none ∧
       t.ptu.lineCleared = s.now ∧
       t.ae.epochAt = none ∧
       t.ae.seq = 0 ∧
       t.ae.result = none ∧
       t.ae.sticky = CompFlags.clear ∧
       t.hc = Holdings.reset s.own ∧
       t.lc.queue = [] ∧
       t.lc.waiting = [] ∧
       t.lc.tx = .off ∧
       t.lc.txErrors = 0 ∧
       t.lc.rxErrors = 0 ∧
       t.lc.muteHold = 1000 ∧
       t.ci.lostQuiesce = .running (s.now + s.conf.tQ) ∧
       t.ci.discarded = 0 ∧
       t.ci.pSet = 0 ∧
       t.bk.startAt = s.now) ∧
  (∀ (s : State),
     s.mc.mode = .configured →
     s.io.trip = true →
     ∃ t, exec (.start (.whole [])) s = .next t ∧
       t.mc.mode = .tripped ∧
       t.ci.causeTripped = true ∧
       t.ci.pSet = 0 ∧
       (t.lc.attempt = s.lc.attempt.map fun a => match a with
        | .frame id us _ => .frame id us true
        | .probe join us _ => .probe join us true
        | .brk us => .brk us))

/-- BOOK, UNBOOK and CLEAR FLAGS change their own record and nothing else. From CONFIGURED on: CLEAR FLAGS clears the
five sticky flags; UNBOOK below 12 makes that booking IDLE; a BOOK whose number is below 12, whose kind and parameter
Table 64 allows and whose action, repeat and urgency are known replaces the booking under its number by an ARMED one
with its condition mark set from the condition as it stands, and its detail is the state the number held before. Each
answers ACCEPTED and nothing else differs. Unknown codes, numbers above 11 and parameters outside Table 64 are refused
RANGE without effect. The empty payload (log 43), the detail codes of the booking states (log 14) and the mark of a
DEADLINE_RISK booking (log 28) are the model's choice. (R80, R166, R167) -/
def Obligations.BookUnbookAndClearFlagsChangeTheirRecord : Prop :=
  (∀ (s : State),
     s.mc.mode ≠ .unconfigured →
     ∃ t, exec (.clearFlags (.whole [])) s = .next t ∧
       t = { s with cpi := t.cpi, ae := { s.ae with sticky := CompFlags.clear } } ∧
       t.answered s .accepted none []) ∧
  (∀ (n : Byte) (s : State),
     s.mc.mode ≠ .unconfigured →
     n.toNat < 12 →
     ∃ t, exec (.unbook (.whole [n])) s = .next t ∧
       t = { s with cpi := t.cpi, bk := { s.bk with table := s.bk.table.set n.toNat none } } ∧
       t.answered s .accepted none []) ∧
  (∀ (n : Byte) (s : State),
     s.mc.mode ≠ .unconfigured →
     12 ≤ n.toNat →
     ∃ t, exec (.unbook (.whole [n])) s = .next t ∧
       t = { s with cpi := t.cpi } ∧
       t.answered s .refused (some .range) []) ∧
  (∀ (n kind hi lo act rep urg x y z : Byte) (trig : Trigger) (a : Action) (s : State),
     s.mc.mode ≠ .unconfigured →
     n.toNat < 12 →
     readTrigger s.conf.nSt s.own kind.toNat (hi.toNat * 256 + lo.toNat) = some trig →
     actionOf act.toNat = some a →
     rep.toNat ≤ 1 →
     urg.toNat ≤ 1 →
     ∃ t, exec (.book (.whole [n, kind, hi, lo, act, rep, urg, x, y, z])) s = .next t ∧
       t = { s with cpi := t.cpi, bk := { s.bk with table := s.bk.table.set n.toNat (some
          { state := .armed, trigger := trig, action := a, repeats := rep.toNat == 1, urgent := urg.toNat == 0,
              tags := [x, y, z]
            mark := s.holds trig }) } } ∧
       t.answered s .accepted none [] ∧
       t.detail = some (byteOf (bookStateCode (s.bk.table.getD n.toNat none)))) ∧
  (∀ (p : List Byte) (s : State),
     s.mc.mode ≠ .unconfigured →
     p.length = 10 →
     (12 ≤ at1 p 0 ∨ 7 < at1 p 1 ∨ 3 < at1 p 4 ∨ 1 < at1 p 5 ∨ 1 < at1 p 6) →
     ∃ t, exec (.book (.whole p)) s = .next t ∧
       t = { s with cpi := t.cpi } ∧
       t.answered s .refused (some .range) []) ∧
  (∀ (p : List Byte) (s : State),
     s.mc.mode ≠ .unconfigured →
     p.length = 10 →
     ((at1 p 1 = 0 ∧ at2 p 2 ≠ 0xFFFF ∧ (s.conf.nSt ≤ at2 p 2 ∨ at2 p 2 = s.own)) ∨ (at1 p 1 = 1 ∧ (at2 p 2 = 0 ∨
         128 < at2 p 2)) ∨
      (at1 p 1 = 3 ∧ (at2 p 2 = 0 ∨ 8 < at2 p 2)) ∨ (at1 p 1 = 4 ∧ at2 p 2 = 0) ∨ (at1 p 1 = 7 ∧ (at2 p 2 < 4 ∨
          6 < at2 p 2))) →
     ∃ t, exec (.book (.whole p)) s = .next t ∧
       t = { s with cpi := t.cpi } ∧
       t.answered s .refused (some .range) [])

/-- FETCH NOTICE removes the oldest notice and returns it. In every mode FETCH NOTICE answers ACCEPTED. With an empty
queue the payload is empty and nothing else differs. With an oldest notice the payload is its 13 bytes and it leaves
the queue; where the level stays above 8 or no booking is PENDING nothing else differs; where the level is then 8 or
fewer and a booking is PENDING, the withheld notice of the lowest-numbered one follows the rest. (R170, R171, R174,
R186) -/
def Obligations.FetchNoticeTakesTheOldestNotice : Prop :=
  (∀ (s : State),
     s.bk.notices = [] →
     ∃ t, exec (.fetchNotice (.whole [])) s = .next t ∧
       t = { s with cpi := t.cpi } ∧
       t.answered s .accepted none []) ∧
  (∀ (n : Notice) (rest : List Notice) (s : State),
     s.bk.notices = n :: rest →
     ∃ t, exec (.fetchNotice (.whole [])) s = .next t ∧
       t = { s with cpi := t.cpi, bk := { s.bk with notices := t.bk.notices, table := t.bk.table } } ∧
       (t.answered s .accepted none ([byteOf n.booking, byteOf n.code] ++ be2 n.value ++ n.tags ++ [if n.urgent then
           0 else 1] ++
        be4 n.time ++ [flagByte n.overrun])) ∧
       (8 < rest.length ∨ s.bk.pendingCount = 0 → t.bk = { s.bk with notices := rest }) ∧
       (rest.length ≤ 8 → ∀ x ∈ pendingBooking s.bk.table,
        t.bk.notices[rest.length]? = some
          { booking := x.1, code := triggerCode x.2.1.trigger, value := x.2.2.1, tags := x.2.1.tags,
              urgent := x.2.1.urgent
            time := x.2.2.2, overrun := false }))

/-- CLEAR ACTION clears the action marks named. From CONFIGURED on, in a calm state, with a value of 1 to 3 CLEAR
ACTION answers ACCEPTED and clears SHED for bit 0 and FREEZE for bit 1; clearing SHED derives the bid again, and the
bid is otherwise unchanged. Nothing else differs but what a claim, a request (log 78) and the setpoint at the end of a
step may add. A value of 0 or above 3 is refused RANGE without effect. The empty payload (log 43), and that the bid is
derived for bit 0 whether or not the SHED mark was set (log 53), are the model's choice. (R60, R91, R169, R186) -/
def Obligations.ClearActionEndsTheMarksNamed : Prop :=
  (∀ (v : Byte) (s : State),
     s.mc.mode ≠ .unconfigured →
     1 ≤ v.toNat →
     v.toNat ≤ 3 →
     s.calm →
     ∃ t, exec (.clearAction (.whole [v])) s = .next t ∧
       (State.endOf { s with
          cpi := t.cpi, ss := { s.ss with bid := t.ss.bid }
          bk := { s.bk with shed := s.bk.shed && !v.getLsbD 0, freeze := s.bk.freeze && !v.getLsbD 1 } } t) ∧
       t.answered s .accepted none [] ∧
       (t.ss.bid = if v.getLsbD 0 then t.deriveBid else s.ss.bid)) ∧
  (∀ (v : Byte) (s : State),
     s.mc.mode ≠ .unconfigured →
     (v.toNat = 0 ∨ 3 < v.toNat) →
     ∃ t, exec (.clearAction (.whole [v])) s = .next t ∧
       t = { s with cpi := t.cpi } ∧
       t.answered s .refused (some .range) [])

/-- Fetches, readiness, unknown commands and transactions that are neither. RESPONSE_READY makes the pending response
ready at its time. FETCH_RESPONSE clocks out 0 for an empty slot, 1 for a response not ready, leaving the slot as it
is, and for a ready one 2, the class, the refusal code, the detail, the payload length and the payload, emptying the
slot, with zeros beyond. A command code that names no command is refused FORMAT. Bytes that open neither a command nor
a fetch, or end before a command's code and length, change nothing. Nothing else differs. The time at which the
response becomes ready (log 2), the bytes put on SDO (log 31) and the empty payload of a refusal (log 43) are the
model's choice. (R175, R176, R186) -/
def Obligations.TransactionsMoveTheResponseSlot : Prop :=
  (∀ (x : Slot) (s : State),
     s.cpi.slot = some x →
     x.ready = false →
     ∃ t, exec .responseReady s = .next t ∧
       t = { s.atTime x.readyAt with cpi := { s.cpi with slot := some { x with ready := true } } }) ∧
  (∀ (n : Nat) (s : State),
     s.cpi.slot = none →
     ∃ t, exec (.fetchResponse n) s = .next t ∧
       t = { s with io := { s.io with sdo := ([(0 : Byte)] ++ List.replicate n 0).take n } }) ∧
  (∀ (n : Nat) (x : Slot) (s : State),
     s.cpi.slot = some x →
     x.ready = false →
     ∃ t, exec (.fetchResponse n) s = .next t ∧
       t = { s with io := { s.io with sdo := ([(1 : Byte)] ++ List.replicate n 0).take n } }) ∧
  (∀ (n : Nat) (x : Slot) (s : State),
     s.cpi.slot = some x →
     x.ready = true →
     ∃ t, exec (.fetchResponse n) s = .next t ∧
       t = { s with
          io := { s.io with sdo := ([2, byteOf (classCode x.response.cls),
              byteOf ((x.response.refusal.map refCode).getD 0), x.response.detail
              , byteOf x.response.payload.length] ++ x.response.payload ++ List.replicate n 0).take n }
          cpi := { s.cpi with slot := none } }) ∧
  (∀ (code : Byte) (p : Payload) (s : State),
     code.toNat ∉ commandCodes →
     (∀ bytes, p = .whole bytes → bytes.length ≤ 255) →
     (∀ announced bytes, p = .cut announced bytes → bytes.length < announced.toNat) →
     ∃ t, exec (.unknownCommand code p) s = .next t ∧
       t = { s with cpi := t.cpi } ∧
       t.answered s .refused (some .format) []) ∧
  (∀ (bytes : List Byte) (s : State),
     (bytes = [] ∨ (bytes.head? ≠ some 1 ∧ bytes.head? ≠ some 2) ∨ (bytes.head? = some 1 ∧ bytes.length < 3)) →
     ∃ t, exec (.invalidTransaction bytes) s = .next t ∧
       t = s)

/-- ADMIT creates the record of R110 and enters its entry state. From LISTENING on, with no session, a payload of 11 +
10k bytes with 1 to 8 steps whose plan is not malformed and an E_req above 0, ADMIT answers ACCEPTED, or CLAMPED where
a value was clamped, with the session state as detail (log 21). The record carries the tag, E_req, P_acc clamped to
P_max, the deadline clamped to 65535 s, the critical flag and the plan; energies are 0, E_rem is E_req, the clock
starts. With no restart under way and bookings that only notify: a first step HALT gives COMPLETE; else TRIPPED gives
SUSPENDED TRIP; else OFFLINE or the isolate request SUSPENDED OFFLINE; else FAULT or LOST SUSPENDED CONVERTER; else a
first step that does not end at entry is entered, CHARGING. In a calm state nothing but the session, the bookings and
the end of the step differs. With a session present ADMIT is refused BUSY; then with a length that disagrees with the
step count FORMAT; then with a malformed plan (no step, an unknown kind, a HOLD without duration, a charging step
without end condition) MALFORMED_PLAN; then with an E_req of 0 RANGE; each without effect. The empty payload is the
model's choice (log 43). (R106, R108, R109, R110, R111, R112) -/
def Obligations.AdmitCreatesTheSessionRecord : Prop :=
  (∀ (p : List Byte) (k : Nat) (s : State),
     s.started = true →
     s.ss.session = none →
     p.length = 11 + 10 * k →
     k = at1 p 10 →
     1 ≤ k →
     k ≤ 8 →
     planMalformed p = false →
     0 < at2 p 2 →
     ∃ t, exec (.admitSession (.whole p)) s = .next t ∧
       (t.answered s (if admitClamps s.conf.pMax p then .clamped else .accepted) none []) ∧
       t.detail = some (byteOf (sessCode t.sessState)) ∧
       (t.ss.session.map (fun y => (y.tag, y.eReq, y.pAcc, y.deadline)) =
        some (at2 p 0, at2 p 2, min s.conf.pMax (at2 p 4), min 65535 (at3 p 6))) ∧
       (t.ss.session.map (fun y => (y.eRem, y.delivered, y.joules, y.admittedAt)) = some (at2 p 2, 0, 0, s.now)) ∧
       (t.ss.session.map (fun y => (y.critical, y.runOut)) = some (flagOf (p.getD 9 0), false)) ∧
       t.ss.session.map Session.plan = some (readPlan s.conf.pMax p) ∧
       (s.mc.restarting = false → s.bookingsNotify →
        (stepKindOf (at1 p 11) = some .halt → t.ss.session.map Session.phase = some .complete) ∧
        (stepKindOf (at1 p 11) ≠ some .halt →
          (s.mc.mode = .tripped → t.ss.session.map Session.phase = some (.suspended .trip)) ∧
          (s.mc.mode ≠ .tripped → s.mc.mode = .offline ∨ s.mc.isolateReq = true →
            t.ss.session.map Session.phase = some (.suspended .offline)) ∧
          (s.mc.mode ≠ .tripped → s.mc.mode ≠ .offline → s.mc.isolateReq = false → s.ci.conv = .fault ∨
              s.ci.conv = .lost →
            t.ss.session.map Session.phase = some (.suspended .converter)) ∧
          (s.mc.mode ≠ .tripped → s.mc.mode ≠ .offline → s.mc.isolateReq = false → s.ci.conv ≠ .fault →
              s.ci.conv ≠ .lost →
            min s.conf.pMax (at2 p 18) ≤ min s.conf.pMax (at2 p 4) →
            t.ss.session.map (fun y => (y.phase, y.entered, y.stepIndex, y.stepTime)) = some (.charging, true, 1,
                0)))) ∧
       (s.calm → State.endOf { s with ss := t.ss, bk := t.bk, cpi := t.cpi } t)) ∧
  (∀ (p : List Byte) (s : State),
     11 ≤ p.length →
     p.length ≤ 91 →
     s.started = true →
     s.ss.session.isSome = true →
     ∃ t, exec (.admitSession (.whole p)) s = .next t ∧
       t = { s with cpi := t.cpi } ∧
       t.answered s .refused (some .busy) []) ∧
  (∀ (p : List Byte) (s : State),
     11 ≤ p.length →
     p.length ≤ 91 →
     s.started = true →
     s.ss.session = none →
     p.length ≠ 11 + 10 * at1 p 10 →
     ∃ t, exec (.admitSession (.whole p)) s = .next t ∧
       t = { s with cpi := t.cpi } ∧
       t.answered s .refused (some .format) []) ∧
  (∀ (p : List Byte) (k : Nat) (s : State),
     s.started = true →
     s.ss.session = none →
     p.length = 11 + 10 * k →
     k = at1 p 10 →
     k ≤ 8 →
     (k = 0 ∨ (∃ i < k, 4 < at1 p (11 + 10 * i) ∨ (at1 p (11 + 10 * i) = 3 ∧ at2 p (16 + 10 * i) = 0) ∨
        (at1 p (11 + 10 * i) ≤ 2 ∧ at2 p (14 + 10 * i) = 0 ∧ at2 p (16 + 10 * i) = 0 ∧ at2 p (18 + 10 * i) = 0 ∧
          (p.getD (20 + 10 * i) 0 = 0 ∨ (at1 p 6 = 0 ∧ at1 p 7 = 0 ∧ at1 p 8 = 0))))) →
     ∃ t, exec (.admitSession (.whole p)) s = .next t ∧
       t = { s with cpi := t.cpi } ∧
       t.answered s .refused (some .malformedPlan) []) ∧
  (∀ (p : List Byte) (k : Nat) (s : State),
     s.started = true →
     s.ss.session = none →
     p.length = 11 + 10 * k →
     k = at1 p 10 →
     planMalformed p = false →
     at2 p 2 = 0 →
     ∃ t, exec (.admitSession (.whole p)) s = .next t ∧
       t = { s with cpi := t.cpi } ∧
       t.answered s .refused (some .range) [])

/-- VEHICLE UPDATE replaces P_acc and E_req and forms E_rem again. In CHARGING and SUSPENDED, with five bytes whose
presence byte marks P_acc or E_req (other bits ignored, log 39) and an E_req above 0 where it is marked, VEHICLE
UPDATE answers ACCEPTED, or CLAMPED where P_acc exceeded P_max; P_acc and E_req are replaced where marked, E_rem is
E_req less the delivered energy, tag, deadline, plan, delivered energy and accumulator are unchanged; in CHARGING an
E_rem of 0 makes the session COMPLETE where bookings only notify. In a calm state nothing but the session, the
bookings and the end of the step differs. An update that marks neither field is refused FORMAT, and one with an E_req
of 0 RANGE, without effect. In EMPTY, COMPLETE and ENDING an update is refused STATE, without effect. The empty
payload is the model's choice (log 43). (R60, R113, R116, R119, R186) -/
def Obligations.VehicleUpdateReplacesItsFields : Prop :=
  (∀ (m a1 a0 e1 e0 : Byte) (x : Session) (s : State),
     s.started = true →
     s.inUse = true →
     s.ss.session = some x →
     (m.getLsbD 0 = true ∨ m.getLsbD 1 = true) →
     (m.getLsbD 1 = true → 0 < e1.toNat * 256 + e0.toNat) →
     s.calm →
     ∃ t, exec (.vehicleUpdate (.whole [m, a1, a0, e1, e0])) s = .next t ∧
       (t.answered s (if m.getLsbD 0 ∧ s.conf.pMax < a1.toNat * 256 + a0.toNat then .clamped else .accepted) none []) ∧
       (t.ss.session.map (fun y => (y.pAcc, y.eReq)) =
        some (if m.getLsbD 0 then min s.conf.pMax (a1.toNat * 256 + a0.toNat) else x.pAcc
        , if m.getLsbD 1 then e1.toNat * 256 + e0.toNat else x.eReq)) ∧
       (t.ss.session.map (fun y => y.eRem) = some ((if m.getLsbD 1 then
           e1.toNat * 256 + e0.toNat else x.eReq) - x.delivered)) ∧
       (t.ss.session.map (fun y => (y.tag, y.deadline, y.plan, y.delivered, y.joules)) =
        some (x.tag, x.deadline, x.plan, x.delivered, x.joules)) ∧
       (x.phase = .charging → s.bookingsNotify → t.ss.session.map Session.eRem = some 0 →
        t.ss.session.map Session.phase = some .complete) ∧
       t.ss.bid = t.deriveBid ∧
       State.endOf { s with ss := t.ss, bk := t.bk, cpi := t.cpi } t) ∧
  (∀ (m a1 a0 e1 e0 : Byte) (s : State),
     s.started = true →
     s.inUse = true →
     m.getLsbD 0 = false →
     m.getLsbD 1 = false →
     ∃ t, exec (.vehicleUpdate (.whole [m, a1, a0, e1, e0])) s = .next t ∧
       t = { s with cpi := t.cpi } ∧
       t.answered s .refused (some .format) []) ∧
  (∀ (m a1 a0 : Byte) (s : State),
     s.started = true →
     s.inUse = true →
     m.getLsbD 1 = true →
     ∃ t, exec (.vehicleUpdate (.whole [m, a1, a0, 0, 0])) s = .next t ∧
       t = { s with cpi := t.cpi } ∧
       t.answered s .refused (some .range) []) ∧
  (∀ (m a1 a0 e1 e0 : Byte) (s : State),
     s.started = true →
     (s.sessState = .empty ∨ s.sessState = .complete ∨ s.sessState = .ending) →
     ∃ t, exec (.vehicleUpdate (.whole [m, a1, a0, e1, e0])) s = .next t ∧
       t = { s with cpi := t.cpi } ∧
       t.answered s .refused (some .state) [])

/-- UNDOCK and ABORT SESSION end the session and give up every quantum. In a calm state with a session, the Pending
quanta being those of the claim in settle, UNDOCK and ABORT SESSION answer ACCEPTED: every Mine quantum becomes
Draining with reason Shutdown, every Pending one Free or Withdrawn, every other entry is unchanged; the setpoint is 0;
the sweep ends; the session is ENDING with the reason and the state left, or, where nothing is held and no own CLAIM
awaits its echo, EMPTY. In ENDING the commands change nothing but the response. Nothing of the link's counts, the
mode, the offers, the peer table and the result differs. The empty payload is the model's choice (log 43). (R22, R28,
R125, R126, R129) -/
def Obligations.UndockAndAbortDrainEveryHolding : Prop :=
  (∀ (c : Instr) (x : Session) (s : State),
     (c = .undock (.whole []) ∨ c = .abortSession (.whole [])) →
     s.started = true →
     s.ss.session = some x →
     s.calm →
     s.pendingSettles →
     ∃ t, exec c s = .next t ∧
       t.answered s .accepted none [] ∧
       (∀ q, q < 128 → t.entry q = s.drainedFor .shutdown q) ∧
       t.ci.pSet = 0 ∧
       t.ci.sendValue = 0 ∧
       t.hc.sweep = none ∧
       (t.ss.session = if t.holdsNothing ∧ t.noClaimAwaiting then none
        else some { x with
          phase := .ending (if c = .undock (.whole []) then .undocked else .aborted) x.phase.report }) ∧
       t.ss.bid = Bid.null ∧
       t = { s with map := t.map, lc := t.lc, hc := t.hc, ci := t.ci, ss := t.ss, bk := t.bk, cpi := t.cpi } ∧
       t.lc = { s.lc with queue := t.lc.queue, waiting := t.lc.waiting, nextId := t.lc.nextId } ∧
       t.setpointFormed) ∧
  (∀ (c : Instr) (s : State),
     (c = .undock (.whole []) ∨ c = .abortSession (.whole [])) →
     s.started = true →
     s.sessionEnding = true →
     ∃ t, exec c s = .next t ∧
       t = { s with cpi := t.cpi } ∧
       t.answered s .accepted none []) ∧
  (∀ (c : Instr) (s : State),
     (c = .undock (.whole []) ∨ c = .abortSession (.whole [])) →
     s.started = true →
     s.ss.session = none →
     ∃ t, exec c s = .next t ∧
       t = { s with cpi := t.cpi } ∧
       t.answered s .refused (some .state) [])

/-- SUSPEND makes a session SUSPENDED with reason COMMAND. In a calm state with a session in CHARGING or SUSPENDED,
SUSPEND answers ACCEPTED; the session is SUSPENDED with reason COMMAND and otherwise unchanged, the bid is the null
bid, P_set is 0, and nothing else differs but what the end of a step may add. In EMPTY, COMPLETE and ENDING it is
refused STATE without effect. The empty payload is the model's choice (log 43). (R60, R107, R120, R122, R129) -/
def Obligations.SuspendStopsTheSession : Prop :=
  (∀ (x : Session) (s : State),
     s.started = true →
     s.ss.session = some x →
     s.inUse = true →
     s.calm →
     ∃ t, exec (.suspend (.whole [])) s = .next t ∧
       t.answered s .accepted none [] ∧
       (State.endOf { s with
          cpi := t.cpi
          ss := { s.ss with session := some { x with phase := .suspended .command }, bid := Bid.null } } t) ∧
       t.ci.pSet = 0) ∧
  (∀ (s : State),
     s.started = true →
     s.inUse = false →
     ∃ t, exec (.suspend (.whole [])) s = .next t ∧
       t = { s with cpi := t.cpi } ∧
       t.answered s .refused (some .state) [])

/-- RESUME makes a SUSPENDED session CHARGING again. In a calm state with a SUSPENDED session, the converter neither
FAULT nor LOST, and the mode neither TRIPPED nor OFFLINE, RESUME answers ACCEPTED. Where the current step has been
entered and none of its acceptance and deadline conditions holds, and E_rem is above 0, the session is CHARGING and
otherwise unchanged; where the step has not been entered, is not HALT, and the same holds, it is entered with step
time and step energy 0. Where E_rem is 0 and bookings only notify, the session is COMPLETE. The bid is derived again.
With a standing cause it is refused CAUSE_PERSISTS, and in any other session state STATE, without effect. Where the
step entered or resumed ends at once by its acceptance or deadline condition, with bookings that only notify, the
steps completed rise, and the session is COMPLETE or at a later step. The empty payload is the model's choice (log
43). (R60, R112, R113, R114, R116, R123) -/
def Obligations.ResumeReturnsTheSessionToCharging : Prop :=
  (∀ (x : Session) (st : PlanStep) (s : State),
     s.started = true →
     s.ss.session = some x →
     s.sessState = .suspended →
     s.ci.conv ≠ .fault →
     s.ci.conv ≠ .lost →
     s.mc.mode ≠ .tripped →
     s.mc.mode ≠ .offline →
     s.calm →
     x.step = some st →
     (st.endAcceptance = 0 ∨ st.endAcceptance ≤ x.pAcc) →
     (st.endAtDeadline = false ∨ x.runOut = false) →
     (st.kind ≠ .halt ∨ x.entered = true) →
     0 < x.eRem →
     ∃ t, exec (.resume (.whole [])) s = .next t ∧
       t.answered s .accepted none [] ∧
       (State.endOf { s with
          cpi := t.cpi
          ss := { s.ss with
            session := some (if x.entered then { x with phase := .charging } else { x with
              phase := .charging, entered := true, stepMark := x.joules, stepEnergy := 0, stepTime := 0 })
            bid := t.ss.bid } } t) ∧
       t.ss.bid = t.deriveBid) ∧
  (∀ (x : Session) (s : State),
     s.started = true →
     s.ss.session = some x →
     s.sessState = .suspended →
     s.ci.conv ≠ .fault →
     s.ci.conv ≠ .lost →
     s.mc.mode ≠ .tripped →
     s.mc.mode ≠ .offline →
     s.calm →
     s.bookingsNotify →
     x.eRem = 0 →
     ∃ t, exec (.resume (.whole [])) s = .next t ∧
       t.answered s .accepted none [] ∧
       t.ss.session.map Session.phase = some .complete ∧
       t.ss.bid = Bid.null ∧
       State.endOf { s with cpi := t.cpi, ss := t.ss, bk := t.bk } t) ∧
  (∀ (s : State),
     s.started = true →
     s.sessState = .suspended →
     (s.ci.conv = .fault ∨ s.ci.conv = .lost ∨ s.mc.mode = .tripped ∨ s.mc.mode = .offline ∨ s.mc.isolateReq = true) →
     ∃ t, exec (.resume (.whole [])) s = .next t ∧
       t = { s with cpi := t.cpi } ∧
       t.answered s .refused (some .causePersists) []) ∧
  (∀ (s : State),
     s.started = true →
     s.sessState ≠ .suspended →
     ∃ t, exec (.resume (.whole [])) s = .next t ∧
       t = { s with cpi := t.cpi } ∧
       t.answered s .refused (some .state) []) ∧
  (∀ (x : Session) (st : PlanStep) (s : State),
     s.started = true →
     s.ss.session = some x →
     s.sessState = .suspended →
     s.ci.conv ≠ .fault →
     s.ci.conv ≠ .lost →
     s.mc.mode ≠ .tripped →
     s.mc.mode ≠ .offline →
     s.calm →
     s.bookingsNotify →
     x.step = some st →
     st.kind ≠ .halt →
     ((0 < st.endAcceptance ∧ x.pAcc < st.endAcceptance) ∨ (st.endAtDeadline = true ∧ x.runOut = true)) →
     ∃ t, exec (.resume (.whole [])) s = .next t ∧
       t.answered s .accepted none [] ∧
       (t.ss.session.all (fun y => decide (x.stepsDone < y.stepsDone ∧ (y.phase = .complete ∨
           x.stepIndex < y.stepIndex))) = true) ∧
       (t.ss.session.map (fun y => (y.tag, y.eReq, y.pAcc, y.deadline, y.delivered)) =
        some (x.tag, x.eReq, x.pAcc, x.deadline, x.delivered)) ∧
       State.endOf { s with cpi := t.cpi, ss := t.ss, bk := t.bk } t)

/-- BUDGET OFFER queues a BUDGET frame with the next own sequence. In ACTIVE, ISOLATED and MUTED, in a calm state with
distinct age stamps, with a hold time of 1 to 60 s BUDGET OFFER answers ACCEPTED, or CLAMPED for a value above B_cfg;
the own sequence rises by 1 modulo 256 and is the detail; a BUDGET frame with the own number, the clamped value, the
sequence and the hold time is queued. Neither the offers nor B_eff change. A hold time outside 1 to 60 is refused
RANGE without effect. The empty payload is the model's choice (log 43). (R12, R13, R103, R104) -/
def Obligations.BudgetOfferQueuesItsFrame : Prop :=
  (∀ (v h : Byte) (s : State),
     s.working = true →
     1 ≤ h.toNat →
     h.toNat ≤ 60 →
     s.calm →
     s.stamped →
     ∃ t, exec (.budgetOffer (.whole [v, h])) s = .next t ∧
       (t.answered s (if s.conf.bCfg < v.toNat then .clamped else .accepted) none []) ∧
       t.detail = some (byteOf ((s.bu.ownSeq + 1) % 256)) ∧
       State.endOf { s with cpi := t.cpi, bu := { s.bu with ownSeq := (s.bu.ownSeq + 1) % 256 } } t ∧
       (t.queues (fun f => f == .budget s.own (min s.conf.bCfg v.toNat) ((s.bu.ownSeq + 1) % 256) h.toNat))) ∧
  (∀ (v h : Byte) (s : State),
     s.working = true →
     (h.toNat = 0 ∨ 60 < h.toNat) →
     ∃ t, exec (.budgetOffer (.whole [v, h])) s = .next t ∧
       t = { s with cpi := t.cpi } ∧
       t.answered s .refused (some .range) [])

/-- ISOLATE and the OFFLINE input set the isolate request and begin the isolate drain. In ACTIVE, ISOLATED and MUTED
with the request clear and no restart, the Pending quanta being those of the claim in settle, both set the isolate
request: Mine becomes Draining with reason Shutdown, Pending Free or Withdrawn, every other entry is unchanged; P_set
is 0; a CHARGING session, with bookings that only notify, is SUSPENDED with reason OFFLINE. Where the station holds
nothing and has no claim, a LEAVE is queued with the transmitter on and room in the queue, and OFFLINE is entered at
once with the transmitter not on. In LISTENING and TRIPPED ISOLATE sets the request, and a CHARGING session is
SUSPENDED (log 37). In OFFLINE, or with the request set, nothing but the response differs; outside ACTIVE, ISOLATED
and MUTED the OFFLINE input changes only its level. The empty payload is the model's choice (log 43), and so is that
the frame on the line stays at the entry to OFFLINE (log 26). (R22, R28, R120, R129, R161) -/
def Obligations.IsolateBeginsTheIsolateDrain : Prop :=
  (∀ (c : Instr) (s : State),
     (c = .isolate (.whole []) ∨ c = .offlineAsserted) →
     s.working = true →
     s.mc.isolateReq = false →
     s.mc.restarting = false →
     s.mc.leaving = false →
     s.sessionEnding = false →
     (¬(s.ci.conv = .lost ∧ s.ci.lostQuiesce = .expired)) →
     s.pendingSettles →
     ∃ t, exec c s = .next t ∧
       (c = .isolate (.whole []) → t.answered s .accepted none []) ∧
       (c = .offlineAsserted → t.cpi = s.cpi ∧ t.io.offline = true) ∧
       t.mc.isolateReq = true ∧
       (∀ q, q < 128 → t.entry q = s.drainedFor .shutdown q) ∧
       t.ci.pSet = 0 ∧
       t.ci.sendValue = 0 ∧
       (s.charging = true → s.bookingsNotify → t.ss.session.map Session.phase = some (.suspended .offline)) ∧
       (s.holdsNothing = true → s.hc.claim = none → s.lc.tx = .on → s.lc.queue.length < 8 → s.lc.waiting = [] →
        t.queues (fun f => f == .leave) ∧ t.mc.mode = s.mc.mode) ∧
       (s.holdsNothing = true → s.hc.claim = none → s.lc.tx ≠ .on → t.mc.mode = .offline) ∧
       t = { s with
           map := t.map, mc := t.mc, lc := t.lc, hc := t.hc, ci := t.ci, ss := t.ss, bk := t.bk, cpi := t.cpi,
           io := t.io } ∧
       t.setpointFormed) ∧
  (∀ (s : State),
     (s.mc.mode = .listening ∨ s.mc.mode = .tripped) →
     s.calm →
     ∃ t, exec (.isolate (.whole [])) s = .next t ∧
       t.answered s .accepted none [] ∧
       State.endOf { s with cpi := t.cpi, mc := { s.mc with isolateReq := true }, ss := t.ss } t ∧
       (t.ss.session.map Session.phase = s.ss.session.map fun x => if x.phase = .charging then
           .suspended .offline else x.phase)) ∧
  (∀ (s : State),
     s.started = true →
     (s.mc.mode = .offline ∨ s.mc.isolateReq = true) →
     ∃ t, exec (.isolate (.whole [])) s = .next t ∧
       t = { s with cpi := t.cpi } ∧
       t.answered s .accepted none []) ∧
  (∀ (s : State),
     (s.working = false ∨ s.mc.isolateReq = true) →
     ∃ t, exec .offlineAsserted s = .next t ∧
       t = { s with io := { s.io with offline := true } })

/-- REJOIN in OFFLINE clears the isolate request, queues a JOIN and enters ACTIVE. With the OFFLINE input deasserted and
no DUPLICATE: in OFFLINE, with no restart, no ENDING session, no expired LOST quiesce, no Pending quantum, and no
sweep standing where R84 permits none, REJOIN answers ACCEPTED, clears the isolate request, queues, with room in the
queue, a JOIN with the own fingerprint, N_st and H, and the mode is ACTIVE with the transmitter on, or ISOLATED where
the solo flag is clear and the line has been silent for L_sil x T_ep; the offers, the peer table and the Allocation
Engine are unchanged. In LISTENING and TRIPPED it only clears the request. Under DUPLICATE it is refused DUPLICATE,
and otherwise with OFFLINE asserted CAUSE_PERSISTS, with only the sampled level differing besides the response. The
empty payload (log 43) and the recorded level (log 5) are the model's choice. (R124, R140, R156, R157, R162, R68) -/
def Obligations.RejoinEntersActive : Prop :=
  (∀ (s : State),
     s.mc.mode = .offline →
     s.mc.duplicate = false →
     s.mc.restarting = false →
     s.sessionEnding = false →
     (¬(s.ci.conv = .lost ∧ s.ci.lostQuiesce = .expired)) →
     s.pendingCount = 0 →
     s.sweepPermitted →
     ∃ t, exec (.rejoin (.whole []) false) s = .next t ∧
       t.answered s .accepted none [] ∧
       t.mc.isolateReq = false ∧
       t.io = { s.io with offline := false } ∧
       (t.mc.mode = if s.mc.solo = false ∧ s.conf.lSil * s.conf.tEp ≤ s.sinceLineHeard then .isolated else .active) ∧
       t.lc.tx = .on ∧
       (s.lc.queue.length < 8 → t.queues (fun f => f == .join (s.cpi.fingerprint.getD 0) s.conf.nSt s.conf.h)) ∧
       t.mc.echoSince = some s.now ∧
       t = { s with
           map := t.map, mc := t.mc, lc := t.lc, hc := t.hc, ci := t.ci, ss := t.ss, bk := t.bk, cpi := t.cpi,
           io := t.io } ∧
       (t.mc.mode = .active → t.map = s.map) ∧
       t.setpointFormed) ∧
  (∀ (s : State),
     (s.mc.mode = .listening ∨ s.mc.mode = .tripped) →
     s.mc.duplicate = false →
     ∃ t, exec (.rejoin (.whole []) false) s = .next t ∧
       t.answered s .accepted none [] ∧
       t = { s with cpi := t.cpi, io := { s.io with offline := false }, mc := { s.mc with isolateReq := false } }) ∧
  (∀ (level : Bool) (s : State),
     (s.mc.mode = .listening ∨ s.mc.mode = .offline ∨ s.mc.mode = .tripped) →
     (s.mc.duplicate = true ∨ level = true) →
     ∃ t, exec (.rejoin (.whole []) level) s = .next t ∧
       (t.answered s .refused (some (if s.mc.duplicate then .duplicate else .causePersists)) []) ∧
       t = { s with cpi := t.cpi, io := { s.io with offline := level } })

/-- RESTART gives up the holdings and puts the blocks into their RESTART values. In LISTENING (TRIP deasserted) and
TRIPPED with no restart under way RESTART answers ACCEPTED and reaches its clearing point in the same step: map Free
below B_cfg and Withdrawn from it on, no offer, B_eff B_cfg, own sequence kept, a fresh peer table, no sticky flag,
the Holdings Controller empty but for the rotate pointer, error counts 0 and mute hold 1000 ms, fault cause NONE,
isolate request kept; from LISTENING it enters LISTENING afresh with an empty record, in TRIPPED it stays TRIPPED with
the record kept. In ACTIVE, ISOLATED, MUTED and OFFLINE, the Pending quanta being those of the claim in settle: a
restart is in progress, Mine becomes Draining with reason Shutdown, Pending Free or Withdrawn, and a CHARGING session
is SUSPENDED with reason OFFLINE (log 37). So it is with a Mine or a Draining quantum. With neither, and no own CLAIM
awaiting its echo, the drain is done at once: with the transmitter on and two places in the queue a LEAVE is queued,
which the clearing point awaits, and with the transmitter in probe or off (TRIP deasserted) the clearing point comes
in the same step, in LISTENING with the blocks cleared as above. A frame on the line stays (log 26, the model's
choice). (R4, R7, R17, R42, R80, R83, R120, R153, R155, R181, R182) -/
def Obligations.RestartReachesItsClearingPoint : Prop :=
  (∀ (s : State),
     (s.mc.mode = .listening ∧ s.io.trip = false ∨ s.mc.mode = .tripped) →
     s.mc.restarting = false →
     ∃ t, exec (.restart (.whole [])) s = .next t ∧
       t.answered s .accepted none [] ∧
       t.mc.mode = s.mc.mode ∧
       t.mc.restarting = false ∧
       t.mc.duplicate = false ∧
       t.mc.isolateReq = s.mc.isolateReq ∧
       (∀ q, q < 128 → t.entry q = if q < s.conf.bCfg then .free else .withdrawn) ∧
       t.bu = { offers := [], seen := false, bEff := s.conf.bCfg, ownSeq := s.bu.ownSeq } ∧
       (∀ k, k < s.conf.nSt → (t.ptu.entries[k]?).map (fun y => (y.state, y.fpSeen)) =
        some (if k = s.own then .self else .absent, false)) ∧
       t.ptu.lineHeard = none ∧
       t.ae.sticky = CompFlags.clear ∧
       t.hc = { Holdings.reset s.own with rotate := s.hc.rotate } ∧
       t.lc.txErrors = 0 ∧
       t.lc.rxErrors = 0 ∧
       t.lc.muteHold = 1000 ∧
       (s.lc.attempt = none → t.lc.queue = [] ∧ t.lc.waiting = []) ∧
       (s.mc.mode = .listening → t.mc.listenAt = some (s.now + s.conf.lSil * s.conf.tEp) ∧ t.mc.solo = false ∧
           t.ae.seq = 0 ∧
        t.ae.result = none ∧ t.ae.epochAt = none) ∧
       (s.mc.mode = .tripped → t.ae = { s.ae with sticky := CompFlags.clear }) ∧
       (s.charging = true → s.bookingsNotify → t.ss.session.map Session.phase = some (.suspended .offline)) ∧
       t.bk.startAt = s.bk.startAt ∧
       (t.now = s.now ∧ t.io = s.io ∧ t.pending = s.pending) ∧
       t.ci = { s.ci with
          pSet := 0, sendValue := 0, outbox := t.ci.outbox
          inhibit := s.ci.inhibit || s.ci.causeTripped || s.ci.causeLost }) ∧
  (∀ (s : State),
     (s.working = true ∨ s.mc.mode = .offline) →
     s.mc.restarting = false →
     0 < s.mineCount + s.drainingCount →
     s.mc.leaving = false →
     (¬(s.ci.conv = .lost ∧ s.ci.lostQuiesce = .expired)) →
     s.pendingSettles →
     ∃ t, exec (.restart (.whole [])) s = .next t ∧
       t.answered s .accepted none [] ∧
       t.mc = { s.mc with restarting := true } ∧
       (∀ q, q < 128 → t.entry q = s.drainedFor .shutdown q) ∧
       t.ci.pSet = 0 ∧
       (s.charging = true → t.ss.session.map Session.phase = some (.suspended .offline)) ∧
       t = { s with
           map := t.map, mc := t.mc, lc := t.lc, hc := t.hc, ci := t.ci, ss := t.ss, bk := t.bk, cpi := t.cpi }) ∧
  (∀ (s : State),
     (s.working = true ∨ s.mc.mode = .offline) →
     s.mc.restarting = false →
     s.mineCount = 0 →
     s.drainingCount = 0 →
     s.noClaimAwaiting = true →
     s.mc.leaving = false →
     s.pendingSettles →
     s.lc.tx = .on →
     s.pendingCount ≤ 8 →
     s.lc.queue.length < 7 →
     s.lc.waiting = [] →
     ∃ t, exec (.restart (.whole [])) s = .next t ∧
       t.answered s .accepted none [] ∧
       t.mc = { s.mc with restarting := true, leaving := true } ∧
       (∀ q, q < 128 → t.entry q = s.drainedFor .shutdown q) ∧
       (t.queues (fun f => f == .leave)) ∧
       t.ci.pSet = 0 ∧
       (s.charging = true → t.ss.session.map Session.phase = some (.suspended .offline)) ∧
       t = { s with
           map := t.map, mc := t.mc, lc := t.lc, hc := t.hc, ci := t.ci, ss := t.ss, bk := t.bk, cpi := t.cpi }) ∧
  (∀ (s : State),
     (s.working = true ∨ s.mc.mode = .offline) →
     s.mc.restarting = false →
     s.mineCount = 0 →
     s.drainingCount = 0 →
     s.noClaimAwaiting = true →
     s.mc.leaving = false →
     s.pendingSettles →
     s.lc.tx ≠ .on →
     s.io.trip = false →
     ∃ t, exec (.restart (.whole [])) s = .next t ∧
       t.answered s .accepted none [] ∧
       s.cleared t ∧
       (s.charging = true → s.bookingsNotify → t.ss.session.map Session.phase = some (.suspended .offline)) ∧
       t.bk.startAt = s.bk.startAt ∧
       t = { s with
          map := t.map, mc := t.mc, lc := t.lc, bu := t.bu, ptu := t.ptu, ae := t.ae, hc := t.hc, ci := t.ci,
          ss := t.ss, bk := t.bk
          cpi := t.cpi })

/-- A CLAIM heard makes Free quanta Held and contests the own ones. In a calm state with distinct age stamps, a CLAIM
of 1 to 8 quanta from another station below N_st that is not Mismatched changes each listed quantum below B_cfg that
is Free to Held by the sender, and no other entry; every listed quantum that is Mine, or Draining for another reason
than Conflict, stands in a queued CONTEST, but in LISTENING, where R55 has none queued (in OFFLINE and MUTED it is the
model's choice, log 27). The sender's entry is heard, and from Silent or Expelled becomes Live; the offers are
unchanged; with ISOLATED becoming ACTIVE the frame of a frame heard holds. From a Mismatched station the map is
unchanged and only the time of hearing changes in its entry. From a number of N_st or above that is not the own one,
and from any other station in TRIPPED, nothing changes but the receive error run and RATE_SUSPECT and what the end of
a step may add. (R16, R18, R44, R47, R52, R55, R57, R103, R143, R157) -/
def Obligations.ClaimHeardTakesFreeQuanta : Prop :=
  (∀ (sender : BitVec 5) (p : List Byte) (x : Peer) (s : State),
     s.hears sender.toNat x →
     s.calm →
     x.state ≠ .mismatched →
     1 ≤ p.length →
     p.length ≤ 8 →
     s.stamped →
     ∃ t, exec (.claim sender p) s = .next t ∧
       (∀ q, q < 128 → t.entry q =
        if s.entry q = .free ∧ q < s.conf.bCfg ∧ q ∈ quantaOf p then .held sender.toNat false else s.entry q) ∧
       (s.mc.mode ≠ .listening →
        ∀ q ∈ quantaOf p, q < s.conf.bCfg → (s.entry q).ownToContest = true → t.contests q) ∧
       (s.mc.mode = .listening → t.lc.queue = s.lc.queue ∧ t.lc.waiting = s.lc.waiting) ∧
       (t.ptu.entries[sender.toNat]? = some { x with
          heardAt := some s.now, state := if x.state = .silent ∨ x.state = .expelled then .live else x.state }) ∧
       t.bu = s.bu ∧
       s.heardFrom t sender.toNat ∧
       t.hc = { s.hc with
          claim := t.hc.claim, request := t.hc.request, sweep := t.hc.sweep, sweepRun := t.hc.sweepRun,
          rotate := t.hc.rotate
          promises := t.hc.promises, needOpen := t.hc.needOpen }) ∧
  (∀ (sender : BitVec 5) (p : List Byte) (x : Peer) (s : State),
     s.hears sender.toNat x →
     s.calm →
     x.state = .mismatched →
     1 ≤ p.length →
     p.length ≤ 8 →
     ∃ t, exec (.claim sender p) s = .next t ∧
       t.map = s.map ∧
       t.ptu.entries[sender.toNat]? = some { x with heardAt := some s.now } ∧
       t.bu = s.bu ∧
       s.heardFrom t sender.toNat) ∧
  (∀ (sender : BitVec 5) (p : List Byte) (s : State),
     s.started = true →
     (s.mc.mode = .tripped ∨ s.conf.nSt ≤ sender.toNat) →
     sender.toNat ≠ s.own →
     1 ≤ p.length →
     p.length ≤ 8 →
     s.calm →
     ∃ t, exec (.claim sender p) s = .next t ∧
       State.endOf { s with lc := { s.lc with rxRun := 0, rateSuspect := false, quietUs := 0, heldUs := 0 } } t)

/-- A CONTEST heard changes each listed quantum by the table of R21. In a calm state whose lists have their sizes, with
distinct age stamps and the Pending quanta those of the claim in settle, a CONTEST of 1 to 8 quanta from another
station below N_st that is not Mismatched changes each listed quantum below B_cfg by the table of R21 with the
conflict rule of R34 (whatever B_eff is, log 15, and with the sender recorded for a Conflict quantum whose winner has
been dropped, log 74, both the model's choice), and no other entry; each own quantum this station wins stands in a
queued CONTEST, but in LISTENING, where R55 has none queued (in OFFLINE and MUTED it is the model's choice, log 27); a
Mine quantum it loses is in the drain list; where it loses one, Mine or Draining, one more setpoint message is sent;
the Pending quanta listed leave the claim. The offers are unchanged and the frame of a frame heard holds. From a
Mismatched station the map is unchanged and only the time of hearing changes in its entry. From a number of N_st or
above that is not the own one, and from any other station in TRIPPED, nothing changes but the receive error run and
RATE_SUSPECT and what the end of a step may add. (R16, R20, R21, R28, R34, R44, R55, R86, R131) -/
def Obligations.ContestHeardAppliesTheConflictRule : Prop :=
  (∀ (sender : BitVec 5) (p : List Byte) (x : Peer) (s : State),
     s.hears sender.toNat x →
     s.calm →
     x.state ≠ .mismatched →
     1 ≤ p.length →
     p.length ≤ 8 →
     s.shaped →
     s.stamped →
     s.pendingSettles →
     ∃ t, exec (.contest sender p) s = .next t ∧
       (∀ q, q < 128 → t.entry q = if q < s.conf.bCfg ∧ q ∈ quantaOf p then s.stated sender.toNat q else s.entry q) ∧
       (s.mc.mode ≠ .listening → ∀ q ∈ quantaOf p, q < s.conf.bCfg → (s.entry q).ownToContest = true →
        s.conf.winner q s.own sender.toNat = s.own → t.contests q) ∧
       (s.mc.mode = .listening → t.lc.queue = s.lc.queue ∧ t.lc.waiting = s.lc.waiting) ∧
       (∀ q ∈ quantaOf p, s.entry q = .mine → t.entry q ≠ .mine → q ∈ t.hc.drains.map Drain.quantum) ∧
       (∀ q ∈ quantaOf p, q < s.conf.bCfg → (s.entry q).ownToContest = true →
           s.conf.winner q s.own sender.toNat ≠ s.own →
        t.ci.outbox.length = s.ci.outbox.length + 1) ∧
       (∀ q ∈ t.settling, q ∈ s.settling ∧ ¬(q < s.conf.bCfg ∧ q ∈ quantaOf p)) ∧
       (t.ptu.entries[sender.toNat]? = some { x with
          heardAt := some s.now, state := if x.state = .silent ∨ x.state = .expelled then .live else x.state }) ∧
       t.bu = s.bu ∧
       s.heardFrom t sender.toNat) ∧
  (∀ (sender : BitVec 5) (p : List Byte) (x : Peer) (s : State),
     s.hears sender.toNat x →
     s.calm →
     x.state = .mismatched →
     1 ≤ p.length →
     p.length ≤ 8 →
     ∃ t, exec (.contest sender p) s = .next t ∧
       t.map = s.map ∧
       t.ptu.entries[sender.toNat]? = some { x with heardAt := some s.now } ∧
       t.bu = s.bu ∧
       s.heardFrom t sender.toNat) ∧
  (∀ (sender : BitVec 5) (p : List Byte) (s : State),
     s.started = true →
     (s.mc.mode = .tripped ∨ s.conf.nSt ≤ sender.toNat) →
     sender.toNat ≠ s.own →
     1 ≤ p.length →
     p.length ≤ 8 →
     s.calm →
     ∃ t, exec (.contest sender p) s = .next t ∧
       State.endOf { s with lc := { s.lc with rxRun := 0, rateSuspect := false, quietUs := 0, heldUs := 0 } } t)

/-- A RELEASE heard frees quanta, or passes them to its beneficiary. In a calm state whose map has its 128 entries, a
RELEASE of 1 to 8 quanta from another station below N_st that is not Mismatched changes each listed quantum below
B_cfg: Held by the sender at or above B_eff becomes Withdrawn; Held by the sender below B_eff, or Free, becomes Free
without beneficiary, Held by a beneficiary that is another station, and with this station as beneficiary Mine or
Draining for Surplus, Isolation or Shutdown, and for Shutdown in every mode with the converter LOST; no other entry
changes. The beneficiary counts by R24. With this station as the beneficiary of one quantum: OFFLINE makes it Draining
Shutdown; otherwise one that carried the promise-to-me mark becomes Mine where the mode was not MUTED and the
converter is not LOST. That R136 stands before the Isolation and Surplus of R27 is the model's reading (log 58). The
offers are unchanged and the frame of a frame heard holds. From a Mismatched station the map is unchanged and only the
time of hearing changes in its entry. From a number of N_st or above that is not the own one, and from any other
station in TRIPPED, nothing changes but the receive error run and RATE_SUSPECT and what the end of a step may add.
(R10, R16, R23, R24, R25, R27, R44, R136) -/
def Obligations.ReleaseHeardFreesOrPassesQuanta : Prop :=
  (∀ (sender : BitVec 5) (b : Byte) (p : List Byte) (x : Peer) (v : Option Nat) (s : State),
     s.hears sender.toNat x →
     s.calm →
     x.state ≠ .mismatched →
     1 ≤ p.length →
     p.length ≤ 8 →
     s.map.length = 128 →
     (v = (if b.toNat = 255 ∨ s.conf.nSt ≤ b.toNat ∨ b.toNat = sender.toNat then none
         else if b.toNat = s.own ∨ s.peerIs b.toNat .live = true ∨
             s.peerIs b.toNat .silent = true then some b.toNat else none)) →
     ∃ t, exec (.release sender (b :: p)) s = .next t ∧
       (∀ q, q < 128 →
        if q < s.conf.bCfg ∧ q ∈ quantaOf p ∧ ((s.entry q).heldBy sender.toNat = true ∧ s.bu.bEff ≤ q) then
            t.entry q = .withdrawn
        else if q < s.conf.bCfg ∧ q ∈ quantaOf p ∧ ((s.entry q).heldBy sender.toNat = true ∨ s.entry q = .free) then
          (v = none → t.entry q = .free) ∧
          (∀ u ∈ v, (u = s.own → t.entry q ∈ ([.mine, .draining .surplus none, .draining .isolation none,
              .draining .shutdown none] : List QEntry)) ∧
            (u = s.own → s.ci.conv = .lost → t.entry q = .draining .shutdown none) ∧
            (u ≠ s.own → t.entry q = .held u false))
        else t.entry q = s.entry q) ∧
       (∀ q, p.map BitVec.toNat = [q] → q < s.conf.bCfg → v = some s.own → s.entry q = .held sender.toNat true →
           q < s.bu.bEff →
        (s.mc.mode = .offline → t.entry q = .draining .shutdown none) ∧
        (s.mc.mode ≠ .offline → s.mc.mode ≠ .muted → s.ci.conv ≠ .lost → t.entry q = .mine)) ∧
       (t.ptu.entries[sender.toNat]? = some { x with
          heardAt := some s.now, state := if x.state = .silent ∨ x.state = .expelled then .live else x.state }) ∧
       t.bu = s.bu ∧
       s.heardFrom t sender.toNat) ∧
  (∀ (sender : BitVec 5) (b : Byte) (p : List Byte) (x : Peer) (s : State),
     s.hears sender.toNat x →
     s.calm →
     x.state = .mismatched →
     1 ≤ p.length →
     p.length ≤ 8 →
     ∃ t, exec (.release sender (b :: p)) s = .next t ∧
       t.map = s.map ∧
       t.ptu.entries[sender.toNat]? = some { x with heardAt := some s.now } ∧
       t.bu = s.bu ∧
       s.heardFrom t sender.toNat) ∧
  (∀ (sender : BitVec 5) (b : Byte) (p : List Byte) (s : State),
     s.started = true →
     (s.mc.mode = .tripped ∨ s.conf.nSt ≤ sender.toNat) →
     sender.toNat ≠ s.own →
     1 ≤ p.length →
     p.length ≤ 8 →
     s.calm →
     ∃ t, exec (.release sender (b :: p)) s = .next t ∧
       State.endOf { s with lc := { s.lc with rxRun := 0, rateSuspect := false, quietUs := 0, heldUs := 0 } } t)

/-- A REPORT heard records the bid and brings the map into line with its holdings. In a calm state whose lists have
their sizes, with the Pending quanta those of the claim in settle, a REPORT of 26 bytes from another station below
N_st: with the own fingerprint the sender's entry is Live with the sequence, the bid clamped (absent for a tier above
3) and the session summary (absent for a state above 4), each listed quantum below B_cfg changes by the table of R32,
each entry Held by the sender and not listed becomes Free or Withdrawn, and no other entry changes; each own quantum
this station wins stands, with distinct age stamps, in a queued CONTEST, but in LISTENING (log 27), and a Mine quantum
it loses is in the drain list; with another fingerprint the entry is Mismatched without bid and summary and no entry
of the map changes, and at its first mismatch CONFIG_MISMATCH with the station's number is posted where there is room
and bookings only notify. The offers are unchanged and the frame of a frame heard holds. The conflict rule is applied
whatever B_eff is (log 15), and the sender is recorded for a Conflict quantum whose winner has been dropped (log 74):
both are the model's choice. (R16, R32, R33, R34, R44, R45, R46, R47, R48, R86, R185) -/
def Obligations.ReportHeardRecordsBidAndHoldings : Prop :=
  (∀ (sender : BitVec 5) (p : List Byte) (x : Peer) (s : State),
     s.hears sender.toNat x →
     s.calm →
     p.length = 26 →
     s.cpi.fingerprint = some (BitVec.ofNat 16 (at2 p 24)) →
     s.shaped →
     s.pendingSettles →
     ∃ t, exec (.report sender p) s = .next t ∧
       (t.ptu.entries[sender.toNat]? = some { x with
          heardAt := some s.now, state := .live, lastSeq := at1 p 0
          bid := if 3 < at1 p 1 then none else some
            { tier := at1 p 1, weight := max 1 (min (at1 p 2) 64), want := min (at1 p 3) 128,
                floor := min (at1 p 4) (min (at1 p 3) 128) }
          summary := (sessOf (at1 p 5)).map fun st => (st, at2 p 6) }) ∧
       (∀ q, q < 128 → t.entry q =
        if (p.getD (8 + q / 8) 0).getLsbD (7 - q % 8) then (if q < s.conf.bCfg then
            s.stated sender.toNat q else s.entry q)
        else if (s.entry q).heldBy sender.toNat then s.vacant q else s.entry q) ∧
       (s.mc.mode ≠ .listening → s.stamped → ∀ q, q < 128 → (p.getD (8 + q / 8) 0).getLsbD (7 - q % 8) = true →
           q < s.conf.bCfg →
        (s.entry q).ownToContest = true → s.conf.winner q s.own sender.toNat = s.own → t.contests q) ∧
       (∀ q, q < 128 → s.entry q = .mine → t.entry q ≠ .mine → q ∈ t.hc.drains.map Drain.quantum) ∧
       t.bu = s.bu ∧
       s.heardFrom t sender.toNat) ∧
  (∀ (sender : BitVec 5) (p : List Byte) (x : Peer) (s : State),
     s.hears sender.toNat x →
     s.calm →
     p.length = 26 →
     s.cpi.fingerprint ≠ some (BitVec.ofNat 16 (at2 p 24)) →
     ∃ t, exec (.report sender p) s = .next t ∧
       (t.ptu.entries[sender.toNat]? = some { x with
          heardAt := some s.now, state := .mismatched, bid := none, summary := none, fpSeen := true }) ∧
       t.map = s.map ∧
       (x.fpSeen = false → s.bk.notices.length < 16 → s.bookingsNotify →
        (t.bk.notices[s.bk.notices.length]?).map (fun n => (n.code, n.value, n.urgent)) = some (128, sender.toNat,
            true)) ∧
       t.bu = s.bu ∧
       s.heardFrom t sender.toNat)

/-- A JOIN makes its sender Live or Mismatched; a LEAVE makes it Left and frees its holdings. In a calm state, from
another station below N_st: a JOIN whose fingerprint, N_st and H equal the own ones makes the sender's entry Live, and
any other makes it Mismatched without bid and summary; the map is unchanged. A LEAVE makes the entry Left without bid,
summary and unanswered count; every entry Held by the sender becomes Free or Withdrawn, every own Draining entry with
the sender as beneficiary loses it, and no other entry changes. The offers are unchanged and the frame of a frame
heard holds. (R35, R42, R44, R45, R46, R47, R157) -/
def Obligations.JoinAndLeaveHeardMoveTheEntry : Prop :=
  (∀ (sender : BitVec 5) (p : List Byte) (x : Peer) (s : State),
     s.hears sender.toNat x →
     s.calm →
     p.length = 4 →
     ∃ t, exec (.join sender p) s = .next t ∧
       (t.ptu.entries[sender.toNat]? = some
          (if s.cpi.fingerprint = some (BitVec.ofNat 16 (at2 p 0)) ∧ at1 p 2 = s.conf.nSt ∧ at1 p 3 = s.conf.h then
            { x with heardAt := some s.now, state := .live }
          else { x with heardAt := some s.now, state := .mismatched, bid := none, summary := none, fpSeen := true })) ∧
       t.map = s.map ∧
       t.bu = s.bu ∧
       s.heardFrom t sender.toNat) ∧
  (∀ (sender : BitVec 5) (x : Peer) (s : State),
     s.hears sender.toNat x →
     s.calm →
     ∃ t, exec (.leave sender []) s = .next t ∧
       (t.ptu.entries[sender.toNat]? = some { x with
          heardAt := some s.now, state := .left, bid := none, summary := none, unanswered := 0 }) ∧
       (∀ q, q < 128 → t.entry q =
        match s.entry q with
        | .held u m => if u = sender.toNat then s.vacant q else .held u m
        | .draining r (some u) => if u = sender.toNat then .draining r none else .draining r (some u)
        | e => e) ∧
       t.bu = s.bu ∧
       s.heardFrom t sender.toNat)

/-- A BUDGET heard is taken by the table of R5, and B_eff and the map follow. In a calm state whose lists have their
sizes, a BUDGET frame from another station below N_st that is not Mismatched, with that station as source: an older or
equal sequence than the one held, or a full list with no higher value, leaves the offers as they are; a newer sequence
replaces the offer; a source without offer is added below four, and at four replaces the highest value (lowest source
among equals) where the value is lower. Once taken, offers-seen is set, B_eff is the least of B_cfg and the values,
and each entry follows R9 on a fall and R11 on a rise. A fall queues no YIELD-REQ, which rests on R8; that R8 stands
before R93 in the step of the fall is the model's reading (log 71). With another source field nothing of the budget or
the map changes. (R5, R7, R8, R9, R11, R44) -/
def Obligations.BudgetHeardTakesTheOffer : Prop :=
  (∀ (sender : BitVec 5) (value seq hold : Byte) (x : Peer) (o : Offer) (s : State),
     s.hears sender.toNat x →
     s.calm →
     x.state ≠ .mismatched →
     s.shaped →
     (o = {
        source := sender.toNat, value := min s.conf.bCfg value.toNat, seq := seq.toNat
        expiry := s.now - s.bk.startAt + max 1 (min 60 hold.toNat) * 1000 }) →
     ∃ t, exec (.budget sender [BitVec.ofNat 8 sender.toNat, value, seq, hold]) s = .next t ∧
       (∀ old ∈ s.bu.offers.find? (fun y : Offer => y.source == o.source),
        (1 ≤ (o.seq + 256 - old.seq % 256) % 256 ∧ (o.seq + 256 - old.seq % 256) % 256 ≤ 127 →
          t.bu.offers = s.bu.offers.map fun y => if y.source = o.source then o else y) ∧
        (¬(1 ≤ (o.seq + 256 - old.seq % 256) % 256 ∧ (o.seq + 256 - old.seq % 256) % 256 ≤ 127) → t.bu = s.bu)) ∧
       (s.bu.offers.find? (fun y : Offer => y.source == o.source) = none →
        (s.bu.offers.length < 4 → t.bu.offers = s.bu.offers ++ [o]) ∧
        (s.bu.offers.length = 4 → (∀ y ∈ s.bu.offers, y.value ≤ o.value) → t.bu = s.bu) ∧
        (s.bu.offers.length = 4 → ∀ h ∈ s.bu.offers, o.value < h.value →
          (∀ y ∈ s.bu.offers, y.value < h.value ∨ (y.value = h.value ∧ h.source ≤ y.source)) →
          t.bu.offers = s.bu.offers.map fun y => if y.source = h.source then o else y)) ∧
       (t.bu.offers ≠ s.bu.offers →
        t.bu.seen = true ∧ t.bu.bEff = (t.bu.offers.map Offer.value).foldl min s.conf.bCfg) ∧
       t.bu.ownSeq = s.bu.ownSeq ∧
       (∀ q, q < 128 → t.entry q = s.rebudgeted t.bu.bEff q) ∧
       (t.bu.bEff < s.bu.bEff → s.noNewRequest t) ∧
       (t.ptu.entries[sender.toNat]? = some { x with
          heardAt := some s.now, state := if x.state = .silent ∨ x.state = .expelled then .live else x.state }) ∧
       s.heardFrom t sender.toNat) ∧
  (∀ (sender : BitVec 5) (source value seq hold : Byte) (x : Peer) (s : State),
     s.hears sender.toNat x →
     s.calm →
     (x.state = .mismatched ∨ source.toNat ≠ sender.toNat) →
     ∃ t, exec (.budget sender [source, value, seq, hold]) s = .next t ∧
       t.map = s.map ∧
       t.bu = s.bu ∧
       s.heardFrom t sender.toNat)

/-- A YIELD-REQ addressed to this station is granted by R100 and R101 and answered. In ACTIVE and ISOLATED, in a calm
state whose lists have their sizes, with distinct age stamps and the Pending quanta those of the claim in settle, from
a Live station, or a Silent or Expelled one, which the frame makes Live: a SURPLUS request for c quanta is granted the
highest min(c, held - T - y) Mine quanta that are not own home quanta; a HOME request is granted by the table of R101,
by which Pending listed home quanta of the requester are given up; that a Draining Yield quantum without beneficiary
is granted, and that listed quanta from B_cfg on are passed over and give no reason, are the model's choice (log 36).
The granted quanta are Draining Yield for the requester, no other entry changes, and a YIELD-ANS with the granted
quanta in ascending order and a refusal reason is queued: NO_SURPLUS where fewer than c are granted, for HOME the
reason that R101 gives the lowest listed quantum not granted, and NONE otherwise. In LISTENING, MUTED and OFFLINE, or
for another target, the map is unchanged. The offers are unchanged. (R28, R44, R86, R99, R100, R101, R185) -/
def Obligations.YieldRequestHeardIsAnswered : Prop :=
  (∀ (sender : BitVec 5) (c : Byte) (x : Peer) (granted : List Nat) (s : State),
     s.hears sender.toNat x →
     s.calm →
     (x.state = .live ∨ x.state = .silent ∨ x.state = .expelled) →
     (s.mc.mode = .active ∨ s.mc.mode = .isolated) →
     1 ≤ c.toNat →
     c.toNat ≤ 8 →
     s.own < 32 →
     s.shaped →
     s.stamped →
     (granted = (((List.range 128).filter fun q => s.entry q == .mine && !s.ownHome q).reverse).take
        (min c.toNat (s.heldCount - s.recordTarget -
          ((List.range 128).filter fun q => match s.entry q with
            | .draining .yield (some _) => true
            | .draining .conflict (some _) => true
            | _ => false).length))) →
     ∃ t, exec (.yieldReq sender [BitVec.ofNat 8 s.own, c, 0]) s = .next t ∧
       (∀ q, q < 128 → t.entry q = if q ∈ granted then .draining .yield (some sender.toNat) else s.entry q) ∧
       (t.queues (fun f => f == .yieldAns sender.toNat (if granted.length = c.toNat then 0 else 1) granted.reverse)) ∧
       (∀ q ∈ granted, q ∈ t.hc.drains.map Drain.quantum) ∧
       t.bu = s.bu ∧
       s.heardFrom t sender.toNat) ∧
  (∀ (sender : BitVec 5) (c : Byte) (p : List Byte) (x : Peer) (s : State),
     s.hears sender.toNat x →
     s.calm →
     (x.state = .live ∨ x.state = .silent ∨ x.state = .expelled) →
     (s.mc.mode = .active ∨ s.mc.mode = .isolated) →
     1 ≤ c.toNat →
     c.toNat ≤ 8 →
     p.length = c.toNat →
     s.own < 32 →
     s.shaped →
     s.stamped →
     s.pendingSettles →
     ∃ t, exec (.yieldReq sender (BitVec.ofNat 8 s.own :: c :: 1 :: p)) s = .next t ∧
       (∀ q, q < 128 → t.entry q =
        if q ∈ quantaOf p ∧ q < s.conf.bCfg ∧ q < s.bu.bEff ∧ s.conf.homeStation q = some sender.toNat then
          match s.entry q with
          | .mine => .draining .yield (some sender.toNat)
          | .draining .conflict w => .draining .conflict w
          | .draining .yield (some u) => .draining .yield (some u)
          | .draining _ _ => .draining .yield (some sender.toNat)
          | .pending => s.vacant q
          | e => e
        else s.entry q) ∧
       (t.queues (fun f => match f with
        | .yieldAns r reason g => r == sender.toNat &&
          reason == (((List.range 128).findSome? fun q =>
            if q ∈ quantaOf p ∧ q < s.conf.bCfg then
              if s.conf.homeStation q ≠ some sender.toNat ∨ s.bu.bEff ≤ q then some 2
              else match s.entry q with
                | .mine => none
                | .draining .conflict _ => some 2
                | .draining .yield (some u) => if u = sender.toNat then none else some 3
                | .draining _ _ => none
                | _ => some 2
            else none).getD 0) && g == (List.range 128).filter fun q =>
            (quantaOf p).contains q && decide (q < s.conf.bCfg ∧ q < s.bu.bEff ∧
                s.conf.homeStation q = some sender.toNat) &&
              match s.entry q with
              | .mine => true
              | .draining .conflict _ => false
              | .draining .yield (some u) => u == sender.toNat
              | .draining _ _ => true
              | _ => false
        | _ => false)) ∧
       t.bu = s.bu ∧
       s.heardFrom t sender.toNat) ∧
  (∀ (sender : BitVec 5) (g c : Byte) (x : Peer) (s : State),
     s.hears sender.toNat x →
     s.calm →
     1 ≤ c.toNat →
     c.toNat ≤ 8 →
     (g.toNat ≠ s.own ∨ s.mc.mode = .listening ∨ s.mc.mode = .muted ∨ s.mc.mode = .offline) →
     ∃ t, exec (.yieldReq sender [g, c, 0]) s = .next t ∧
       t.map = s.map ∧
       t.bu = s.bu ∧
       s.heardFrom t sender.toNat)

/-- A YIELD-ANS for this station marks the granted quanta and records the promise. In a calm state, a YIELD-ANS from
another station below N_st whose requester is this station clears the unanswered count of its entry. In ACTIVE,
ISOLATED and MUTED each granted quantum below B_cfg that is Held by the sender carries the promise-to-me mark, no
other entry changes, the refusal reason (above 3 as NO_SURPLUS) is recorded in the entry and as the last one, a
promise with those quanta and an expiry 2500 ms ahead exists where one was marked, and the outstanding request has
ended where the sender is its target, whether or not its echo has been heard, and is kept where its target is another
station. A YIELD-REQ that is still queued stays queued, and no other request is made meanwhile (log 63, the model's
choice). In LISTENING and OFFLINE the map is unchanged, and a request outstanding to the sender stays so and will not
count as unanswered (log 61, the model's choice). The offers are unchanged and the frame of a frame heard holds. (R40,
R44, R51, R97, R185) -/
def Obligations.YieldAnswerHeardMarksThePromise : Prop :=
  (∀ (sender : BitVec 5) (n r : Byte) (p : List Byte) (x : Peer) (s : State),
     s.hears sender.toNat x →
     s.calm →
     n.toNat ≤ 8 →
     p.length = n.toNat →
     s.own < 32 →
     s.working = true →
     ∃ t, exec (.yieldAns sender (BitVec.ofNat 8 s.own :: n :: r :: p)) s = .next t ∧
       (∀ q, q < 128 → t.entry q =
        if q ∈ quantaOf p ∧ q < s.conf.bCfg ∧ (s.entry q).heldBy sender.toNat = true then
            .held sender.toNat true else s.entry q) ∧
       (t.ptu.entries[sender.toNat]? = some { x with
          heardAt := some s.now, state := if x.state = .silent ∨ x.state = .expelled then .live else x.state,
          unanswered := 0
          lastRefusal := some (yieldReasonOf r.toNat) }) ∧
       t.hc.lastRefusal = some (yieldReasonOf r.toNat) ∧
       (∀ q ∈ quantaOf p, q < s.conf.bCfg → (s.entry q).heldBy sender.toNat = true →
        t.hc.promises.any fun m => m.donor == sender.toNat && m.quanta.contains q && m.expiry == s.now + 2500) ∧
       (s.hc.request.map Request.target = some sender.toNat → t.hc.request.all fun m => m.echoAt.isNone) ∧
       (s.hc.request.map Request.target = some sender.toNat → s.hasQueued .yieldReq = true → t.hc.request = none ∧
           t.hasQueued .yieldReq = true) ∧
       (∀ k ∈ s.hc.request, k.target ≠ sender.toNat →
        t.hc.request.map (fun m => (m.target, m.disp, m.count, m.listed, m.echoAt)) =
          some (k.target, k.disp, k.count, k.listed, k.echoAt)) ∧
       t.bu = s.bu ∧
       s.heardFrom t sender.toNat) ∧
  (∀ (sender : BitVec 5) (n r : Byte) (p : List Byte) (x : Peer) (s : State),
     s.hears sender.toNat x →
     s.calm →
     n.toNat ≤ 8 →
     p.length = n.toNat →
     s.own < 32 →
     s.working = false →
     ∃ t, exec (.yieldAns sender (BitVec.ofNat 8 s.own :: n :: r :: p)) s = .next t ∧
       t.map = s.map ∧
       (t.ptu.entries[sender.toNat]?).map Peer.unanswered = some 0 ∧
       (∀ k ∈ s.hc.request, k.target = sender.toNat → t.hc.request.map Request.answered = some true) ∧
       t.bu = s.bu ∧
       s.heardFrom t sender.toNat)

/-- The first duplicate takes the station out of the row. In LISTENING, ACTIVE, ISOLATED, MUTED and OFFLINE, with no
fault cause, no restart, no ENDING session, no expired LOST quiesce, and the Pending quanta those of the claim in
settle: the fault cause is DUPLICATE, the mode OFFLINE with the transmitter off; Mine becomes Draining with reason
Shutdown, Pending Free or Withdrawn, Draining quanta of a queued RELEASE that is not on the line Free or Withdrawn,
promise-to-me marks are dropped, and no other entry changes; the queue keeps only a frame on the line; the request,
the promises and the sweep are gone; a CHARGING session, with bookings that only notify, is SUSPENDED with reason
OFFLINE; P_set is 0. Peer entries, line-heard time and offers are unchanged. A further duplicate leaves all of it as
it is. That the frame on the line stays (log 26), and the kind character of Table 73 as the value of the notice
DUPLICATE_STATION (log 60), are the model's choice. (R22, R28, R30, R44, R52, R58, R59, R105, R120, R143) -/
def Obligations.DuplicateFrameWithdrawsTheStation : Prop :=
  (∀ (k : FrameKind) (s : State),
     s.takesFrames = true →
     s.mc.duplicate = false →
     s.mc.restarting = false →
     s.sessionEnding = false →
     (¬(s.ci.conv = .lost ∧ s.ci.lostQuiesce = .expired)) →
     s.pendingSettles →
     ∃ t, exec (.duplicateFrame k) s = .next t ∧
       t.mc.duplicate = true ∧
       t.mc.mode = .offline ∧
       t.lc.tx = .off ∧
       (∀ q, q < 128 → t.entry q =
        if s.lc.queuedReleases.contains q ∧ (s.entry q).isDraining = true then s.vacant q
        else match s.entry q with
          | .held u _ => .held u false
          | _ => s.drainedFor .shutdown q) ∧
       (∀ f ∈ t.lc.queue ++ t.lc.waiting, s.lc.onLine f = true) ∧
       t.hc.request = none ∧
       t.hc.promises = [] ∧
       t.hc.sweep = none ∧
       t.ci.pSet = 0 ∧
       (s.charging = true → s.bookingsNotify → t.ss.session.map Session.phase = some (.suspended .offline)) ∧
       t.ptu = s.ptu ∧
       t.bu = s.bu ∧
       (s.bk.notices.length < 16 → s.bookingsNotify →
        (t.bk.notices[s.bk.notices.length]?).map (fun n => (n.code, n.value, n.urgent)) = some (130, kindChar k,
            true)) ∧
       t = { s with
           map := t.map, mc := t.mc, lc := t.lc, hc := t.hc, ci := t.ci, ss := t.ss, bk := t.bk, ae := t.ae }) ∧
  (∀ (k : FrameKind) (s : State),
     s.started = true →
     s.calm →
     (s.takesFrames = false ∨ s.mc.duplicate = true) →
     ∃ t, exec (.duplicateFrame k) s = .next t ∧
       State.endOf { s with lc := { s.lc with rxRun := 0, rateSuspect := false, quietUs := 0, heldUs := 0 } } t)

/-- RECEIVE_ERROR and DOMINANT_RUN count one receive error. From START on, in a calm state, both add 1 to the receive
error count and the listening error count (saturating at 65535) and to the receive error run (saturating at 8); where
the run reaches 8 with RATE_SUSPECT clear, the mark is set and, with room in the queue and no booking firing, the
notice RATE_SUSPECT with the count is posted; otherwise the mark and the notices are unchanged. Nothing else differs
but what the end of a step may add. Before START nothing differs. (R140, R142, R143, R144) -/
def Obligations.ReceiveErrorsAreCounted : Prop :=
  (∀ (c : Instr) (s : State),
     (c = .receiveError ∨ c = .dominantRun) →
     s.started = true →
     s.calm →
     ∃ t, exec c s = .next t ∧
       (State.endOf { s with
          bk := t.bk
          lc := { s.lc with
            rxErrors := min 65535 (s.lc.rxErrors + 1), listenErrors := min 65535 (s.lc.listenErrors + 1)
            rxRun := min 8 (s.lc.rxRun + 1), rateSuspect := s.lc.rateSuspect || decide (7 ≤ s.lc.rxRun), quietUs := 0,
            heldUs := 0 } } t) ∧
       (s.lc.rxRun < 7 ∨ s.lc.rateSuspect = true → t.bk = s.bk) ∧
       (7 ≤ s.lc.rxRun → s.lc.rateSuspect = false → s.bk.notices.length < 16 →
        t.bk.notices = s.bk.notices ++ [systemNotice .rateSuspect (min 65535 (s.lc.rxErrors + 1)) [0, 0,
            0] s.noticeTime])) ∧
  (∀ (c : Instr) (s : State),
     (c = .receiveError ∨ c = .dominantRun) →
     s.started = false →
     ∃ t, exec c s = .next t ∧
       t = s)

/-- TRIP asserted and a break take the station into TRIPPED and wipe it. In LISTENING, ACTIVE, ISOLATED, MUTED and
OFFLINE with no restart under way: the mode is TRIPPED with the transmitter off, every entry Free below B_eff and
Withdrawn from it on, the claim, request, sweep, promises and drain list gone, DRAIN_STUCK clear; P_set and the send
value 0, the cause TRIPPED of INHIBIT set and one message with limit 0 and the inhibit flag sent at once (log 19); the
epoch timer stopped and the record kept; only BUDGET frames and a frame on the line stay queued (log 38); a CHARGING
or SUSPENDED session is SUSPENDED with reason TRIP and an ENDING one EMPTY; the offers, the peer table, the isolate
request, the fault cause and the solo flag are kept. TRIP starts a break on a line with no own attempt, and an own
frame on the line is not tried again. In UNCONFIGURED and CONFIGURED only the level differs; in TRIPPED a break stops
the trip hold timer, and so does TRIP asserted there, which asks for a break again. With a restart under way the
station is TRIPPED too, with the setpoint message and the suspension as above, and its blocks are at their RESTART
values in the same step: no frame but one on the line stays queued. That the reason is TRIP also where a booking on
MODE suspends the session is the model's reading (log 41), and so is that the own target is kept (log 47). (R38, R68,
R83, R120, R126, R129, R131, R138, R144, R151, R155, R159, R160, R181, R182) -/
def Obligations.TripWipesTheStation : Prop :=
  (∀ (c : Instr) (s : State),
     ((c = .tripAsserted ∧ s.io.trip = false) ∨ c = .breakDetected) →
     s.takesFrames = true →
     s.mc.restarting = false →
     ∃ t, exec c s = .next t ∧
       t.mc.mode = .tripped ∧
       t.lc.tx = .off ∧
       (∀ q, q < 128 → t.entry q = if q < s.bu.bEff then .free else .withdrawn) ∧
       t.bu = s.bu ∧
       t.ptu = s.ptu ∧
       t.ae = { s.ae with epochAt := none } ∧
       t.hc = { s.hc with
          claim := none, request := none, sweep := none, promises := [], drains := [], stuck := false, quiesceAt := none
          needOpen := false } ∧
       t.ci = { s.ci with
          pSet := 0, sendValue := 0, causeTripped := true, inhibit := true
          outbox := s.ci.outbox ++ [{ limit := 0, inhibit := true, marks := [] }] } ∧
       t.mc.isolateReq = s.mc.isolateReq ∧
       t.mc.duplicate = s.mc.duplicate ∧
       t.mc.solo = s.mc.solo ∧
       t.mc.listenAt = none ∧
       (∀ f ∈ t.lc.queue ++ t.lc.waiting, kindOf f.frame = .budget ∨ s.lc.onLine f = true) ∧
       (s.inUse = true → t.ss.session.map Session.phase = some (.suspended .trip)) ∧
       (s.sessionEnding = true → t.ss.session = none) ∧
       (c = .tripAsserted → t.io = { s.io with trip := true } ∧ (s.lc.attempt = none → t.lc.attempt = some (.brk 0))) ∧
       (t.lc.attempt.all (fun a => match a with
        | .frame _ _ last => last
        | .probe _ _ last => last
        | .brk _ => true) = true) ∧
       (c = .breakDetected → t.io = s.io ∧ t.mc.breakOn = true) ∧
       (t.now = s.now ∧ t.cpi = s.cpi ∧ t.pending = s.pending)) ∧
  (∀ (s : State),
     s.started = false →
     s.io.trip = false →
     ∃ t, exec .tripAsserted s = .next t ∧
       t = { s with io := { s.io with trip := true } }) ∧
  (∀ (s : State),
     s.started = false →
     ∃ t, exec .breakDetected s = .next t ∧
       t = s) ∧
  (∀ (s : State),
     s.mc.mode = .tripped →
     s.io.trip = false →
     s.sessionEnding = false →
     (¬(s.ci.conv = .lost ∧ s.ci.lostQuiesce = .expired)) →
     ∃ t, exec .tripAsserted s = .next t ∧
       (State.endOf { s with
          io := { s.io with trip := true }
          mc := { s.mc with tripHoldAt := none }
          lc := match s.lc.attempt with
            | none => { s.lc with attempt := some (.brk 0), quietUs := 0, heldUs := 0 }
            | some (.brk _) => s.lc
            | some _ => { s.lc with breakDue := true } } t)) ∧
  (∀ (c : Instr) (s : State),
     ((c = .tripAsserted ∧ s.io.trip = false) ∨ c = .breakDetected) →
     s.takesFrames = true →
     s.mc.restarting = true →
     ∃ t, exec c s = .next t ∧
       t.mc = { s.mc with
          mode := .tripped, listenAt := none, leaving := false, restarting := false, duplicate := false,
          echoSince := none
          errSince := false, breakOn := t.mc.breakOn } ∧
       t.lc.tx = .off ∧
       (∀ q, q < 128 → t.entry q = if q < s.conf.bCfg then .free else .withdrawn) ∧
       t.bu = { offers := [], seen := false, bEff := s.conf.bCfg, ownSeq := s.bu.ownSeq } ∧
       (∀ k, k < s.conf.nSt → (t.ptu.entries[k]?).map (fun y => (y.state, y.fpSeen)) =
        some (if k = s.own then .self else .absent, false)) ∧
       t.ptu.lineHeard = none ∧
       t.ae = { s.ae with epochAt := none, sticky := CompFlags.clear } ∧
       t.hc = { Holdings.reset s.own with rotate := s.hc.rotate } ∧
       t.ci = { s.ci with
          pSet := 0, sendValue := 0, causeTripped := true, inhibit := true
          outbox := s.ci.outbox ++ [{ limit := 0, inhibit := true, marks := [] }] } ∧
       (t.lc.txErrors = 0 ∧ t.lc.rxErrors = 0 ∧ t.lc.muteHold = 1000) ∧
       (∀ f ∈ t.lc.queue ++ t.lc.waiting, s.lc.onLine f = true) ∧
       (s.inUse = true → t.ss.session.map Session.phase = some (.suspended .trip)) ∧
       (s.sessionEnding = true → t.ss.session = none) ∧
       (c = .tripAsserted → t.io = { s.io with trip := true } ∧ (s.lc.attempt = none → t.lc.attempt = some (.brk 0))) ∧
       (t.lc.attempt.all (fun a => match a with
        | .frame _ _ last => last
        | .probe _ _ last => last
        | .brk _ => true) = true) ∧
       (c = .breakDetected → t.io = s.io ∧ t.mc.breakOn = true) ∧
       (t.now = s.now ∧ t.cpi = s.cpi ∧ t.pending = s.pending)) ∧
  (∀ (s : State),
     s.mc.mode = .tripped →
     ∃ t, exec .breakDetected s = .next t ∧
       t = { s with
           mc := { s.mc with breakOn := true, tripHoldAt := none }, lc := { s.lc with quietUs := 0, heldUs := 0 } })

/-- The trip hold timer starts on release and leads to LISTENING; the mute hold leads to the probe. TRIP deasserted
and a break ended start a full trip hold in TRIPPED, the one where no break is in progress and the other where TRIP is
deasserted, and otherwise leave the timer; a break ended ends an own break. At the trip hold expiry, in a calm state
with TRIP deasserted, the mode is LISTENING with its timer at L_sil x T_ep and the solo flag clear, TRIPPED leaves the
causes of INHIBIT, which itself is not released but at the next refresh (log 67, the model's reading), every entry but
Self is Absent with its fingerprint-seen flag kept, the record is empty with sequence 0, the map and the offers are
unchanged, and the counts of R152 are 0. At the mute hold expiry in MUTED the probe is due and the timer stopped. The
clock at which the two timers expire is the model's choice (log 2). (R42, R52, R54, R69, R79, R129, R138, R144, R150,
R151, R152, R160) -/
def Obligations.TripAndMuteHoldTimersRunAndExpire : Prop :=
  (∀ (s : State),
     s.io.trip = true →
     ∃ t, exec .tripDeasserted s = .next t ∧
       (t = { s with
          io := { s.io with trip := false }
          mc := { s.mc with tripHoldAt := if s.mc.mode = .tripped ∧
              s.mc.breakOn = false then some (s.now + s.conf.tripHold * 1000) else s.mc.tripHoldAt } })) ∧
  (∀ (s : State),
     s.started = true →
     s.mc.breakOn = true →
     ∃ t, exec .breakEnded s = .next t ∧
       (t = { s with
          lc := t.lc
          mc := { s.mc with
            breakOn := false
            tripHoldAt := if s.mc.mode = .tripped ∧
                s.io.trip = false then some (s.now + s.conf.tripHold * 1000) else s.mc.tripHoldAt } }) ∧
       t.lc = { s.lc with attempt := t.lc.attempt, breakDue := t.lc.breakDue, quietUs := 0, heldUs := 0 } ∧
       (t.lc.attempt = match s.lc.attempt with
        | some (.brk _) => if s.lc.breakDue then some (.brk 0) else none
        | other => other)) ∧
  (∀ (T : Nat) (a s : State),
     s.mc.mode = .tripped →
     s.mc.tripHoldAt = some T →
     s.io.trip = false →
     s.calm →
     a = s.atTime T →
     ∃ t, exec .tripHoldExpiry s = .next t ∧
       t.mc = { s.mc with
          mode := .listening, tripHoldAt := none, listenAt := some (a.now + s.conf.lSil * s.conf.tEp), solo := false,
          echoSince := none
          errSince := false } ∧
       t.map = s.map ∧
       t.bu = s.bu ∧
       t.ci.causeTripped = false ∧
       t.ci.inhibit = (s.ci.inhibit || s.hc.stuck || s.ci.causeLost) ∧
       t.ci.pSet = 0 ∧
       (t.ptu.entries = s.ptu.entries.map fun y => if y.state = .self then y else
        { state := .absent, bid := none, lastSeq := 0, summary := none, heardAt := none, unanswered := 0,
            fpSeen := y.fpSeen
          lastRefusal := none }) ∧
       t.ptu.lineHeard = none ∧
       t.ae = { s.ae with epochAt := none, seq := 0, result := none } ∧
       t.lc.tx = .off ∧
       t.lc.txErrors = 0 ∧
       t.lc.listenErrors = 0 ∧
       (s.bookingsNotify → t.ss = a.ss) ∧
       (t.now = a.now ∧ t.io = s.io ∧ t.cpi = s.cpi)) ∧
  (∀ (T : Nat) (s : State),
     s.mc.mode = .muted →
     s.lc.muteAt = some T →
     ∃ t, exec .muteHoldExpiry s = .next t ∧
       t = { s.atTime T with lc := { (s.atTime T).lc with muteAt := none, probeDue := true } })

/-- An attempt puts the head of the queue, or the due probe, on the line. TRANSMIT_ATTEMPT_START brings the clock to
the moment at which the idle count reaches 12, which with the line quiet and no level told is 12 bit times of D + 1 µs
after the last dominant level, and at once where the count stands at 12 (that the command does so is the model's
choice, log 4). With no attempt in progress and an idle count of at least 12 bit times at that moment: with the
transmitter on and a frame at the head of the queue, it makes that frame the attempt in its arbitration phase, and
drives its characters bit by bit, a REPORT with the quanta that are Pending, Mine or Draining for another reason than
Conflict as its holdings, and the rest of the queue unchanged; with the transmitter in probe and the probe due, the
probe, a JOIN with the own fingerprint, N_st and H, becomes the attempt and is no longer due. Nothing else differs
from the state at that moment. With the idle count below 12 there, with an attempt in progress, the transmitter off,
or nothing to send, the event cannot come, and the model leaves the state (log 3). With nothing of its own on the line
and no frame that won an arbitration holding it, each bit time that the line is recessive adds one bit time to the
quiet time, and a dominant one returns it to 0. (R31, R102, R140, R141, R145, R150) -/
def Obligations.AttemptStartPutsTheHeadOnTheLine : Prop :=
  (∀ (x : QFrame) (rest : List QFrame) (a s : State),
     s.lc.attempt = none →
     s.lc.tx = .on →
     s.lc.queue = x :: rest →
     a = s.pass s.gapWait →
     12 ≤ a.lc.quietUs / (s.conf.d + 1) →
     ∃ t, exec .transmitAttemptStart s = .next t ∧
       t = { a with lc := { a.lc with
          queue := t.lc.queue, attempt := some (.frame x.id 0 false), quietUs := 0, heldUs := 0 } } ∧
       t.lc.queue.tail = rest ∧
       (t.ltx = (t.lc.queue.head?.map fun y => lineLevels (frameChars s.own y.frame)).getD []) ∧
       (t.lc.queue.head?.map (fun y => (y.id, y.retry)) = some (x.id, x.retry)) ∧
       (kindOf x.frame ≠ .report → t.lc.queue.head? = some x) ∧
       (t.lc.queue.head?.map QFrame.frame = some (match x.frame with
        | .report seq tier weight want floor sess tag _ fp =>
          .report seq tier weight want floor sess tag
            (quantaWhere s.map fun _ e => match e with
              | .pending => true
              | .mine => true
              | .draining .conflict _ => false
              | .draining _ _ => true
              | _ => false) fp
        | f => f))) ∧
  (∀ (a s : State),
     s.lc.attempt = none →
     s.lc.tx = .probe →
     s.lc.probeDue = true →
     a = s.pass s.gapWait →
     12 ≤ a.lc.quietUs / (s.conf.d + 1) →
     ∃ t, exec .transmitAttemptStart s = .next t ∧
       t = { a with lc := { a.lc with
          attempt := some (.probe (.join (s.cpi.fingerprint.getD 0) s.conf.nSt s.conf.h) 0 false), probeDue := false,
          quietUs := 0, heldUs := 0 } } ∧
       t.ltx = lineLevels (frameChars s.own (.join (s.cpi.fingerprint.getD 0) s.conf.nSt s.conf.h))) ∧
  (∀ (a s : State),
     a = s.pass s.gapWait →
     (a.lc.quietUs / (s.conf.d + 1) < 12 ∨ s.lc.attempt ≠ none ∨ s.lc.tx = .off ∨ (s.lc.tx = .on ∧ s.lc.queue = []) ∨
         (s.lc.tx = .probe ∧ s.lc.probeDue = false)) →
     ∃ t, exec .transmitAttemptStart s = .next t ∧
       t = s) ∧
  (∀ (a s : State),
     s.started = true →
     s.mc.breakOn = false →
     s.lc.attempt = none →
     s.lc.heldUs = 0 →
     s.lc.line = [] →
     a = s.pass s.gapWait →
     12 ≤ a.lc.quietUs / (s.conf.d + 1) ∧
     a.now * 1000 + a.lc.clockUs.val = s.now * 1000 + s.lc.clockUs.val + (12 * (s.conf.d + 1) - s.lc.quietUs) ∧
     a = { s with now := a.now, ss := { s.ss with session := a.ss.session }
                  lc := { s.lc with quietUs := a.lc.quietUs, clockUs := a.lc.clockUs, lineUs := a.lc.lineUs } }) ∧
  (∀ (l : Level) (rest : List Level) (s : State),
     s.started = true →
     s.mc.breakOn = false →
     s.lc.attempt = none →
     s.lc.heldUs = 0 →
     s.lc.line = l :: rest →
     s.lc.lineUs = 0 →
     (s.pass (s.conf.d + 1)).lc.quietUs = (if l = .dominant then 0 else s.lc.quietUs + (s.conf.d + 1)) ∧
     (s.pass (s.conf.d + 1)).lc.line = rest ∧
     (s.pass (s.conf.d + 1)).lc.lineUs = 0)

/-- A good echo takes the frame from the queue and applies it. In a calm state with distinct age stamps, in a mode in
which frames are taken, the good echo of a queued frame takes it from the queue, sets the consecutive transmit errors
to 0 and the mute hold time to 1000 ms, ends the receive error run, clears RATE_SUSPECT and restarts the echo-silence
watch; a break asked for meanwhile begins (R151). Of a CLAIM: each listed quantum below B_cfg that is Free becomes
Pending, and those settle until 50 ms later; with none the claim ends. Of a RELEASE: each listed Draining quantum
below B_cfg becomes Held by the beneficiary below B_eff, Free without one, Withdrawn from B_eff on (the model's
choice, log 16), and leaves the drain list. Where it lists the last quanta of a session in ENDING, with no own CLAIM
awaiting its echo, the session is EMPTY in the same step, and SESSION_END with the delivered energy, the steps
completed, the end reason (by its code, the model's reading, log 14) and the state left is posted where there is room.
Of an own BUDGET the offer is taken by the table of R5: a newer sequence replaces the own offer and another leaves it;
without an own offer it is added below four, and at four replaces the highest value (lowest source among equals) where
its value is lower; B_eff follows R7, and the map R9 on a fall and R11 on a rise. A fall queues no YIELD-REQ, which
rests on R8; that R8 stands before R93 in the step of the fall is the model's reading (log 71). Of a YIELD-REQ the
answer timeout starts. No other entry changes. The good echo of the probe in MUTED makes the mode ACTIVE, or ISOLATED
after a silent line. (R5, R7, R8, R9, R11, R19, R26, R44, R96, R126, R143, R147, R150, R151, R156, R158, R171) -/
def Obligations.GoodEchoAppliesTheOwnFrame : Prop :=
  (∀ (qs : List Nat) (old : List Nat) (id us : Nat) (last : Bool) (x : QFrame) (s : State),
     s.lc.attempt = some (.frame id us last) →
     (s.lc.queue.find? (fun y => y.id == id) = some x) →
     s.takesFrames = true →
     s.calm →
     s.stamped →
     x.frame = .claim qs →
     s.hc.claim = some (.queued old) →
     ∃ t, exec .goodEcho s = .next t ∧
       (∀ q, q < 128 → t.entry q = if q < s.conf.bCfg ∧ q ∈ qs ∧ s.entry q = .free then .pending else s.entry q) ∧
       ((∃ q ∈ qs, q < s.conf.bCfg ∧ s.entry q = .free) →
        t.hc.claim = some (.settling ((onceEach (qs.filter (· < s.conf.bCfg))).filter fun q => s.entry q == .free) (s.now + 50))) ∧
       ((∀ q ∈ qs, q < s.conf.bCfg → s.entry q ≠ .free) → t.settling = []) ∧
       t = { s with map := t.map, mc := t.mc, lc := t.lc, hc := t.hc, ci := t.ci } ∧
       (t.lc = { s.lc with
          queue := t.lc.queue, waiting := t.lc.waiting, nextId := t.lc.nextId,
          attempt := if s.lc.breakDue then some (.brk 0) else none
          breakDue := false, txErrors := 0, muteHold := 1000, rxRun := 0, rateSuspect := false, quietUs := 0,
          heldUs := 0 }) ∧
       (t.mc = { s.mc with echoSince := s.mc.echoSince.map fun _ => s.now, errSince := false }) ∧
       (∀ f ∈ t.lc.queue ++ t.lc.waiting, f.id ≠ id)) ∧
  (∀ (v : Option Nat) (qs : List Nat) (id us : Nat) (last : Bool) (x : QFrame) (s : State),
     s.lc.attempt = some (.frame id us last) →
     (s.lc.queue.find? (fun y => y.id == id) = some x) →
     s.takesFrames = true →
     s.calm →
     s.stamped →
     x.frame = .release v qs →
     s.shaped →
     ∃ t, exec .goodEcho s = .next t ∧
       (∀ q, q < 128 → t.entry q =
        if q < s.conf.bCfg ∧ q ∈ qs ∧ (s.entry q).isDraining = true then
          match v with
          | none => s.vacant q
          | some u =>
            if u < s.conf.nSt ∧ u ≠ s.own ∧ (s.peerIs u .live = true ∨ s.peerIs u .silent = true) then
              (if q < s.bu.bEff then .held u false else .withdrawn)
            else s.vacant q
        else s.entry q) ∧
       (∀ d ∈ t.hc.drains, d ∈ s.hc.drains ∧ ¬(d.quantum < s.conf.bCfg ∧ d.quantum ∈ qs ∧
           (s.entry d.quantum).isDraining = true)) ∧
       t = { s with map := t.map, mc := t.mc, lc := t.lc, hc := t.hc, ci := t.ci } ∧
       (t.lc = { s.lc with
          queue := t.lc.queue, waiting := t.lc.waiting, nextId := t.lc.nextId,
          attempt := if s.lc.breakDue then some (.brk 0) else none
          breakDue := false, txErrors := 0, muteHold := 1000, rxRun := 0, rateSuspect := false, quietUs := 0,
          heldUs := 0 }) ∧
       (t.mc = { s.mc with echoSince := s.mc.echoSince.map fun _ => s.now, errSince := false }) ∧
       (∀ f ∈ t.lc.queue ++ t.lc.waiting, f.id ≠ id)) ∧
  (∀ (v : Option Nat) (qs : List Nat) (why : EndReason) (left : SessState) (y : Session) (id us : Nat) (last : Bool) (x : QFrame) (s : State),
     s.lc.attempt = some (.frame id us last) →
     (s.lc.queue.find? (fun y => y.id == id) = some x) →
     s.takesFrames = true →
     s.mc.isolateReq = false →
     s.mc.restarting = false →
     (¬(s.ci.conv = .lost ∧ s.ci.lostQuiesce = .expired)) →
     x.frame = .release v qs →
     s.shaped →
     s.ss.session = some y →
     y.phase = .ending why left →
     s.mineCount = 0 →
     s.pendingCount = 0 →
     s.noClaimAwaiting = true →
     (∀ q, q < 128 → (s.entry q).isDraining = true → q ∈ qs ∧ q < s.conf.bCfg) →
     ∃ t, exec .goodEcho s = .next t ∧
       t.ss.session = none ∧
       t.ss.bid = Bid.null ∧
       t.holdsNothing = true ∧
       t.ci.pSet = 0 ∧
       (s.bk.notices.length < 16 → t.bk = { s.bk with
          table := t.bk.table
          notices := s.bk.notices ++
            [{ booking := 255, code := 135, value := y.delivered
               tags := [byteOf y.stepsDone, byteOf (endReasonCode why), byteOf (sessCode left)], urgent := true
               time := s.noticeTime, overrun := false }] }) ∧
       t = { s with map := t.map, mc := t.mc, lc := t.lc, hc := t.hc, ci := t.ci, ss := t.ss, bk := t.bk }) ∧
  (∀ (value seq hold : Nat) (o : Offer) (id us : Nat) (last : Bool) (x : QFrame) (s : State),
     s.lc.attempt = some (.frame id us last) →
     (s.lc.queue.find? (fun y => y.id == id) = some x) →
     s.takesFrames = true →
     s.calm →
     s.stamped →
     x.frame = .budget s.own value seq hold →
     s.shaped →
     s.own < s.conf.nSt →
     s.peerIs s.own .mismatched = false →
     (o = {
        source := s.own, value := min s.conf.bCfg value, seq := seq
        expiry := s.now - s.bk.startAt + max 1 (min 60 hold) * 1000 }) →
     ∃ t, exec .goodEcho s = .next t ∧
       (∀ old ∈ s.bu.offers.find? (fun y : Offer => y.source == s.own),
        (1 ≤ (seq + 256 - old.seq % 256) % 256 ∧ (seq + 256 - old.seq % 256) % 256 ≤ 127 →
          t.bu.offers = s.bu.offers.map fun y => if y.source = s.own then o else y) ∧
        (¬(1 ≤ (seq + 256 - old.seq % 256) % 256 ∧ (seq + 256 - old.seq % 256) % 256 ≤ 127) → t.bu = s.bu)) ∧
       (s.bu.offers.find? (fun y : Offer => y.source == s.own) = none →
        (s.bu.offers.length < 4 → t.bu.offers = s.bu.offers ++ [o]) ∧
        (s.bu.offers.length = 4 → (∀ y ∈ s.bu.offers, y.value ≤ o.value) → t.bu = s.bu) ∧
        (s.bu.offers.length = 4 → ∀ h ∈ s.bu.offers, o.value < h.value →
          (∀ y ∈ s.bu.offers, y.value < h.value ∨ (y.value = h.value ∧ h.source ≤ y.source)) →
          t.bu.offers = s.bu.offers.map fun y => if y.source = h.source then o else y)) ∧
       (t.bu.offers ≠ s.bu.offers →
        t.bu.seen = true ∧ t.bu.bEff = (t.bu.offers.map Offer.value).foldl min s.conf.bCfg) ∧
       t.bu.ownSeq = s.bu.ownSeq ∧
       (∀ q, q < 128 → t.entry q = s.rebudgeted t.bu.bEff q) ∧
       (t.bu.bEff < s.bu.bEff → s.noNewRequest t) ∧
       (t.lc = { s.lc with
          queue := t.lc.queue, waiting := t.lc.waiting, nextId := t.lc.nextId,
          attempt := if s.lc.breakDue then some (.brk 0) else none
          breakDue := false, txErrors := 0, muteHold := 1000, rxRun := 0, rateSuspect := false, quietUs := 0,
          heldUs := 0 }) ∧
       (t.mc = { s.mc with echoSince := s.mc.echoSince.map fun _ => s.now, errSince := false }) ∧
       (∀ f ∈ t.lc.queue ++ t.lc.waiting, f.id ≠ id)) ∧
  (∀ (id us : Nat) (last : Bool) (x : QFrame) (s : State),
     s.lc.attempt = some (.frame id us last) →
     (s.lc.queue.find? (fun y => y.id == id) = some x) →
     s.takesFrames = true →
     s.calm →
     s.stamped →
     kindOf x.frame ≠ .claim →
     kindOf x.frame ≠ .release →
     kindOf x.frame ≠ .budget →
     ∃ t, exec .goodEcho s = .next t ∧
       t = { s with mc := t.mc, lc := t.lc, hc := t.hc, ci := t.ci } ∧
       (∀ r ∈ s.hc.request, x.frame = .yieldReq r.target r.count r.disp r.listed → r.echoAt = none →
        (t.hc.request.map fun m => (m.target, m.echoAt)) = some (r.target, some s.now)) ∧
       (t.lc = { s.lc with
          queue := t.lc.queue, waiting := t.lc.waiting, nextId := t.lc.nextId,
          attempt := if s.lc.breakDue then some (.brk 0) else none
          breakDue := false, txErrors := 0, muteHold := 1000, rxRun := 0, rateSuspect := false, quietUs := 0,
          heldUs := 0 }) ∧
       (t.mc = { s.mc with echoSince := s.mc.echoSince.map fun _ => s.now, errSince := false }) ∧
       (∀ f ∈ t.lc.queue ++ t.lc.waiting, f.id ≠ id)) ∧
  (∀ (join : Frame) (us : Nat) (s : State),
     s.lc.attempt = some (.probe join us false) →
     s.mc.mode = .muted →
     s.calm →
     ∃ t, exec .goodEcho s = .next t ∧
       (t.mc.mode = if s.mc.solo = false ∧ s.conf.lSil * s.conf.tEp ≤ s.sinceLineHeard then .isolated else .active) ∧
       t.lc.tx = .on ∧
       t.lc.txErrors = 0 ∧
       t.lc.muteHold = 1000 ∧
       (t.lc.attempt = if s.lc.breakDue then some (.brk 0) else none) ∧
       (t.mc.mode = .active → t.map = s.map) ∧
       (t.bu = s.bu ∧ t.ptu = s.ptu ∧ t.ae = s.ae))

/-- Lost arbitration keeps the frame; a transmit error counts, retries, and drops at the fourth; the end of a LEAVE
ends its drain. In a calm state with distinct age stamps, an attempt not marked as the last. Lost arbitration within
the start bit and the data bits of the arbitration character ends it, no error count changes, and the frame comes back
with its retry count; no quiet time of the line counts for as long as the longest frame lasts, 370 bit times, unless
an own break follows (log 4); past them it is passed over (log 3). A transmit error in ACTIVE or ISOLATED, below the
sixteenth, adds 1 to the consecutive transmit error count with the mode as it was, also past the echo-silence limit
(log 75, the model's choice), and a frame with retry count below 3 comes back with the count raised by 1. Coming back,
a frame of class 0 to 3 stays queued and so do the others of class 0 to 3; a newer REPORT or BUDGET takes the place of
the one that comes back with retry count 0, and no other CONTEST lists a quantum of a CONTEST that comes back (R103;
log 55, the model's choice). A frame with count 3 leaves the queue, TX_DROPPED with its kind is posted where there is
room (by its kind character, the model's choice, log 60), and the Draining quanta of a dropped RELEASE become Free or
Withdrawn, with no other entry changing. A probe that loses arbitration is due again; one that meets a transmit error
in MUTED doubles the mute hold time up to 8000 ms and starts the timer again. Where the LEAVE of an isolate drain or
of a restart is on the line, the only one queued, with nothing held, no claim and no ENDING session, its good echo,
and the transmit error at its retry count 3, end that drain (in MUTED, and in OFFLINE with a restart, where the part
may have gone on at the entry, the model's choice, log 76): without a restart the mode is OFFLINE with the transmitter
off, the queue empty and the map unchanged; with one the clearing point comes, in LISTENING (TRIP deasserted), with
the blocks cleared. (R30, R102, R103, R105, R146, R147, R148, R149, R150, R161, R181, R182) -/
def Obligations.FailedAttemptsAreRetriedOrDropped : Prop :=
  (∀ (id us : Nat) (x : QFrame) (s : State),
     us ≤ 9 * (s.conf.d + 1) →
     s.lc.attempt = some (.frame id us false) →
     (s.lc.queue.find? (fun y => y.id == id) = some x) →
     s.calm →
     s.stamped →
     ∃ t, exec .lostArbitration s = .next t ∧
       (State.endOf { s with lc := { s.lc with
          queue := t.lc.queue, attempt := if s.lc.breakDue then some (.brk 0) else none, breakDue := false, quietUs := 0
          heldUs := if s.lc.breakDue then 0 else 370 * (s.conf.d + 1) } } t) ∧
       (kindOf x.frame ∉ [.report, .budget, .contest] ∨ (kindOf x.frame ≠ .contest ∧ (s.lc.queue ++
           s.lc.waiting).find? (fun y => y.id != id && kindOf y.frame == kindOf x.frame) = none) →
        (classOf x.frame < 4 → x ∈ t.lc.queue) ∧ ∀ f ∈ s.lc.queue, f.id ≠ id → classOf f.frame < 4 → f ∈ t.lc.queue) ∧
       (kindOf x.frame = .report ∨ kindOf x.frame = .budget → ∀ z ∈ (s.lc.queue ++
           s.lc.waiting).find? (fun y => y.id != id && kindOf y.frame == kindOf x.frame),
        (kindOf x.frame = .budget ∨ (s.lc.queue.length ≤ 7 ∧ s.lc.waiting = []) →
          { x with frame := z.frame, retry := 0 } ∈ t.lc.queue) ∧
        ∀ f ∈ t.lc.queue ++ t.lc.waiting, f.id ≠ z.id) ∧
       (∀ qs, x.frame = .contest qs →
        x ∈ t.lc.queue ∧ (∀ q, s.contests q → t.contests q) ∧
        ∀ f ∈ t.lc.queue ++ t.lc.waiting, f.id ≠ id → ∀ ps, f.frame = .contest ps → ∀ q ∈ ps, q ∉ qs)) ∧
  (∀ (id us : Nat) (x : QFrame) (s : State),
     s.lc.attempt = some (.frame id us false) →
     (s.lc.queue.find? (fun y => y.id == id) = some x) →
     (s.mc.mode = .active ∨ s.mc.mode = .isolated) →
     s.lc.txErrors < 15 →
     x.retry < 3 →
     s.calm →
     s.stamped →
     ∃ t, exec .transmitError s = .next t ∧
       t.mc = { s.mc with errSince := true } ∧
       t.lc.txErrors = s.lc.txErrors + 1 ∧
       t.map = s.map ∧
       (kindOf x.frame ∉ [.report, .budget, .contest] ∨ (kindOf x.frame ≠ .contest ∧ (s.lc.queue ++
           s.lc.waiting).find? (fun y => y.id != id && kindOf y.frame == kindOf x.frame) = none) →
        (classOf x.frame < 4 → { x with retry := x.retry + 1 } ∈ t.lc.queue) ∧ ∀ f ∈ s.lc.queue, f.id ≠ id →
            classOf f.frame < 4 → f ∈ t.lc.queue) ∧
       (kindOf x.frame = .report ∨ kindOf x.frame = .budget → ∀ z ∈ (s.lc.queue ++
           s.lc.waiting).find? (fun y => y.id != id && kindOf y.frame == kindOf x.frame),
        (kindOf x.frame = .budget ∨ (s.lc.queue.length ≤ 7 ∧ s.lc.waiting = []) →
          { x with frame := z.frame, retry := 0 } ∈ t.lc.queue) ∧
        ∀ f ∈ t.lc.queue ++ t.lc.waiting, f.id ≠ z.id) ∧
       (∀ qs, x.frame = .contest qs →
        { x with retry := x.retry + 1 } ∈ t.lc.queue ∧ (∀ q, s.contests q → t.contests q) ∧
        ∀ f ∈ t.lc.queue ++ t.lc.waiting, f.id ≠ id → ∀ ps, f.frame = .contest ps → ∀ q ∈ ps, q ∉ qs) ∧
       t = { s with mc := t.mc, lc := t.lc, hc := t.hc, ci := t.ci }) ∧
  (∀ (id us : Nat) (x : QFrame) (s : State),
     s.lc.attempt = some (.frame id us false) →
     (s.lc.queue.find? (fun y => y.id == id) = some x) →
     (s.mc.mode = .active ∨ s.mc.mode = .isolated) →
     s.lc.txErrors < 15 →
     x.retry = 3 →
     s.calm →
     s.stamped →
     s.shaped →
     ∃ t, exec .transmitError s = .next t ∧
       t.mc = { s.mc with errSince := true } ∧
       t.lc.txErrors = s.lc.txErrors + 1 ∧
       (∀ f ∈ t.lc.queue ++ t.lc.waiting, f.id ≠ id) ∧
       (s.bk.notices.length < 16 → t.bk = { s.bk with
        notices := s.bk.notices ++ [systemNotice .txDropped (kindChar (kindOf x.frame)) [0, 0, 0] s.noticeTime] }) ∧
       (∀ q, q < 128 → t.entry q =
        match x.frame with
        | .release _ qs => if q ∈ qs ∧ (s.entry q).isDraining = true then s.vacant q else s.entry q
        | _ => s.entry q) ∧
       t = { s with map := t.map, mc := t.mc, lc := t.lc, hc := t.hc, ci := t.ci, bk := t.bk }) ∧
  (∀ (join : Frame) (us : Nat) (s : State),
     us ≤ 9 * (s.conf.d + 1) →
     s.lc.attempt = some (.probe join us false) →
     s.calm →
     ∃ t, exec .lostArbitration s = .next t ∧
       (State.endOf { s with lc := { s.lc with
          attempt := if s.lc.breakDue then some (.brk 0) else none, breakDue := false, quietUs := 0
          heldUs := if s.lc.breakDue then 0 else 370 * (s.conf.d + 1), probeDue := true } } t)) ∧
  (∀ (join : Frame) (us : Nat) (s : State),
     s.lc.attempt = some (.probe join us false) →
     s.mc.mode = .muted →
     s.calm →
     ∃ t, exec .transmitError s = .next t ∧
       (State.endOf { s with lc := { s.lc with
          attempt := if s.lc.breakDue then some (.brk 0) else none, breakDue := false, quietUs := 0, heldUs := 0
          muteHold := min 8000 (2 * s.lc.muteHold), muteAt := some (s.now + min 8000 (2 * s.lc.muteHold)) } } t)) ∧
  (∀ (c : Instr) (id us : Nat) (last : Bool) (x : QFrame) (s : State),
     (c = .goodEcho ∨ c = .transmitError ∧ x.retry = 3) →
     s.lc.attempt = some (.frame id us last) →
     (s.lc.queue.find? (fun y => y.id == id) = some x) →
     x.frame = .leave →
     (∀ y ∈ s.lc.queue ++ s.lc.waiting, y.frame = .leave → y.id = id) →
     s.mc.leaving = true →
     s.holdsNothing = true →
     s.hc.claim = none →
     s.sessionEnding = false →
     s.stamped →
     s.working = true →
     s.mc.isolateReq = true →
     s.mc.restarting = false →
     ∃ t, exec c s = .next t ∧
       t.mc = { s.mc with
          mode := .offline, leaving := false, listenAt := none, echoSince := none, errSince := false } ∧
       t.lc.tx = .off ∧
       (t.lc.queue = [] ∧ t.lc.waiting = []) ∧
       t.lc.muteAt = none ∧
       (t.lc.attempt = if s.lc.breakDue then some (.brk 0) else none) ∧
       t.map = s.map ∧
       t.hc.sweep = none ∧
       (t.ci.pSet = 0 ∧ t.ci.sendValue = 0) ∧
       (s.charging = true → s.bookingsNotify → t.ss.session.map Session.phase = some (.suspended .offline)) ∧
       t = { s with map := t.map, mc := t.mc, lc := t.lc, hc := t.hc, ci := t.ci, ss := t.ss, bk := t.bk }) ∧
  (∀ (c : Instr) (id us : Nat) (last : Bool) (x : QFrame) (s : State),
     (c = .goodEcho ∨ c = .transmitError ∧ x.retry = 3) →
     s.lc.attempt = some (.frame id us last) →
     (s.lc.queue.find? (fun y => y.id == id) = some x) →
     x.frame = .leave →
     (∀ y ∈ s.lc.queue ++ s.lc.waiting, y.frame = .leave → y.id = id) →
     s.mc.leaving = true →
     s.holdsNothing = true →
     s.hc.claim = none →
     s.sessionEnding = false →
     s.stamped →
     (s.working = true ∨ s.mc.mode = .offline) →
     s.mc.restarting = true →
     s.io.trip = false →
     ∃ t, exec c s = .next t ∧
       s.cleared t ∧
       (t.lc.queue = [] ∧ t.lc.waiting = []) ∧
       (t.lc.attempt = if s.lc.breakDue then some (.brk 0) else none) ∧
       t.bk.startAt = s.bk.startAt ∧
       t = { s with
          map := t.map, mc := t.mc, lc := t.lc, bu := t.bu, ptu := t.ptu, ae := t.ae, hc := t.hc, ci := t.ci,
          ss := t.ss, bk := t.bk }) ∧
  (∀ (id us : Nat) (last : Bool) (s : State),
     9 * (s.conf.d + 1) < us →
     s.lc.attempt = some (.frame id us last) →
     ∃ t, exec .lostArbitration s = .next t ∧
       t = s)

/-- An offer leaves the list at its expiry, and B_eff and the map follow. In a calm state whose map has its 128
entries, at the expiry of a source's offer: that source's offers leave the list, the offers-seen flag and the own
sequence are unchanged; B_eff becomes the least of B_cfg and the remaining values, and with an empty list B_safe where
offers have been seen and B_cfg where not; each entry follows R9 on a fall and R11 on a rise; a fall queues no
YIELD-REQ, which rests on R8, and that R8 stands before R93 in the step of the fall is the model's reading (log 71).
The clock comes to the expiry time (log 2). (R6, R7, R8, R9, R11) -/
def Obligations.OfferExpiryRemovesTheOffer : Prop :=
  ∀ (src : BitVec 5) (o : Offer) (a s : State),
    (s.bu.offers.find? (fun y => y.source == src.toNat) = some o) →
    s.calm →
    s.map.length = 128 →
    a = s.atTime (s.bk.startAt + o.expiry) →
    ∃ t, exec (.offerExpiry src) s = .next t ∧
      t.now = a.now ∧
      (t.bu.offers = s.bu.offers.filter (fun y => y.source ≠ src.toNat)) ∧
      (t.bu.seen = s.bu.seen ∧ t.bu.ownSeq = s.bu.ownSeq) ∧
      (t.bu.bEff = (if t.bu.offers = [] then (if s.bu.seen then s.conf.bSafe else s.conf.bCfg)
        else (t.bu.offers.map Offer.value).foldl min s.conf.bCfg)) ∧
      (∀ q, q < 128 → t.entry q = s.rebudgeted t.bu.bEff q) ∧
      (t.bu.bEff < s.bu.bEff → s.noNewRequest t) ∧
      t = { a with map := t.map, bu := t.bu, lc := t.lc, hc := t.hc, ci := t.ci, ss := t.ss, bk := t.bk } ∧
      t.setpointFormed

/-- At the settle expiry the Pending quanta of the claim become Mine. In a calm state, at the settle expiry of a claim:
each of its quanta that is still Pending becomes Mine; with the converter LOST it becomes Draining with reason
Shutdown, in every mode, and otherwise in ISOLATED and MUTED one that is not an own home quantum becomes Draining with
reason Isolation; no other entry changes; the claim has ended; each quantum made Draining is in the drain list. That
R136 stands before R156 and R158 for a quantum that settles in ISOLATED or MUTED while the converter is LOST is the
model's reading (log 58), and the clock comes to the expiry time (log 2). (R20, R136, R156, R158) -/
def Obligations.SettleExpiryMakesPendingMine : Prop :=
  ∀ (qs : List Nat) (T : Nat) (a s : State),
    s.hc.claim = some (.settling qs T) →
    s.calm →
    a = s.atTime T →
    ∃ t, exec .settleExpiry s = .next t ∧
      t.now = a.now ∧
      (∀ q, q < 128 → t.entry q =
        if q ∈ qs ∧ s.entry q = .pending then
          if s.ci.conv = .lost then .draining .shutdown none
          else if (s.mc.mode = .isolated ∨ s.mc.mode = .muted) ∧ s.ownHome q = false then .draining .isolation none
          else .mine
        else s.entry q) ∧
      t.settling = [] ∧
      (∀ q, q < 128 → (t.entry q).isDraining = true → (s.entry q).isDraining = false →
          q ∈ t.hc.drains.map Drain.quantum) ∧
      t = { a with map := t.map, lc := t.lc, hc := t.hc, ci := t.ci } ∧
      t.lc = { a.lc with queue := t.lc.queue, waiting := t.lc.waiting, nextId := t.lc.nextId } ∧
      t.setpointFormed

/-- The listening period ends in ACTIVE with a JOIN queued, or in OFFLINE. At the expiry of the listening timer, in a
state with no restart, no ENDING session and no expired LOST quiesce: with the OFFLINE level deasserted, the isolate
request clear and no DUPLICATE the mode is ACTIVE with the transmitter on and, with an empty queue, a JOIN with the
own fingerprint, N_st and H is queued; otherwise the mode is OFFLINE with the transmitter off. In both the epoch timer
is started with T_ep, the timer stopped, the solo flag set where no line-heard time is held and unchanged otherwise,
and the offers, the peer table and, in ACTIVE or with an empty queue, the map are unchanged. A CHARGING session, with
bookings that only notify, is SUSPENDED with reason OFFLINE at the entry to OFFLINE. At the entry to ACTIVE, with such
bookings, a session SUSPENDED with reason OFFLINE takes reason CONVERTER where the converter is FAULT or LOST;
otherwise it is CHARGING where its step stands or can be entered (not HALT), neither its acceptance nor its deadline
condition holds and E_rem is above 0, the step being entered with step time and step energy 0 where it has not been,
and COMPLETE where E_rem is 0; any other session is unchanged. The recorded level (log 5), the clock (log 2) and that
the frame on the line stays at the entry to OFFLINE (log 26) are the model's choice. (R54, R56, R68, R84, R112, R113,
R116, R123, R124, R140, R161, R163) -/
def Obligations.ListeningExpiryEndsTheListening : Prop :=
  ∀ (level : Bool) (T : Nat) (a s : State),
    s.mc.mode = .listening →
    s.mc.listenAt = some T →
    s.mc.restarting = false →
    s.sessionEnding = false →
    (¬(s.ci.conv = .lost ∧ s.ci.lostQuiesce = .expired)) →
    a = s.atTime T →
    ∃ t, exec (.listeningExpiry level) s = .next t ∧
      (t.mc.mode = if level = true ∨ s.mc.isolateReq = true ∨ s.mc.duplicate = true then .offline else .active) ∧
      (t.lc.tx = if t.mc.mode = .active then .on else .off) ∧
      (t.mc.mode = .active → s.lc.queue = [] → s.lc.waiting = [] →
        t.queues fun f => f == .join (s.cpi.fingerprint.getD 0) s.conf.nSt s.conf.h) ∧
      t.mc.listenAt = none ∧
      t.ae = { s.ae with epochAt := some (a.now + s.conf.tEp) } ∧
      t.mc.solo = (s.mc.solo || s.ptu.lineHeard.isNone) ∧
      (t.mc.isolateReq = s.mc.isolateReq ∧ t.mc.duplicate = s.mc.duplicate) ∧
      (t.bu = s.bu ∧ t.ptu = s.ptu ∧ t.cpi = s.cpi) ∧
      (t.mc.mode = .active ∨ s.lc.queue = [] ∧ s.lc.waiting = [] → t.map = s.map) ∧
      t.io = { s.io with offline := level } ∧
      t.now = a.now ∧
      (t.mc.mode = .offline → s.charging = true → s.bookingsNotify →
          t.ss.session.map Session.phase = some (.suspended .offline)) ∧
      (t.mc.mode = .active → s.bookingsNotify → ∀ x ∈ a.ss.session,
        (x.phase ≠ .suspended .offline → t.ss.session = some x) ∧
        (x.phase = .suspended .offline → s.ci.conv = .fault ∨ s.ci.conv = .lost →
          t.ss.session = some { x with phase := .suspended .converter }) ∧
        (x.phase = .suspended .offline → s.ci.conv ≠ .fault → s.ci.conv ≠ .lost →
          (x.eRem = 0 → t.ss.session.map Session.phase = some .complete) ∧
          (0 < x.eRem → ∀ st ∈ x.step, st.endAcceptance = 0 ∨ st.endAcceptance ≤ x.pAcc →
            st.endAtDeadline = false ∨ x.runOut = false → st.kind ≠ .halt ∨ x.entered = true →
            t.ss.bid = t.deriveBid ∧ t.ss.session = some (if x.entered then { x with phase := .charging } else { x with
              phase := .charging, entered := true, stepMark := x.joules, stepEnergy := 0, stepTime := 0 })))) ∧
      t.setpointFormed

/-- A Live entry becomes Silent, and a Silent one Expelled with its other holdings freed. In a calm state, in a mode
in which frames are taken: L_sil x T_ep after its last valid frame a Live entry becomes Silent, and no map entry
changes; L_exp x T_ep after it a Silent entry becomes Expelled, each entry Held by the station that is not its home
quantum becomes Free or Withdrawn, each own Draining entry with that beneficiary that is not its home quantum loses
it, and no other entry changes. The entry is otherwise unchanged, and so are the other peer entries, the offers and
the result. At the silence limit an ARMED booking on PEER_SILENT for that station whose mark is clear fires, where no
other booking is on it or on any station: its mark is set; SHED and FREEZE set theirs, SHED with the bid derived
again, also where the SHED mark was already set (the model's reading, log 53), and SUSPEND makes a CHARGING or
SUSPENDED session SUSPENDED with reason BOOKING; the notice with the booking number, the value, the tag bytes, the
urgency and the time is posted where there is room, or withheld with the booking PENDING where it is INFO and more
than 8 wait; the booking is otherwise ARMED under REPEAT and SPENT under ONCE. One whose mark is set does not fire.
The clock comes to the limit (log 2). (R36, R37, R49, R50, R60, R120, R167, R168, R169, R171, R172) -/
def Obligations.PeerLimitsAgeTheEntry : Prop :=
  (∀ (u : BitVec 5) (x : Peer) (h : Nat) (a s : State),
     s.takesFrames = true →
     s.ptu.entries[u.toNat]? = some x →
     x.state = .live →
     x.heardAt = some h →
     s.calm →
     a = s.atTime (h + s.conf.lSil * s.conf.tEp) →
     ∃ t, exec (.peerSilenceLimit u) s = .next t ∧
       t.ptu = { s.ptu with entries := s.ptu.entries.set u.toNat { x with state := .silent } } ∧
       t.map = s.map ∧
       t = { a with ptu := t.ptu, lc := t.lc, hc := t.hc, ci := t.ci, ss := t.ss, bk := t.bk }) ∧
  (∀ (u : BitVec 5) (x : Peer) (h : Nat) (a s : State),
     s.takesFrames = true →
     s.ptu.entries[u.toNat]? = some x →
     x.state = .silent →
     x.heardAt = some h →
     s.calm →
     a = s.atTime (h + s.conf.lExp * s.conf.tEp) →
     ∃ t, exec (.peerExpulsionLimit u) s = .next t ∧
       t.ptu = { s.ptu with entries := s.ptu.entries.set u.toNat { x with state := .expelled } } ∧
       (∀ q, q < 128 → t.entry q =
        if s.conf.homeStation q = some u.toNat then s.entry q
        else match s.entry q with
          | .held v m => if v = u.toNat then s.vacant q else .held v m
          | .draining r (some v) => if v = u.toNat then .draining r none else .draining r (some v)
          | e => e) ∧
       t = { a with map := t.map, ptu := t.ptu, lc := t.lc, hc := t.hc, ci := t.ci, ss := t.ss, bk := t.bk }) ∧
  (∀ (u : BitVec 5) (x : Peer) (h i : Nat) (b : Booking) (a s : State),
     s.takesFrames = true →
     s.ptu.entries[u.toNat]? = some x →
     x.state = .live →
     x.heardAt = some h →
     s.calm →
     i < 12 →
     s.bk.table[i]? = some (some b) →
     b.trigger = .peerSilent (some u.toNat) →
     b.state = .armed →
     ((s.bk.table.zipIdx.all fun z => z.2 == i || z.1.all fun y =>
        y.trigger != .peerSilent (some u.toNat) && y.trigger != .peerSilent none) = true) →
     a = s.atTime (h + s.conf.lSil * s.conf.tEp) →
     ∃ t, exec (.peerSilenceLimit u) s = .next t ∧
       (t.bk = if b.mark then s.bk else s.bk.fired i b 0 u.toNat a.noticeTime) ∧
       (t.ss.session = if b.mark = false ∧ b.action = .suspend then a.ss.session.map fun y => match y.phase with
          | .charging => { y with phase := .suspended .booking }
          | .suspended _ => { y with phase := .suspended .booking }
          | _ => y
        else a.ss.session) ∧
       (b.mark = false → b.action = .shed ∨ b.action = .suspend ∧ s.ss.session ≠ none → t.ss.bid = t.deriveBid) ∧
       t.ptu = { s.ptu with entries := s.ptu.entries.set u.toNat { x with state := .silent } } ∧
       t = { a with ptu := t.ptu, lc := t.lc, hc := t.hc, ci := t.ci, ss := t.ss, bk := t.bk } ∧
       t.setpointFormed)

/-- An epoch expiry derives the bid, queues the REPORT, computes and hands on the target. In a calm state whose map has
its 128 entries, with distinct age stamps and the Pending quanta those of the claim in settle: the epoch sequence
rises by 1 modulo 256, the next expiry is T_ep later; the result record carries that sequence, B_eff, the count of
entries below B_eff Held by a Silent or Expelled station as reserved, A = B_eff less that, the own station and every
Live one as participants, the want and floor of the bid just derived, as targets the grants of the division of A among
them (R74 to R77), its spare count and flags; the flags are ORed into the sticky flags. In ACTIVE, ISOLATED and MUTED
the own target is handed on, and what is held above it is given up, so that the held count is the lesser of the two;
in OFFLINE the map and the target are unchanged. In ACTIVE and ISOLATED, with at most four frames queued, a REPORT
with the sequence and the bid is queued. Peer table, offers and mode are unchanged. Bookings only notify. In ACTIVE
and CHARGING, with no FREEZE, no claim and no CLAIM queued, n being the own target less the held and the promised-to-
me count and above 0: with eligible quanta a CLAIM of up to n and 8 of them is queued and is the claim, the own home
quanta first, then the others, each in ascending order; with none, no request outstanding and no YIELD-REQ queued, the
sweep sends its first YIELD-REQ, which is the outstanding request: of disposition HOME to the lowest Live station that
holds own home quanta below B_eff, for up to n of them, lowest first; with no such station, SURPLUS to the first donor
in the order of R94, for the least of n, its surplus and 8, or under ROTATE to the first Live station after the rotate
pointer whose held count exceeds its floor, for the least of n, that excess and 8, the pointer going to it. The clock
at the expiry (log 2), and the sequence recorded as that of the last REPORT when it is offered to the queue (log 23),
are the model's choice. (R60, R68, R69, R70, R71, R72, R73, R74, R75, R76, R77, R80, R81, R84, R85, R90, R91, R93,
R94, R95) -/
def Obligations.EpochExpiryReportsAndDivides : Prop :=
  (∀ (T : Nat) (a s : State),
     s.ae.epochAt = some T →
     s.calm →
     s.map.length = 128 →
     s.stamped →
     s.pendingSettles →
     a = s.atTime T →
     s.bookingsNotify →
     ∃ t, exec .epochExpiry s = .next t ∧
       t.now = a.now ∧
       t.ae.seq = (s.ae.seq + 1) % 256 ∧
       t.ae.epochAt = some (a.now + s.conf.tEp) ∧
       (t.ae.result.map (fun z => (z.seq, z.bEff, z.reserved, z.a)) =
        some ((s.ae.seq + 1) % 256, s.bu.bEff, s.reservedCount, s.bu.bEff - s.reservedCount)) ∧
       (t.ae.result.map (fun z => (z.ownWant, z.ownFloor, z.flags.saturated)) =
        some (a.deriveBid.want, a.deriveBid.floor, a.deriveBid.saturated)) ∧
       (t.ae.result.map (fun z => (z.targets, z.ownTarget, z.spareCount)) = some
        ( (List.range 32).map (grantOf (divide t.participants (s.bu.bEff - s.reservedCount)).1)
        , grantOf (divide t.participants (s.bu.bEff - s.reservedCount)).1 s.own
        , (divide t.participants (s.bu.bEff - s.reservedCount)).2.1)) ∧
       (t.ae.result.map (fun z => (z.flags.floorShort, z.flags.inexact, z.flags.spare, z.flags.reserved)) = some
        ( (divide t.participants (s.bu.bEff - s.reservedCount)).2.2.1
        , (divide t.participants (s.bu.bEff - s.reservedCount)).2.2.2
        , decide (0 < (divide t.participants (s.bu.bEff - s.reservedCount)).2.1)
        , decide (0 < s.reservedCount))) ∧
       (t.ae.result.map Result.participants = some ((List.range s.ptu.entries.length).filter fun k => k == s.own || s.peerIs k .live)) ∧
       t.ae.sticky = s.ae.sticky.or ((t.ae.result.map Result.flags).getD CompFlags.clear) ∧
       t.ss.bid = a.deriveBid ∧
       (s.working = true → t.hc.target = t.recordTarget ∧ t.heldCount = min s.heldCount t.recordTarget) ∧
       (s.working = false → t.map = s.map ∧ t.hc.target = s.hc.target) ∧
       (s.mc.mode = .active ∨ s.mc.mode = .isolated → s.lc.queue.length ≤ 4 → s.lc.waiting = [] → s.pendingCount ≤ 8 →
        t.ae.lastReportSeq = (s.ae.seq + 1) % 256 ∧
        t.queues fun f => match f with
          | .report seq tier weight want floor sess tag _ fp =>
            seq == (s.ae.seq + 1) % 256 && tier == a.deriveBid.tier && weight == a.deriveBid.weight && want == a.deriveBid.want &&
              floor == a.deriveBid.floor && sess == sessCode s.sessState && tag == s.vehicleTag &&
              fp == s.cpi.fingerprint.getD 0
          | _ => false) ∧
       t = { a with map := t.map, ae := t.ae, lc := t.lc, hc := t.hc, ci := t.ci, ss := t.ss, bk := t.bk } ∧
       t.setpointFormed) ∧
  (∀ (T : Nat) (e : List Nat) (a s : State),
     s.ae.epochAt = some T →
     s.calm →
     s.map.length = 128 →
     s.stamped →
     s.pendingSettles →
     a = s.atTime T →
     s.bookingsNotify →
     s.freeToClaim →
     (e = (List.range 128).filter fun q => s.entry q == .free && decide (q < s.bu.bEff) &&
          match s.conf.homeStation q with
          | none => true
          | some v => v == s.own || s.peerIs v .absent || s.peerIs v .left) →
     e ≠ [] →
     ∃ t, exec .epochExpiry s = .next t ∧
       (0 < s.needFor t.recordTarget →
        t.hc.claim = some (.queued ((e.filter s.ownHome ++
            e.filter fun q => !s.ownHome q).take (min (s.needFor t.recordTarget) 8))) ∧
        t.queues fun f => f == .claim ((e.filter s.ownHome ++
            e.filter fun q => !s.ownHome q).take (min (s.needFor t.recordTarget) 8)))) ∧
  (∀ (T : Nat) (u : BitVec 5) (hs : List Nat) (a s : State),
     s.ae.epochAt = some T →
     s.calm →
     s.map.length = 128 →
     s.stamped →
     s.pendingSettles →
     a = s.atTime T →
     s.bookingsNotify →
     s.freeToAsk →
     u.toNat < s.conf.nSt →
     s.peerIs u.toNat .live = true →
     s.noHomeAskedBelow u.toNat →
     (hs = (List.range 128).filter fun q =>
        (s.entry q).heldBy u.toNat && decide (q < s.bu.bEff ∧ s.conf.homeStation q = some s.own)) →
     hs ≠ [] →
     ∃ t, exec .epochExpiry s = .next t ∧
       (0 < s.needFor t.recordTarget →
        t.hc.request = some {
          target := u.toNat, disp := .home, count := min (s.needFor t.recordTarget) hs.length,
          listed := hs.take (s.needFor t.recordTarget), echoAt := none
          ofSweep := true, answered := false } ∧
        t.queues fun f => f ==
          .yieldReq u.toNat (min (s.needFor t.recordTarget) hs.length) .home (hs.take (s.needFor t.recordTarget)))) ∧
  (∀ (T : Nat) (u : BitVec 5) (a s : State),
     s.ae.epochAt = some T →
     s.calm →
     s.map.length = 128 →
     s.stamped →
     s.pendingSettles →
     a = s.atTime T →
     s.bookingsNotify →
     s.freeToAsk →
     s.noHomeAskedBelow s.conf.nSt →
     policyOf s.conf.policy ≠ .rotate →
     u.toNat < s.conf.nSt →
     u.toNat ≠ s.own →
     s.peerIs u.toNat .live = true →
     ∃ t, exec .epochExpiry s = .next t ∧
       (0 < s.needFor t.recordTarget → 0 < s.surplusOver t u.toNat →
        (∀ v, v < s.conf.nSt → v ≠ s.own → v ≠ u.toNat → s.peerIs v .live = true →
          s.surplusOver t v < s.surplusOver t u.toNat ∨
          (s.surplusOver t v = s.surplusOver t u.toNat ∧
            (s.unansweredBy u.toNat < s.unansweredBy v ∨
              (s.unansweredBy u.toNat = s.unansweredBy v ∧ u.toNat < v)))) →
        t.hc.request = some {
          target := u.toNat, disp := .surplus,
          count := min (min (s.needFor t.recordTarget) (s.surplusOver t u.toNat)) 8, listed := []
          echoAt := none, ofSweep := true, answered := false } ∧
        t.queues fun f => f ==
          .yieldReq u.toNat (min (min (s.needFor t.recordTarget) (s.surplusOver t u.toNat)) 8) .surplus [])) ∧
  (∀ (T i : Nat) (u : BitVec 5) (a s : State),
     s.ae.epochAt = some T →
     s.calm →
     s.map.length = 128 →
     s.stamped →
     s.pendingSettles →
     a = s.atTime T →
     s.bookingsNotify →
     s.freeToAsk →
     s.noHomeAskedBelow s.conf.nSt →
     policyOf s.conf.policy = .rotate →
     i < s.conf.nSt →
     u.toNat = (s.hc.rotate + 1 + i) % s.conf.nSt →
     u.toNat ≠ s.own →
     s.peerIs u.toNat .live = true →
     s.bidFloorOf u.toNat < s.heldCountOf u.toNat →
     (∀ j, j < i → (s.hc.rotate + 1 + j) % s.conf.nSt = s.own ∨
         s.peerIs ((s.hc.rotate + 1 + j) % s.conf.nSt) .live = false ∨
        s.heldCountOf ((s.hc.rotate + 1 + j) % s.conf.nSt) ≤ s.bidFloorOf ((s.hc.rotate + 1 + j) % s.conf.nSt)) →
     ∃ t, exec .epochExpiry s = .next t ∧
       (0 < s.needFor t.recordTarget →
        t.hc.rotate = u.toNat ∧
        t.hc.request = some {
          target := u.toNat, disp := .surplus
          count := min (min (s.needFor t.recordTarget) (s.heldCountOf u.toNat - s.bidFloorOf u.toNat)) 8, listed := []
          echoAt := none, ofSweep := true, answered := false } ∧
        t.queues fun f => f == .yieldReq u.toNat
          (min (min (s.needFor t.recordTarget) (s.heldCountOf u.toNat - s.bidFloorOf u.toNat)) 8) .surplus []))

/-- A drain timeout raises DRAIN_STUCK; the quiesce expiries complete every drain. In a calm state, the clock coming to
the expiry (log 2). At the earliest drain timeout the entries due become stuck, DRAIN_STUCK is set, and where it was
clear the quiesce timer is started with T_q and the notice DRAIN_STUCK with the number of stuck entries is posted
where there is room; the map is unchanged. At the quiesce expiry, and at the LOST quiesce expiry, every entry of the
drain list completes: Conflict becomes Held by the winner, or Free or Withdrawn without one; the others are freed
locally in MUTED, in OFFLINE, under DUPLICATE and, where R55 has no RELEASE queued, in LISTENING (the model's choice,
log 56), and otherwise stay Draining with their RELEASE to the beneficiary queued; the list is empty. The first clears
DRAIN_STUCK and stops the timer; the second leaves the LOST timer expired. That every entry due at the earliest
timeout is taken at once, and counted in the notice (log 24), that an entry at or above B_eff whose drain completes
stays Draining until the echo of its RELEASE (log 16), and that DRAIN_STUCK is unchanged at the LOST quiesce expiry
(log 46), are the model's choice. (R29, R30, R55, R87, R88, R89, R136) -/
def Obligations.DrainTimersStickAndComplete : Prop :=
  (∀ (T : Nat) (a s : State),
     s.ci.conv ≠ .lost →
     (((s.hc.drains.filter fun d => !d.stuck).map Drain.timeoutAt).min? = some T) →
     s.calm →
     a = s.atTime T →
     ∃ t, exec .drainTimeout s = .next t ∧
       (t.hc.drains = s.hc.drains.map fun d => if d.timeoutAt ≤ T then { d with stuck := true } else d) ∧
       t.hc.stuck = true ∧
       t.ci.inhibit = true ∧
       (t.hc.quiesceAt = if s.hc.stuck then s.hc.quiesceAt else some (a.now + s.conf.tQ)) ∧
       t.map = s.map ∧
       (s.hc.stuck = true → t.bk = s.bk) ∧
       (s.hc.stuck = false → s.bk.notices.length < 16 → t.bk.notices = s.bk.notices ++
        [systemNotice .drainStuck (t.hc.drains.countP Drain.stuck) [0, 0, 0] a.noticeTime]) ∧
       t = { a with lc := t.lc, hc := t.hc, ci := t.ci, bk := t.bk }) ∧
  (∀ (T : Nat) (a s : State),
     s.hc.quiesceAt = some T →
     s.calm →
     s.drainsAreDraining →
     s.stamped →
     a = s.atTime T →
     ∃ t, exec .quiesceExpiry s = .next t ∧
       (∀ q, q < 128 → t.entry q =
        if q ∈ s.hc.drains.map Drain.quantum then
          match s.entry q with
          | .draining .conflict (some w) => .held w false
          | .draining .conflict none => s.vacant q
          | .draining r v => if s.mc.mode = .muted ∨ s.mc.mode = .offline ∨ s.mc.mode = .listening ∨
              s.mc.duplicate = true then s.vacant q else .draining r v
          | e => e
        else s.entry q) ∧
       (s.mc.mode ≠ .muted → s.mc.mode ≠ .offline → s.mc.mode ≠ .listening → s.mc.duplicate = false →
           ∀ d ∈ s.hc.drains, ∀ r v, r ≠ .conflict → s.entry d.quantum = .draining r v →
        t.queues fun f => match f with
          | .release w qs => w == v && qs.contains d.quantum
          | _ => false) ∧
       t.hc.drains = [] ∧
       t.hc.stuck = false ∧
       t.hc.quiesceAt = none ∧
       t = { a with map := t.map, lc := t.lc, hc := t.hc, ci := t.ci }) ∧
  (∀ (T : Nat) (a s : State),
     s.ci.lostQuiesce = .running T →
     s.calm →
     s.drainsAreDraining →
     s.stamped →
     a = s.atTime T →
     ∃ t, exec .lostQuiesceExpiry s = .next t ∧
       (∀ q, q < 128 → t.entry q =
        if q ∈ s.hc.drains.map Drain.quantum then
          match s.entry q with
          | .draining .conflict (some w) => .held w false
          | .draining .conflict none => s.vacant q
          | .draining r v => if s.mc.mode = .muted ∨ s.mc.mode = .offline ∨ s.mc.mode = .listening ∨
              s.mc.duplicate = true then s.vacant q else .draining r v
          | e => e
        else s.entry q) ∧
       (s.mc.mode ≠ .muted → s.mc.mode ≠ .offline → s.mc.mode ≠ .listening → s.mc.duplicate = false →
           ∀ d ∈ s.hc.drains, ∀ r v, r ≠ .conflict → s.entry d.quantum = .draining r v →
        t.queues fun f => match f with
          | .release w qs => w == v && qs.contains d.quantum
          | _ => false) ∧
       t.hc.drains = [] ∧
       t.ci.lostQuiesce = .expired ∧
       t.hc.stuck = s.hc.stuck ∧
       t = { a with map := t.map, lc := t.lc, hc := t.hc, ci := t.ci })

/-- A promise that expires loses its marks; a request that times out unanswered is counted. In a calm state. At the
expiry of the oldest promise each of its quanta still Held by the donor with the mark loses it, no other entry
changes, and the promises left are the later ones with a mark. At the answer timeout of the outstanding request, 100
ms after its echo, the unanswered count of the target's entry rises by 1 (saturating at 255) unless an answer of the
target has been heard meanwhile (in a mode that ignores it, the model's reading, log 61), the request has ended, and
the map and the other peer entries are unchanged. That the expiry also drops a mark which a later answer of the same
donor has set again, and that the later promise ends where no mark of it is left, is the model's choice (log 59), and
so is the clock at the expiry (log 2). (R40, R51, R96, R98) -/
def Obligations.PromiseAndAnswerTimersEndTheirRecord : Prop :=
  (∀ (m : Promise) (rest : List Promise) (a s : State),
     s.hc.promises = m :: rest →
     s.calm →
     a = s.atTime m.expiry →
     ∃ t, exec .promiseExpiry s = .next t ∧
       (∀ q, q < 128 → t.entry q = if q ∈ m.quanta ∧ s.entry q = .held m.donor true then
           .held m.donor false else s.entry q) ∧
       (t.hc.promises = rest.filter fun k => k.quanta.any fun q => t.entry q == .held k.donor true) ∧
       t = { a with map := t.map, lc := t.lc, hc := t.hc, ci := t.ci } ∧
       t.setpointFormed) ∧
  (∀ (k : Request) (T : Nat) (y : Peer) (a s : State),
     s.hc.request = some k →
     k.echoAt = some T →
     s.ptu.entries[k.target]? = some y →
     s.calm →
     a = s.atTime (T + 100) →
     ∃ t, exec .answerTimeout s = .next t ∧
       (t.ptu = { s.ptu with entries := s.ptu.entries.set k.target (if k.answered then
           y else { y with unanswered := min 255 (y.unanswered + 1) }) }) ∧
       (t.hc.request.all fun z => z.echoAt.isNone) ∧
       t.map = s.map ∧
       t = { a with ptu := t.ptu, lc := t.lc, hc := t.hc, ci := t.ci } ∧
       t.setpointFormed)

/-- Isolation and muting drain every quantum that is not an own home quantum. In a calm state with the Pending quanta
those of the claim in settle. In ACTIVE with the solo flag clear, L_sil x T_ep after the line-heard time, the mode is
ISOLATED with the transmitter on: each Mine quantum that is not an own home one becomes Draining with reason
Isolation, each such Pending one Free or Withdrawn, and no other entry changes. In ACTIVE and ISOLATED, L_sil x T_ep
after the last good echo with a transmit error since, and at the sixteenth consecutive transmit error of a frame that
can be retried, the mode is MUTED with the transmitter in probe and the mute hold timer running; the same entries
change, and Draining quanta of a queued RELEASE not on the line become Free or Withdrawn; no CLAIM, CONTEST, YIELD-
REQ, YIELD-ANS, REPORT or JOIN stays queued off the line. Peer table, offers and result are unchanged. The clock at
which the silence limits come is the model's choice (log 2). (R22, R28, R30, R105, R129, R149, R156, R158) -/
def Obligations.IsolationAndMutingDrainForeignQuanta : Prop :=
  (∀ (T : Nat) (a s : State),
     s.mc.mode = .active →
     s.mc.solo = false →
     T = s.ptu.lineHeard.getD s.ptu.lineCleared + s.conf.lSil * s.conf.tEp →
     s.calm →
     s.pendingSettles →
     a = s.atTime T →
     ∃ t, exec .isolationSilenceLimit s = .next t ∧
       t.mc.mode = .isolated ∧
       t.mc.solo = false ∧
       t.lc.tx = .on ∧
       (∀ q, q < 128 → t.entry q = if s.ownHome q then s.entry q else s.drainedFor .isolation q) ∧
       t.hc.sweep = none ∧
       t = { a with map := t.map, mc := t.mc, lc := t.lc, hc := t.hc, ci := t.ci, ss := t.ss, bk := t.bk } ∧
       t.setpointFormed) ∧
  (∀ (c : Instr) (T us : Nat) (a s : State),
     ((c = .echoSilenceLimit ∧ s.mc.errSince = true ∧ s.mc.echoSince = some T ∧
         a = s.atTime (T + s.conf.lSil * s.conf.tEp)) ∨
      (c = .transmitError ∧ a = s ∧ s.lc.txErrors = 15 ∧ ∃ x ∈ s.lc.queue, x.retry < 3 ∧ (kindOf x.frame ≠ .release) ∧
        s.lc.attempt = some (.frame x.id us false))) →
     s.stamped →
     (s.mc.mode = .active ∨ s.mc.mode = .isolated) →
     s.calm →
     s.pendingSettles →
     ∃ t, exec c s = .next t ∧
       t.mc.mode = .muted ∧
       t.lc.tx = .probe ∧
       t.lc.muteAt = some (a.now + s.lc.muteHold) ∧
       (∀ q, q < 128 → t.entry q =
        if s.lc.queuedReleases.contains q ∧ (s.entry q).isDraining = true then s.vacant q
        else if s.ownHome q then s.entry q else s.drainedFor .isolation q) ∧
       t.hc.sweep = none ∧
       (∀ f ∈ t.lc.queue ++ t.lc.waiting, s.lc.onLine f = true ∨ kindOf f.frame ∈ [.release, .budget, .leave] ∨
           c = .transmitError) ∧
       (∀ f ∈ t.lc.queue ++ t.lc.waiting, c = .transmitError → kindOf f.frame ∈ [.release, .budget, .leave]) ∧
       (t.now = a.now ∧ t.bu = s.bu ∧ t.ptu = s.ptu ∧ t.ae = s.ae ∧ t.cpi = s.cpi ∧ t.io = s.io) ∧
       t.setpointFormed)

/-- The deadline run-out and a step duration end the step they are conditions of. In a calm state whose bookings only
notify, with the session aged to the moment. At the deadline the run-out mark is set; in CHARGING at a step with end-
at-deadline, and at the end duration of a CHARGING session's entered step, the step ends: the steps completed rise,
and the session is COMPLETE or at a later step; at the last step it is COMPLETE with the cause DEADLINE or DURATION.
At the run-out of any other session the record is otherwise unchanged. Map, offers, peer table, result and mode are
unchanged. The clock at which deadline and duration run out is the model's choice (log 2). (R111, R112, R113, R114,
R117) -/
def Obligations.DeadlineAndDurationEndTheStep : Prop :=
  (∀ (T : Nat) (x : Session) (a s : State),
     a = s.atTime T →
     a.ss.session = some x →
     0 < x.deadline →
     x.runOut = false →
     T = x.admittedAt + x.deadline * 1000 →
     s.calm →
     s.bookingsNotify →
     ∃ t, exec .deadlineRunOut s = .next t ∧
       t.ss.session.map Session.runOut = some true ∧
       (t.ss.session.map (fun y => (y.tag, y.eReq, y.pAcc, y.deadline)) = some (x.tag, x.eReq, x.pAcc, x.deadline)) ∧
       (x.phase ≠ .charging ∨ x.step.all (fun st => !st.endAtDeadline) = true →
           State.endOf { a with ss := { a.ss with session := some { x with runOut := true } } } t) ∧
       (x.phase = .charging → x.step.any (fun st => st.endAtDeadline) = true →
        t.ss.session.all (fun y => decide (x.stepsDone < y.stepsDone ∧ (y.phase = .complete ∨
            x.stepIndex < y.stepIndex))) = true ∧
        (x.plan.length ≤ x.stepIndex → t.ss.session.map (fun y => (y.phase, y.lastEnd, y.stepsDone)) =
          some (.complete, some .deadline, x.stepsDone + 1))) ∧
       State.endOf { a with ss := t.ss, bk := t.bk } t) ∧
  (∀ (d : Nat) (x : Session) (st : PlanStep) (a s : State),
     a = s.advance d →
     a.ss.session = some x →
     x.phase = .charging →
     x.entered = true →
     x.step = some st →
     0 < st.endDuration →
     st.endDuration ≤ 65535 →
     s.durationLeft = some d →
     s.calm →
     s.bookingsNotify →
     ∃ t, exec .stepDurationReached s = .next t ∧
       (t.ss.session.map (fun y => (y.tag, y.eReq, y.pAcc, y.deadline)) = some (x.tag, x.eReq, x.pAcc, x.deadline)) ∧
       (t.ss.session.all (fun y => decide (x.stepsDone < y.stepsDone ∧ (y.phase = .complete ∨
           x.stepIndex < y.stepIndex))) = true) ∧
       (x.plan.length ≤ x.stepIndex → t.ss.session.map (fun y => (y.phase, y.lastEnd, y.stepsDone)) =
        some (.complete, some .duration, x.stepsDone + 1)) ∧
       State.endOf { a with ss := t.ss, bk := t.bk } t)

/-- Refresh, completion of a message, and a discarded report. A refresh releases INHIBIT unless one of its causes holds
it, and asserts it where one does (log 67), and adds a message with the send value and that INHIBIT state, whose bytes
are 0xA1, the limit with its high byte first and the inhibit flag, and sets the next refresh 100 ms later. The
completion of a message takes it from those being sent, makes its limit and inhibit flag the last sent ones at that
time, counts it, and records it as the drain-confirm mark of the quanta it answers that have none. A discarded report
from START on adds 1 to the discarded-report count, saturating at 65535. Nothing else differs. The clock of the
refresh (log 2), and the 32 limits and the count of messages by which the model orders messages and reports (log 4),
are the model's choice. (R128, R131, R132, R187) -/
def Obligations.SetpointMessagesAndDiscardedReports : Prop :=
  (∀ (a s : State),
     a = s.atTime s.ci.refreshAt →
     ∃ t, exec .setpointRefresh s = .next t ∧
       t = { a with ci := { a.ci with
          refreshAt := s.ci.refreshAt + 100, inhibit := s.inhibitCause
          outbox := s.ci.outbox ++ [{ limit := s.ci.sendValue, inhibit := s.inhibitCause, marks := [] }] } } ∧
       (t.ci.outbox.getLast?.map SetMsg.bytes = some
        [0xA1, byteOf (s.ci.sendValue / 256), byteOf s.ci.sendValue, if s.inhibitCause then 1 else 0])) ∧
  (∀ (m : SetMsg) (rest : List SetMsg) (s : State),
     s.ci.outbox = m :: rest →
     ∃ t, exec .setpointMessageSent s = .next t ∧
       (t = { s with
          ci := { s.ci with
            outbox := rest, lastLimit := m.limit, lastInhibit := m.inhibit, lastSentAt := some s.now,
            sentCount := s.ci.sentCount + 1
            limits := (m.limit :: s.ci.limits).take 32 }
          hc := { s.hc with drains := s.hc.drains.map fun d =>
            if d.mark = none ∧ d.quantum ∈ m.marks then { d with mark := some (s.ci.sentCount + 1) } else d } })) ∧
  (∀ (s : State),
     s.started = true →
     ∃ t, exec .meterReportDiscarded s = .next t ∧
       t = { s with ci := { s.ci with discarded := min 65535 (s.ci.discarded + 1) } }) ∧
  (∀ (s : State),
     s.started = false →
     ∃ t, exec .meterReportDiscarded s = .next t ∧
       t = s)

/-- A valid meter report is recorded and feeds the session, the drains and the converter state. From START on, with no
isolate request, no restart and no ENDING session, a report of seven bytes opening with 0xB2, a state up to 3 and 10 x
power up to 11 x P_max is recorded as the last one; the silence timer restarts with 500 ms; the converter state is the
report's, and a LOST one ends with its cause and timer, an asserted INHIBIT staying asserted until the refresh (log
67, the model's reading). A session's accumulator takes the increment while its delivered energy is below 65535, and
the delivered energy, E_rem and the drawn values follow. At or below 5 power units every drain completes and
DRAIN_STUCK is cleared. A change into FAULT posts CONVERTER_FAULT with the code and, unless it was LOST, leaves a
CHARGING session SUSPENDED with reason CONVERTER, or COMPLETE where the report has just completed it (log 68, the
model's choice), and a SUSPENDED one SUSPENDED with reason CONVERTER. Entries outside the drain list are unchanged. An
excess of power or a state above 3 only counts as discarded; before START nothing differs. The number of messages
complete when the reception began, which is recorded with the report, is the model's choice (log 4). (R88, R115, R116,
R120, R128, R132, R133, R134, R137) -/
def Obligations.MeterReportFeedsSessionDrainsAndConverter : Prop :=
  (∀ (p1 p0 e1 e0 cs fc : Byte) (k : Nat) (st : ConvState) (s : State),
     s.started = true →
     convOf cs.toNat = some st →
     10 * (p1.toNat * 256 + p0.toNat) ≤ 11 * s.conf.pMax →
     s.mc.isolateReq = false →
     s.mc.restarting = false →
     s.sessionEnding = false →
     ∃ t, exec (.meterReport [0xB2, p1, p0, e1, e0, cs, fc] k) s = .next t ∧
       (t.ci.lastReport = some
          { power := p1.toNat * 256 + p0.toNat, energy := e1.toNat * 256 + e0.toNat, state := st, faultCode := fc.toNat
            began := s.ci.sentCount - k }) ∧
       t.ci.silenceAt = some (s.now + 500) ∧
       t.ci.conv = st ∧
       (s.ci.conv = .lost → t.ci.causeLost = false ∧ t.ci.lostQuiesce = .stopped) ∧
       (s.ci.inhibit = true → t.ci.inhibit = true) ∧
       (∀ x ∈ s.ss.session, x.delivered < 65535 →
        t.ss.session.map (fun y => (y.joules, y.delivered, y.eRem, y.tag)) =
          some (x.joules + (e1.toNat * 256 + e0.toNat), min 65535 ((x.joules + (e1.toNat * 256 + e0.toNat)) / 36000)
          , x.eReq - min 65535 ((x.joules + (e1.toNat * 256 + e0.toNat)) / 36000), x.tag)) ∧
       (s.ss.session = none → t.ss.session = none) ∧
       (p1.toNat * 256 + p0.toNat ≤ 5 → s.hc.drains ≠ [] → t.hc.drains = [] ∧ t.hc.stuck = false ∧
           t.hc.quiesceAt = none) ∧
       (∀ q, q < 128 → q ∉ s.hc.drains.map Drain.quantum → t.entry q = s.entry q) ∧
       (st = .fault → s.ci.conv ≠ .fault → t.ci.pSet = 0 ∧
        (s.ci.conv ≠ .lost → s.charging = true →
          t.ss.session.map Session.phase ∈ [some (.suspended .converter), some .complete]) ∧
        (s.ci.conv ≠ .lost → s.sessState = .suspended → t.ss.session.map Session.phase = some (.suspended .converter)) ∧
        (s.bk.notices.length < 16 → (t.bk.notices[s.bk.notices.length]?).map (fun n => (n.code, n.value)) = some (133,
            fc.toNat))) ∧
       t = { s with map := t.map, lc := t.lc, hc := t.hc, ss := t.ss, ci := t.ci, bk := t.bk } ∧
       t.setpointFormed) ∧
  (∀ (p1 p0 e1 e0 cs fc : Byte) (k : Nat) (s : State),
     s.started = true →
     (3 < cs.toNat ∨ 11 * s.conf.pMax < 10 * (p1.toNat * 256 + p0.toNat)) →
     ∃ t, exec (.meterReport [0xB2, p1, p0, e1, e0, cs, fc] k) s = .next t ∧
       t = { s with ci := { s.ci with discarded := min 65535 (s.ci.discarded + 1) } }) ∧
  (∀ (p1 p0 e1 e0 cs fc : Byte) (k : Nat) (s : State),
     s.started = false →
     ∃ t, exec (.meterReport [0xB2, p1, p0, e1, e0, cs, fc] k) s = .next t ∧
       t = s)

/-- Meter silence makes the converter LOST and drains every Mine quantum. In a calm state with the converter not LOST,
at the meter silence expiry: the converter is LOST with its cause of INHIBIT, the silence timer stopped, the LOST
quiesce timer running T_q and the quiesce timer stopped; P_set and the send value are 0 and one message with limit 0
and the inhibit flag is sent at once (log 19), whose completion, and no longer that of an earlier one, is the
drain-confirm mark of those quanta; each Mine quantum becomes Draining with reason Shutdown and no other entry
changes; a CHARGING session is SUSPENDED with reason CONVERTER; METER_LOST with the number of those quanta is posted
where there is room. Mode, offers, peer table and result are unchanged. The clock at the expiry is the model's choice
(log 2). (R28, R89, R120, R129, R131, R135) -/
def Obligations.MeterSilenceMakesTheConverterLost : Prop :=
  ∀ (T : Nat) (a s : State),
    s.ci.conv ≠ .lost →
    s.ci.silenceAt = some T →
    s.calm →
    a = s.atTime T →
    ∃ t, exec .meterSilenceExpiry s = .next t ∧
      (t.ci = { a.ci with
          conv := .lost, silenceAt := none, causeLost := true, inhibit := true,
          lostQuiesce := .running (a.now + s.conf.tQ), pSet := 0, sendValue := 0
          outbox := (s.ci.outbox.map fun m => { m with marks := m.marks.filter fun q => s.entry q != .mine }) ++
            [{ limit := 0, inhibit := true, marks := quantaWhere s.map fun _ e => e == .mine }] }) ∧
      (∀ q, q < 128 → t.entry q = if s.entry q = .mine then .draining .shutdown none else s.entry q) ∧
      t.hc.quiesceAt = none ∧
      (t.hc.drains.map Drain.quantum = s.hc.drains.map Drain.quantum ++ quantaWhere s.map fun _ e => e == .mine) ∧
      (t.ss.session.map Session.phase = a.ss.session.map fun x => match x.phase with
          | .charging => .suspended .converter
          | .suspended _ => .suspended .converter
          | ph => ph) ∧
      (s.bk.notices.length < 16 → t.bk.notices = s.bk.notices ++ [systemNotice .meterLost s.mineCount [0, 0,
          0] a.noticeTime]) ∧
      t = { a with map := t.map, lc := t.lc, hc := t.hc, ss := t.ss, ci := t.ci, bk := t.bk }

/-- The division gives out no more than the budget, and all of it while a want is unmet. For participants with distinct
stations, tiers 0 to 3, weights of at least 1, floors within wants and no grant yet, and every allocation budget: the
division keeps the participants but for their grants; the grants sum to no more than the budget; each grant is within
its want; without FLOOR_SHORT each is at least its floor; where every want is met the grants and the spare count sum
to the budget, and otherwise the grants alone do and the spare count is 0. (R78) -/
def Obligations.SharesKeepWithinTheBudget : Prop :=
  ∀ (ps : List Part) (a : Nat),
    (ps.map Part.station).Nodup →
    (∀ p ∈ ps, p.tier ≤ 3 ∧ 1 ≤ p.weight ∧ p.floor ≤ p.want ∧ p.grant = 0) →
    ((divide ps a).1.map fun p => (p.station, p.tier, p.weight, p.want, p.floor)).Perm
        (ps.map fun p => (p.station, p.tier, p.weight, p.want, p.floor)) ∧
      ((divide ps a).1.map Part.grant).sum ≤ a ∧
      (∀ p ∈ (divide ps a).1, p.grant ≤ p.want) ∧
      ((divide ps a).2.2.1 = false → ∀ p ∈ (divide ps a).1, p.floor ≤ p.grant) ∧
      ((∀ p ∈ (divide ps a).1, p.grant = p.want) → ((divide ps a).1.map Part.grant).sum + (divide ps a).2.1 = a) ∧
      ((∃ p ∈ (divide ps a).1, p.grant ≠ p.want) → ((divide ps a).1.map Part.grant).sum = a ∧ (divide ps a).2.1 = 0)

/-- The frame check reads back every frame from the characters it is sent as. For every frame whose fields lie within
the ranges of Table 73 and every station number: the frame check on its characters (arbitration, kind, length,
payload, CRC) finds that sender, kind and payload, and the payload of that kind reads back as the frame; on the line
the frame lasts 10 x (5 + n) bit times for n payload characters, its bits read back as its characters, and no ten bit
times in a row are dominant. A receiver before which the line has been recessive for 10 bit times or more hears
exactly that frame, and one with less hears nothing. (R141, R142, R184, R185) -/
def Obligations.FrameRoundTripsThroughItsCharacters : Prop :=
  ∀ (f : Frame) (sender : BitVec 5), f.wf →
    checkFrame (frameChars sender.toNat f) = some (sender, kindOf f, payloadOf f) ∧
      parsePayload (kindOf f) (payloadOf f) = some f ∧
      (frameLevels sender.toNat f).length = 10 * (5 + (payloadOf f).length) ∧
      charsOfLevels (frameLevels sender.toNat f) = some (frameChars sender.toNat f) ∧
      (∀ i, ¬(∀ k, k < 10 → (frameLevels sender.toNat f)[i + k]? = some .dominant)) ∧
      ∀ n, Receiver.start.hear (List.replicate n .recessive ++ frameLevels sender.toNat f) =
        if 10 ≤ n then [.frame sender (kindOf f) (payloadOf f)] else []

/-- The bid follows the stages of R61 to R66. For every state: outside CHARGING the bid is the null bid. In CHARGING
at a step, with D_s the deadline remaining: the slack is absent at D_s 0 and otherwise D_s - 60, at least 1; P_req is
ceil(E_rem x 360 / slack); the want is 0 for an E_rem of 0, a HOLD or a HALT and otherwise ceil(min(cap, P_acc, P_max)
/ QS10), at most 128, and under SHED the floor; the floor is ceil(P_min / QS10) within the want for BULK and TAPER and
otherwise 0; a want of 0 bids tier 0, weight 1, floor 0, and otherwise tier and weight follow Table 22. SATURATED is
set by the slack, want and weight clamps, and by nothing else. (R61, R62, R63, R64, R65, R66) -/
def Obligations.BidFollowsTheStages : Prop :=
  ∀ (s : State),
    ((∀ x ∈ s.ss.session, x.phase ≠ .charging) → s.deriveBid = Bid.null) ∧
    (∀ (x : Session) (st : PlanStep) (dS sl pq d f w : Nat),
      s.ss.session = some x → x.phase = .charging → x.step = some st → dS = s.deadlineLeft x → 0 < s.conf.qs10 →
      sl = max 1 (dS - 60) → pq = (x.eRem * 360 + sl - 1) / sl →
      d = (if x.eRem = 0 ∨ st.kind = .hold ∨ st.kind = .halt then 0
           else min 128 ((min (min st.cap x.pAcc) s.conf.pMax + s.conf.qs10 - 1) / s.conf.qs10)) →
      f = (if st.kind = .bulk ∨ st.kind = .taper then min ((s.conf.pMin + s.conf.qs10 - 1) / s.conf.qs10) d else 0) →
      w = (if s.bk.shed then f else d) →
      s.deriveBid.slack = (if dS = 0 then none else some sl) ∧ s.deriveBid.pReq = (if dS = 0 then none else some pq) ∧
      s.deriveBid.want = w ∧
      (s.deriveBid.saturated = true ↔
        (0 < dS ∧ dS ≤ 60) ∨
        (x.eRem ≠ 0 ∧ st.kind ≠ .hold ∧ st.kind ≠ .halt ∧
          128 < (min (min st.cap x.pAcc) s.conf.pMax + s.conf.qs10 - 1) / s.conf.qs10) ∨
        (0 < w ∧ ¬(x.critical = true ∧ (st.kind = .bulk ∨ st.kind = .taper)) ∧ st.kind ≠ .topup ∧ 0 < dS ∧
          (pq = 0 ∨ 64 < (pq + s.conf.qs10 - 1) / s.conf.qs10))) ∧
      (w = 0 → s.deriveBid.tier = 0 ∧ s.deriveBid.weight = 1 ∧ s.deriveBid.floor = 0) ∧
      (0 < w → s.deriveBid.floor = f ∧
        (x.critical = true → st.kind = .bulk ∨ st.kind = .taper → s.deriveBid.tier = 3 ∧ s.deriveBid.weight = 64) ∧
        (st.kind = .topup → s.deriveBid.tier = 0 ∧ s.deriveBid.weight = 1) ∧
        (x.critical = false → st.kind ≠ .topup → dS = 0 → s.deriveBid.tier = 1 ∧ s.deriveBid.weight = 2) ∧
        (x.critical = false → st.kind ≠ .topup → 0 < dS →
          s.deriveBid.tier = (if min x.pAcc st.cap ≤ 2 * pq then 2 else 1) ∧
          s.deriveBid.weight = max 1 (min 64 ((pq + s.conf.qs10 - 1) / s.conf.qs10)))))

/-- Every step keeps P_set and the send value formed from the terms as they stand. For every state in which P_set is the
minimum of the step cap term, the acceptance term, P_max, Mine count x QS10 and the mode limit (0 in FAULT and LOST;
Table 52 for the limit) and the send value is P_set, or 0 where P_set lies below P_min: where step answers a next
state, the same holds in it, and P_set does not exceed the Mine count times QS10. (R129, R130) -/
def Obligations.StepKeepsTheSetpointFormed : Prop :=
  ∀ (s t : State), s.setpointFormed → step s = .next t →
    t.setpointFormed ∧ t.ci.pSet ≤ t.mineCount * t.conf.qs10

/-- Every step keeps no Free, Pending or Mine quantum at or above B_eff. For every state in which B_eff and B_safe lie
within B_cfg and, once started, no entry at or above B_eff is Free, Pending or Mine: where step answers a next state,
the same holds in it. (R7, R8, R9, R10, R11) -/
def Obligations.StepKeepsTheBudgetKept : Prop :=
  ∀ (s t : State), s.budgetKept → step s = .next t → t.budgetKept

/-- Every step keeps the map at 128 entries and every list within its places. For every state whose map has 128 entries,
whose booking table has 12, whose queue has at most 8 frames, whose notice queue at most 16, whose offer list at most
four with distinct sources, and whose queued and waiting frames have distinct age stamps older than the next one:
where step answers a next state, the same holds in it. (R1, R4, R102, R104, R165, R170) -/
def Obligations.StepKeepsTheListsInTheirPlaces : Prop :=
  ∀ (s t : State), s.shaped ∧ s.stamped → step s = .next t → t.shaped ∧ t.stamped

/-- Every step keeps the transmitter state to the mode, a duplicate out of the row, and INHIBIT asserted while a cause
holds. For every state whose transmitter state is the one of its mode (on in ACTIVE and ISOLATED, probe in MUTED, off
otherwise) and which, under the DUPLICATE fault cause, is OFFLINE, TRIPPED or LISTENING: where step answers a next
state, the same holds in it. For every state in which INHIBIT is asserted if TRIPPED, DRAIN_STUCK or LOST holds as its
cause, the same. (R59, R138, R140, R163) -/
def Obligations.StepKeepsTheModesConsistent : Prop :=
  ∀ (s t : State), step s = .next t →
    (s.transmitterFollows ∧ s.duplicateIsOut → t.transmitterFollows ∧ t.duplicateIsOut) ∧
    (s.inhibitFollows → t.inhibitFollows)

/-- Every step keeps the drain list to Draining quanta, the claim in settle to Pending ones, at most one CLAIM, and a
sweep to where it is permitted. For every state whose drain list lists Draining quanta, each once, and whose Pending
quanta are exactly those of the claim in settle, and in which at most one CLAIM is queued or waiting, and none while a
claim settles: where step answers a next state, the same holds in it. For every state in which a sweep stands only
where R84 permits yield requests (ACTIVE, CHARGING, no FREEZE, no withdrawal), the same. (R19, R20, R28, R84, R86,
R93, R104) -/
def Obligations.StepKeepsTheHoldingsConsistent : Prop :=
  ∀ (s t : State), step s = .next t →
    (s.drainsAreDraining ∧ s.pendingSettles ∧ s.claimAlone → t.drainsAreDraining ∧ t.pendingSettles ∧ t.claimAlone) ∧
    (s.sweepPermitted → t.sweepPermitted)

/-- The reset state meets every invariant. State.reset has its setpoint formed, its budget kept, its lists in their
places with distinct stamps, its transmitter and fault cause consistent with its mode, INHIBIT asserted, its drain
list, claim and CLAIM frames consistent with its map, and no sweep standing. (R8, R17, R86, R93, R102, R104, R129,
R138, R140) -/
def Obligations.ResetStateMeetsEveryInvariant : Prop :=
  State.reset.setpointFormed ∧ State.reset.budgetKept ∧ State.reset.shaped ∧ State.reset.stamped ∧
      State.reset.transmitterFollows ∧
    State.reset.duplicateIsOut ∧ State.reset.inhibitFollows ∧ State.reset.drainsAreDraining ∧
        State.reset.pendingSettles ∧
    State.reset.claimAlone ∧ State.reset.sweepPermitted

/-- The CRC of the nine digits is 0x29B1, and a LEAVE from station 4 opens 0x84 0x42 0x00. The CRC-16 of the ASCII bytes
123456789 is 0x29B1, and the characters of a LEAVE from station 4 are 0x84, 0x42, 0x00 and the CRC over 0x42 and 0x00,
high byte first. (R184, R185) -/
def Obligations.CrcAndLeaveMatchTheExamples : Prop :=
  crc16 [0x31, 0x32, 0x33, 0x34, 0x35, 0x36, 0x37, 0x38, 0x39] = 0x29B1#16 ∧
    frameChars 4 .leave = [0x84, 0x42, 0x00] ++ be2 (crc16 [0x42, 0x00]).toNat
end

