-- ==== Sys2Proof/Laws/State.lean ====
section
/-! SUPPORT. One lemma per field per update of the state, each true by unfolding, so that no later proof unfolds a record
update. -/

namespace Sys2Proof.Machine

/-! ### State.respond -/

@[simp] theorem State.respond_now (s : State) (r : Response) : (s.respond r).now = s.now := rfl
@[simp] theorem State.respond_io (s : State) (r : Response) : (s.respond r).io = s.io := rfl
@[simp] theorem State.respond_cpi (s : State) (r : Response) :
    (s.respond r).cpi = { s.cpi with slot := some { response := r, ready := false, readyAt := s.now + Config.readyMs } } := rfl
@[simp] theorem State.respond_mc (s : State) (r : Response) : (s.respond r).mc = s.mc := rfl
@[simp] theorem State.respond_lc (s : State) (r : Response) : (s.respond r).lc = s.lc := rfl
@[simp] theorem State.respond_bu (s : State) (r : Response) : (s.respond r).bu = s.bu := rfl
@[simp] theorem State.respond_map (s : State) (r : Response) : (s.respond r).map = s.map := rfl
@[simp] theorem State.respond_ptu (s : State) (r : Response) : (s.respond r).ptu = s.ptu := rfl
@[simp] theorem State.respond_ae (s : State) (r : Response) : (s.respond r).ae = s.ae := rfl
@[simp] theorem State.respond_hc (s : State) (r : Response) : (s.respond r).hc = s.hc := rfl
@[simp] theorem State.respond_ss (s : State) (r : Response) : (s.respond r).ss = s.ss := rfl
@[simp] theorem State.respond_ci (s : State) (r : Response) : (s.respond r).ci = s.ci := rfl
@[simp] theorem State.respond_bk (s : State) (r : Response) : (s.respond r).bk = s.bk := rfl
@[simp] theorem State.respond_pending (s : State) (r : Response) : (s.respond r).pending = s.pending := rfl

/-! ### State.setPeer -/

@[simp] theorem State.setPeer_now (s : State) (t : Nat) (f : Peer → Peer) : (s.setPeer t f).now = s.now := rfl
@[simp] theorem State.setPeer_io (s : State) (t : Nat) (f : Peer → Peer) : (s.setPeer t f).io = s.io := rfl
@[simp] theorem State.setPeer_cpi (s : State) (t : Nat) (f : Peer → Peer) : (s.setPeer t f).cpi = s.cpi := rfl
@[simp] theorem State.setPeer_mc (s : State) (t : Nat) (f : Peer → Peer) : (s.setPeer t f).mc = s.mc := rfl
@[simp] theorem State.setPeer_lc (s : State) (t : Nat) (f : Peer → Peer) : (s.setPeer t f).lc = s.lc := rfl
@[simp] theorem State.setPeer_bu (s : State) (t : Nat) (f : Peer → Peer) : (s.setPeer t f).bu = s.bu := rfl
@[simp] theorem State.setPeer_map (s : State) (t : Nat) (f : Peer → Peer) : (s.setPeer t f).map = s.map := rfl
@[simp] theorem State.setPeer_ptu (s : State) (t : Nat) (f : Peer → Peer) :
    (s.setPeer t f).ptu = { s.ptu with entries := s.ptu.entries.modify t f } := rfl
@[simp] theorem State.setPeer_ae (s : State) (t : Nat) (f : Peer → Peer) : (s.setPeer t f).ae = s.ae := rfl
@[simp] theorem State.setPeer_hc (s : State) (t : Nat) (f : Peer → Peer) : (s.setPeer t f).hc = s.hc := rfl
@[simp] theorem State.setPeer_ss (s : State) (t : Nat) (f : Peer → Peer) : (s.setPeer t f).ss = s.ss := rfl
@[simp] theorem State.setPeer_ci (s : State) (t : Nat) (f : Peer → Peer) : (s.setPeer t f).ci = s.ci := rfl
@[simp] theorem State.setPeer_bk (s : State) (t : Nat) (f : Peer → Peer) : (s.setPeer t f).bk = s.bk := rfl
@[simp] theorem State.setPeer_pending (s : State) (t : Nat) (f : Peer → Peer) :
    (s.setPeer t f).pending = s.pending := rfl

/-! ### State.setBooking -/

@[simp] theorem State.setBooking_now (s : State) (i : Nat) (b : Option Booking) : (s.setBooking i b).now = s.now := rfl
@[simp] theorem State.setBooking_io (s : State) (i : Nat) (b : Option Booking) : (s.setBooking i b).io = s.io := rfl
@[simp] theorem State.setBooking_cpi (s : State) (i : Nat) (b : Option Booking) : (s.setBooking i b).cpi = s.cpi := rfl
@[simp] theorem State.setBooking_mc (s : State) (i : Nat) (b : Option Booking) : (s.setBooking i b).mc = s.mc := rfl
@[simp] theorem State.setBooking_lc (s : State) (i : Nat) (b : Option Booking) : (s.setBooking i b).lc = s.lc := rfl
@[simp] theorem State.setBooking_bu (s : State) (i : Nat) (b : Option Booking) : (s.setBooking i b).bu = s.bu := rfl
@[simp] theorem State.setBooking_map (s : State) (i : Nat) (b : Option Booking) : (s.setBooking i b).map = s.map := rfl
@[simp] theorem State.setBooking_ptu (s : State) (i : Nat) (b : Option Booking) : (s.setBooking i b).ptu = s.ptu := rfl
@[simp] theorem State.setBooking_ae (s : State) (i : Nat) (b : Option Booking) : (s.setBooking i b).ae = s.ae := rfl
@[simp] theorem State.setBooking_hc (s : State) (i : Nat) (b : Option Booking) : (s.setBooking i b).hc = s.hc := rfl
@[simp] theorem State.setBooking_ss (s : State) (i : Nat) (b : Option Booking) : (s.setBooking i b).ss = s.ss := rfl
@[simp] theorem State.setBooking_ci (s : State) (i : Nat) (b : Option Booking) : (s.setBooking i b).ci = s.ci := rfl
@[simp] theorem State.setBooking_bk (s : State) (i : Nat) (b : Option Booking) :
    (s.setBooking i b).bk = { s.bk with table := s.bk.table.set i b } := rfl
@[simp] theorem State.setBooking_pending (s : State) (i : Nat) (b : Option Booking) :
    (s.setBooking i b).pending = s.pending := rfl

/-! ### State.setTrip -/

@[simp] theorem State.setTrip_now (s : State) (b : Bool) : (s.setTrip b).now = s.now := rfl
@[simp] theorem State.setTrip_io (s : State) (b : Bool) : (s.setTrip b).io = { s.io with trip := b } := rfl
@[simp] theorem State.setTrip_cpi (s : State) (b : Bool) : (s.setTrip b).cpi = s.cpi := rfl
@[simp] theorem State.setTrip_mc (s : State) (b : Bool) : (s.setTrip b).mc = s.mc := rfl
@[simp] theorem State.setTrip_lc (s : State) (b : Bool) : (s.setTrip b).lc = s.lc := rfl
@[simp] theorem State.setTrip_bu (s : State) (b : Bool) : (s.setTrip b).bu = s.bu := rfl
@[simp] theorem State.setTrip_map (s : State) (b : Bool) : (s.setTrip b).map = s.map := rfl
@[simp] theorem State.setTrip_ptu (s : State) (b : Bool) : (s.setTrip b).ptu = s.ptu := rfl
@[simp] theorem State.setTrip_ae (s : State) (b : Bool) : (s.setTrip b).ae = s.ae := rfl
@[simp] theorem State.setTrip_hc (s : State) (b : Bool) : (s.setTrip b).hc = s.hc := rfl
@[simp] theorem State.setTrip_ss (s : State) (b : Bool) : (s.setTrip b).ss = s.ss := rfl
@[simp] theorem State.setTrip_ci (s : State) (b : Bool) : (s.setTrip b).ci = s.ci := rfl
@[simp] theorem State.setTrip_bk (s : State) (b : Bool) : (s.setTrip b).bk = s.bk := rfl
@[simp] theorem State.setTrip_pending (s : State) (b : Bool) : (s.setTrip b).pending = s.pending := rfl

/-! ### State.startTripHold -/

@[simp] theorem State.startTripHold_now (s : State) : (s.startTripHold).now = s.now := rfl
@[simp] theorem State.startTripHold_io (s : State) : (s.startTripHold).io = s.io := rfl
@[simp] theorem State.startTripHold_cpi (s : State) : (s.startTripHold).cpi = s.cpi := rfl
@[simp] theorem State.startTripHold_mc (s : State) :
    (s.startTripHold).mc = { s.mc with tripHoldAt := some (s.now + s.conf.tripHold * 1000) } := rfl
@[simp] theorem State.startTripHold_lc (s : State) : (s.startTripHold).lc = s.lc := rfl
@[simp] theorem State.startTripHold_bu (s : State) : (s.startTripHold).bu = s.bu := rfl
@[simp] theorem State.startTripHold_map (s : State) : (s.startTripHold).map = s.map := rfl
@[simp] theorem State.startTripHold_ptu (s : State) : (s.startTripHold).ptu = s.ptu := rfl
@[simp] theorem State.startTripHold_ae (s : State) : (s.startTripHold).ae = s.ae := rfl
@[simp] theorem State.startTripHold_hc (s : State) : (s.startTripHold).hc = s.hc := rfl
@[simp] theorem State.startTripHold_ss (s : State) : (s.startTripHold).ss = s.ss := rfl
@[simp] theorem State.startTripHold_ci (s : State) : (s.startTripHold).ci = s.ci := rfl
@[simp] theorem State.startTripHold_bk (s : State) : (s.startTripHold).bk = s.bk := rfl
@[simp] theorem State.startTripHold_pending (s : State) : (s.startTripHold).pending = s.pending := rfl

/-! ### State.stopTripHold -/

@[simp] theorem State.stopTripHold_now (s : State) : (s.stopTripHold).now = s.now := rfl
@[simp] theorem State.stopTripHold_io (s : State) : (s.stopTripHold).io = s.io := rfl
@[simp] theorem State.stopTripHold_cpi (s : State) : (s.stopTripHold).cpi = s.cpi := rfl
@[simp] theorem State.stopTripHold_mc (s : State) : (s.stopTripHold).mc = { s.mc with tripHoldAt := none } := rfl
@[simp] theorem State.stopTripHold_lc (s : State) : (s.stopTripHold).lc = s.lc := rfl
@[simp] theorem State.stopTripHold_bu (s : State) : (s.stopTripHold).bu = s.bu := rfl
@[simp] theorem State.stopTripHold_map (s : State) : (s.stopTripHold).map = s.map := rfl
@[simp] theorem State.stopTripHold_ptu (s : State) : (s.stopTripHold).ptu = s.ptu := rfl
@[simp] theorem State.stopTripHold_ae (s : State) : (s.stopTripHold).ae = s.ae := rfl
@[simp] theorem State.stopTripHold_hc (s : State) : (s.stopTripHold).hc = s.hc := rfl
@[simp] theorem State.stopTripHold_ss (s : State) : (s.stopTripHold).ss = s.ss := rfl
@[simp] theorem State.stopTripHold_ci (s : State) : (s.stopTripHold).ci = s.ci := rfl
@[simp] theorem State.stopTripHold_bk (s : State) : (s.stopTripHold).bk = s.bk := rfl
@[simp] theorem State.stopTripHold_pending (s : State) : (s.stopTripHold).pending = s.pending := rfl

/-! ### State.startBreak -/

@[simp] theorem State.startBreak_now (s : State) : (s.startBreak).now = s.now := rfl
@[simp] theorem State.startBreak_io (s : State) : (s.startBreak).io = s.io := rfl
@[simp] theorem State.startBreak_cpi (s : State) : (s.startBreak).cpi = s.cpi := rfl
@[simp] theorem State.startBreak_mc (s : State) : (s.startBreak).mc = { s.mc with breakOn := true } := rfl
@[simp] theorem State.startBreak_lc (s : State) : (s.startBreak).lc = { s.lc with quietUs := 0, heldUs := 0 } := rfl
@[simp] theorem State.startBreak_bu (s : State) : (s.startBreak).bu = s.bu := rfl
@[simp] theorem State.startBreak_map (s : State) : (s.startBreak).map = s.map := rfl
@[simp] theorem State.startBreak_ptu (s : State) : (s.startBreak).ptu = s.ptu := rfl
@[simp] theorem State.startBreak_ae (s : State) : (s.startBreak).ae = s.ae := rfl
@[simp] theorem State.startBreak_hc (s : State) : (s.startBreak).hc = s.hc := rfl
@[simp] theorem State.startBreak_ss (s : State) : (s.startBreak).ss = s.ss := rfl
@[simp] theorem State.startBreak_ci (s : State) : (s.startBreak).ci = s.ci := rfl
@[simp] theorem State.startBreak_bk (s : State) : (s.startBreak).bk = s.bk := rfl
@[simp] theorem State.startBreak_pending (s : State) : (s.startBreak).pending = s.pending := rfl

/-! ### State.clearIsolation -/

@[simp] theorem State.clearIsolation_now (s : State) : (s.clearIsolation).now = s.now := rfl
@[simp] theorem State.clearIsolation_io (s : State) : (s.clearIsolation).io = s.io := rfl
@[simp] theorem State.clearIsolation_cpi (s : State) : (s.clearIsolation).cpi = s.cpi := rfl
@[simp] theorem State.clearIsolation_mc (s : State) : (s.clearIsolation).mc = { s.mc with isolateReq := false } := rfl
@[simp] theorem State.clearIsolation_lc (s : State) : (s.clearIsolation).lc = s.lc := rfl
@[simp] theorem State.clearIsolation_bu (s : State) : (s.clearIsolation).bu = s.bu := rfl
@[simp] theorem State.clearIsolation_map (s : State) : (s.clearIsolation).map = s.map := rfl
@[simp] theorem State.clearIsolation_ptu (s : State) : (s.clearIsolation).ptu = s.ptu := rfl
@[simp] theorem State.clearIsolation_ae (s : State) : (s.clearIsolation).ae = s.ae := rfl
@[simp] theorem State.clearIsolation_hc (s : State) : (s.clearIsolation).hc = s.hc := rfl
@[simp] theorem State.clearIsolation_ss (s : State) : (s.clearIsolation).ss = s.ss := rfl
@[simp] theorem State.clearIsolation_ci (s : State) : (s.clearIsolation).ci = s.ci := rfl
@[simp] theorem State.clearIsolation_bk (s : State) : (s.clearIsolation).bk = s.bk := rfl
@[simp] theorem State.clearIsolation_pending (s : State) : (s.clearIsolation).pending = s.pending := rfl

/-! ### State.countDiscarded -/

@[simp] theorem State.countDiscarded_now (s : State) : (s.countDiscarded).now = s.now := rfl
@[simp] theorem State.countDiscarded_io (s : State) : (s.countDiscarded).io = s.io := rfl
@[simp] theorem State.countDiscarded_cpi (s : State) : (s.countDiscarded).cpi = s.cpi := rfl
@[simp] theorem State.countDiscarded_mc (s : State) : (s.countDiscarded).mc = s.mc := rfl
@[simp] theorem State.countDiscarded_lc (s : State) : (s.countDiscarded).lc = s.lc := rfl
@[simp] theorem State.countDiscarded_bu (s : State) : (s.countDiscarded).bu = s.bu := rfl
@[simp] theorem State.countDiscarded_map (s : State) : (s.countDiscarded).map = s.map := rfl
@[simp] theorem State.countDiscarded_ptu (s : State) : (s.countDiscarded).ptu = s.ptu := rfl
@[simp] theorem State.countDiscarded_ae (s : State) : (s.countDiscarded).ae = s.ae := rfl
@[simp] theorem State.countDiscarded_hc (s : State) : (s.countDiscarded).hc = s.hc := rfl
@[simp] theorem State.countDiscarded_ss (s : State) : (s.countDiscarded).ss = s.ss := rfl
@[simp] theorem State.countDiscarded_ci (s : State) :
    (s.countDiscarded).ci = { s.ci with discarded := min 65535 (s.ci.discarded + 1) } := rfl
@[simp] theorem State.countDiscarded_bk (s : State) : (s.countDiscarded).bk = s.bk := rfl
@[simp] theorem State.countDiscarded_pending (s : State) : (s.countDiscarded).pending = s.pending := rfl

/-! ### State.reform -/

@[simp] theorem State.reform_now (s : State) : (s.reform).now = s.now := rfl
@[simp] theorem State.reform_io (s : State) : (s.reform).io = s.io := rfl
@[simp] theorem State.reform_cpi (s : State) : (s.reform).cpi = s.cpi := rfl
@[simp] theorem State.reform_mc (s : State) : (s.reform).mc = s.mc := rfl
@[simp] theorem State.reform_lc (s : State) : (s.reform).lc = s.lc := rfl
@[simp] theorem State.reform_bu (s : State) : (s.reform).bu = s.bu := rfl
@[simp] theorem State.reform_map (s : State) : (s.reform).map = s.map := rfl
@[simp] theorem State.reform_ptu (s : State) : (s.reform).ptu = s.ptu := rfl
@[simp] theorem State.reform_ae (s : State) : (s.reform).ae = s.ae := rfl
@[simp] theorem State.reform_hc (s : State) : (s.reform).hc = s.hc := rfl
@[simp] theorem State.reform_ss (s : State) : (s.reform).ss = s.ss := rfl
@[simp] theorem State.reform_ci (s : State) :
    (s.reform).ci = { s.ci with pSet := s.formSetpoint, sendValue := sendValueOf s.conf.pMin s.formSetpoint, inhibit := s.ci.inhibit || s.inhibitCause } := rfl
@[simp] theorem State.reform_bk (s : State) : (s.reform).bk = s.bk := rfl
@[simp] theorem State.reform_pending (s : State) : (s.reform).pending = s.pending := rfl

/-! ### State.sendMessage -/

@[simp] theorem State.sendMessage_now (s : State) (m : List Nat) : (s.sendMessage m).now = s.now := rfl
@[simp] theorem State.sendMessage_io (s : State) (m : List Nat) : (s.sendMessage m).io = s.io := rfl
@[simp] theorem State.sendMessage_cpi (s : State) (m : List Nat) : (s.sendMessage m).cpi = s.cpi := rfl
@[simp] theorem State.sendMessage_mc (s : State) (m : List Nat) : (s.sendMessage m).mc = s.mc := rfl
@[simp] theorem State.sendMessage_lc (s : State) (m : List Nat) : (s.sendMessage m).lc = s.lc := rfl
@[simp] theorem State.sendMessage_bu (s : State) (m : List Nat) : (s.sendMessage m).bu = s.bu := rfl
@[simp] theorem State.sendMessage_map (s : State) (m : List Nat) : (s.sendMessage m).map = s.map := rfl
@[simp] theorem State.sendMessage_ptu (s : State) (m : List Nat) : (s.sendMessage m).ptu = s.ptu := rfl
@[simp] theorem State.sendMessage_ae (s : State) (m : List Nat) : (s.sendMessage m).ae = s.ae := rfl
@[simp] theorem State.sendMessage_hc (s : State) (m : List Nat) : (s.sendMessage m).hc = s.hc := rfl
@[simp] theorem State.sendMessage_ss (s : State) (m : List Nat) : (s.sendMessage m).ss = s.ss := rfl
@[simp] theorem State.sendMessage_ci (s : State) (m : List Nat) :
    (s.sendMessage m).ci = { s.ci with outbox := s.ci.outbox ++ [{ limit := s.ci.sendValue, inhibit := s.ci.inhibit, marks := m }] } := rfl
@[simp] theorem State.sendMessage_bk (s : State) (m : List Nat) : (s.sendMessage m).bk = s.bk := rfl
@[simp] theorem State.sendMessage_pending (s : State) (m : List Nat) : (s.sendMessage m).pending = s.pending := rfl

/-! ### State.forgoMarks -/

@[simp] theorem State.forgoMarks_now (s : State) (qs : List Nat) : (s.forgoMarks qs).now = s.now := rfl
@[simp] theorem State.forgoMarks_io (s : State) (qs : List Nat) : (s.forgoMarks qs).io = s.io := rfl
@[simp] theorem State.forgoMarks_cpi (s : State) (qs : List Nat) : (s.forgoMarks qs).cpi = s.cpi := rfl
@[simp] theorem State.forgoMarks_mc (s : State) (qs : List Nat) : (s.forgoMarks qs).mc = s.mc := rfl
@[simp] theorem State.forgoMarks_lc (s : State) (qs : List Nat) : (s.forgoMarks qs).lc = s.lc := rfl
@[simp] theorem State.forgoMarks_bu (s : State) (qs : List Nat) : (s.forgoMarks qs).bu = s.bu := rfl
@[simp] theorem State.forgoMarks_map (s : State) (qs : List Nat) : (s.forgoMarks qs).map = s.map := rfl
@[simp] theorem State.forgoMarks_ptu (s : State) (qs : List Nat) : (s.forgoMarks qs).ptu = s.ptu := rfl
@[simp] theorem State.forgoMarks_ae (s : State) (qs : List Nat) : (s.forgoMarks qs).ae = s.ae := rfl
@[simp] theorem State.forgoMarks_hc (s : State) (qs : List Nat) : (s.forgoMarks qs).hc = s.hc := rfl
@[simp] theorem State.forgoMarks_ss (s : State) (qs : List Nat) : (s.forgoMarks qs).ss = s.ss := rfl
@[simp] theorem State.forgoMarks_ci (s : State) (qs : List Nat) :
    (s.forgoMarks qs).ci = { s.ci with outbox := s.ci.outbox.map fun m => { m with marks := m.marks.filter fun q => !qs.contains q } } := rfl
@[simp] theorem State.forgoMarks_bk (s : State) (qs : List Nat) : (s.forgoMarks qs).bk = s.bk := rfl
@[simp] theorem State.forgoMarks_pending (s : State) (qs : List Nat) : (s.forgoMarks qs).pending = s.pending := rfl

/-! ### State.refresh -/

@[simp] theorem State.refresh_now (s : State) : (s.refresh).now = s.now := rfl
@[simp] theorem State.refresh_io (s : State) : (s.refresh).io = s.io := rfl
@[simp] theorem State.refresh_cpi (s : State) : (s.refresh).cpi = s.cpi := rfl
@[simp] theorem State.refresh_mc (s : State) : (s.refresh).mc = s.mc := rfl
@[simp] theorem State.refresh_lc (s : State) : (s.refresh).lc = s.lc := rfl
@[simp] theorem State.refresh_bu (s : State) : (s.refresh).bu = s.bu := rfl
@[simp] theorem State.refresh_map (s : State) : (s.refresh).map = s.map := rfl
@[simp] theorem State.refresh_ptu (s : State) : (s.refresh).ptu = s.ptu := rfl
@[simp] theorem State.refresh_ae (s : State) : (s.refresh).ae = s.ae := rfl
@[simp] theorem State.refresh_hc (s : State) : (s.refresh).hc = s.hc := rfl
@[simp] theorem State.refresh_ss (s : State) : (s.refresh).ss = s.ss := rfl
@[simp] theorem State.refresh_ci (s : State) :
    (s.refresh).ci = { s.ci with inhibit := s.inhibitCause, outbox := s.ci.outbox ++ [{ limit := s.ci.sendValue, inhibit := s.inhibitCause, marks := [] }] } := rfl
@[simp] theorem State.refresh_bk (s : State) : (s.refresh).bk = s.bk := rfl
@[simp] theorem State.refresh_pending (s : State) : (s.refresh).pending = s.pending := rfl

/-! ### State.messageSent -/

@[simp] theorem State.messageSent_now (s : State) (m : SetMsg) (rest : List SetMsg) :
    (s.messageSent m rest).now = s.now := rfl
@[simp] theorem State.messageSent_io (s : State) (m : SetMsg) (rest : List SetMsg) :
    (s.messageSent m rest).io = s.io := rfl
@[simp] theorem State.messageSent_cpi (s : State) (m : SetMsg) (rest : List SetMsg) :
    (s.messageSent m rest).cpi = s.cpi := rfl
@[simp] theorem State.messageSent_mc (s : State) (m : SetMsg) (rest : List SetMsg) :
    (s.messageSent m rest).mc = s.mc := rfl
@[simp] theorem State.messageSent_lc (s : State) (m : SetMsg) (rest : List SetMsg) :
    (s.messageSent m rest).lc = s.lc := rfl
@[simp] theorem State.messageSent_bu (s : State) (m : SetMsg) (rest : List SetMsg) :
    (s.messageSent m rest).bu = s.bu := rfl
@[simp] theorem State.messageSent_map (s : State) (m : SetMsg) (rest : List SetMsg) :
    (s.messageSent m rest).map = s.map := rfl
@[simp] theorem State.messageSent_ptu (s : State) (m : SetMsg) (rest : List SetMsg) :
    (s.messageSent m rest).ptu = s.ptu := rfl
@[simp] theorem State.messageSent_ae (s : State) (m : SetMsg) (rest : List SetMsg) :
    (s.messageSent m rest).ae = s.ae := rfl
@[simp] theorem State.messageSent_ss (s : State) (m : SetMsg) (rest : List SetMsg) :
    (s.messageSent m rest).ss = s.ss := rfl
@[simp] theorem State.messageSent_bk (s : State) (m : SetMsg) (rest : List SetMsg) :
    (s.messageSent m rest).bk = s.bk := rfl
@[simp] theorem State.messageSent_pending (s : State) (m : SetMsg) (rest : List SetMsg) :
    (s.messageSent m rest).pending = s.pending := rfl

/-! ### State.configure -/

@[simp] theorem State.configure_now (s : State) (c : Cfg) : (s.configure c).now = s.now := rfl
@[simp] theorem State.configure_io (s : State) (c : Cfg) : (s.configure c).io = s.io := rfl
@[simp] theorem State.configure_cpi (s : State) (c : Cfg) :
    (s.configure c).cpi = { s.cpi with cfg := some c, fingerprint := some c.fingerprintOf } := rfl
@[simp] theorem State.configure_mc (s : State) (c : Cfg) : (s.configure c).mc = { s.mc with mode := .configured } := rfl
@[simp] theorem State.configure_lc (s : State) (c : Cfg) : (s.configure c).lc = s.lc := rfl
@[simp] theorem State.configure_bu (s : State) (c : Cfg) : (s.configure c).bu = { s.bu with bEff := c.bCfg } := rfl
@[simp] theorem State.configure_map (s : State) (c : Cfg) : (s.configure c).map = s.map := rfl
@[simp] theorem State.configure_ptu (s : State) (c : Cfg) :
    (s.configure c).ptu = { s.ptu with entries := freshTable c.nSt s.own } := rfl
@[simp] theorem State.configure_ae (s : State) (c : Cfg) : (s.configure c).ae = s.ae := rfl
@[simp] theorem State.configure_hc (s : State) (c : Cfg) : (s.configure c).hc = s.hc := rfl
@[simp] theorem State.configure_ss (s : State) (c : Cfg) : (s.configure c).ss = s.ss := rfl
@[simp] theorem State.configure_ci (s : State) (c : Cfg) : (s.configure c).ci = s.ci := rfl
@[simp] theorem State.configure_bk (s : State) (c : Cfg) :
    (s.configure c).bk = { s.bk with table := List.replicate Config.bookings none } := rfl
@[simp] theorem State.configure_pending (s : State) (c : Cfg) : (s.configure c).pending = s.pending := rfl

/-! ### State.begin -/

@[simp] theorem State.begin_now (s : State) : (s.begin).now = s.now := rfl
@[simp] theorem State.begin_io (s : State) : (s.begin).io = s.io := rfl
@[simp] theorem State.begin_cpi (s : State) : (s.begin).cpi = s.cpi := rfl
@[simp] theorem State.begin_mc (s : State) : (s.begin).mc = s.mc := rfl
@[simp] theorem State.begin_lc (s : State) : (s.begin).lc = s.lc := rfl
@[simp] theorem State.begin_bu (s : State) : (s.begin).bu = s.bu := rfl
@[simp] theorem State.begin_map (s : State) : (s.begin).map = s.map := rfl
@[simp] theorem State.begin_ptu (s : State) : (s.begin).ptu = s.ptu := rfl
@[simp] theorem State.begin_ae (s : State) : (s.begin).ae = s.ae := rfl
@[simp] theorem State.begin_hc (s : State) : (s.begin).hc = s.hc := rfl
@[simp] theorem State.begin_ss (s : State) : (s.begin).ss = s.ss := rfl
@[simp] theorem State.begin_ci (s : State) : (s.begin).ci = s.ci := rfl
@[simp] theorem State.begin_bk (s : State) : (s.begin).bk = s.bk := rfl
@[simp] theorem State.begin_pending (s : State) : (s.begin).pending = s.pending := rfl
@[simp] theorem State.begin_before (s : State) : (s.begin).before = s := rfl
@[simp] theorem State.begin_sysNotices (s : State) : (s.begin).sysNotices = [] := rfl
@[simp] theorem State.begin_firings (s : State) : (s.begin).firings = [] := rfl
@[simp] theorem State.begin_newDrains (s : State) : (s.begin).newDrains = [] := rfl
@[simp] theorem State.begin_conflictLost (s : State) : (s.begin).conflictLost = [] := rfl
@[simp] theorem State.begin_considerClaim (s : State) : (s.begin).considerClaim = false := rfl
@[simp] theorem State.begin_sendAtOnce (s : State) : (s.begin).sendAtOnce = false := rfl

/-! ### Work.setEntry -/

@[simp] theorem Work.setEntry_now (w : Work) (q : Nat) (e : QEntry) : (w.setEntry q e).now = w.now := rfl
@[simp] theorem Work.setEntry_io (w : Work) (q : Nat) (e : QEntry) : (w.setEntry q e).io = w.io := rfl
@[simp] theorem Work.setEntry_cpi (w : Work) (q : Nat) (e : QEntry) : (w.setEntry q e).cpi = w.cpi := rfl
@[simp] theorem Work.setEntry_mc (w : Work) (q : Nat) (e : QEntry) : (w.setEntry q e).mc = w.mc := rfl
@[simp] theorem Work.setEntry_lc (w : Work) (q : Nat) (e : QEntry) : (w.setEntry q e).lc = w.lc := rfl
@[simp] theorem Work.setEntry_bu (w : Work) (q : Nat) (e : QEntry) : (w.setEntry q e).bu = w.bu := rfl
@[simp] theorem Work.setEntry_map (w : Work) (q : Nat) (e : QEntry) : (w.setEntry q e).map = w.map.set q e := rfl
@[simp] theorem Work.setEntry_ptu (w : Work) (q : Nat) (e : QEntry) : (w.setEntry q e).ptu = w.ptu := rfl
@[simp] theorem Work.setEntry_ae (w : Work) (q : Nat) (e : QEntry) : (w.setEntry q e).ae = w.ae := rfl
@[simp] theorem Work.setEntry_hc (w : Work) (q : Nat) (e : QEntry) : (w.setEntry q e).hc = w.hc := rfl
@[simp] theorem Work.setEntry_ss (w : Work) (q : Nat) (e : QEntry) : (w.setEntry q e).ss = w.ss := rfl
@[simp] theorem Work.setEntry_ci (w : Work) (q : Nat) (e : QEntry) : (w.setEntry q e).ci = w.ci := rfl
@[simp] theorem Work.setEntry_bk (w : Work) (q : Nat) (e : QEntry) : (w.setEntry q e).bk = w.bk := rfl
@[simp] theorem Work.setEntry_pending (w : Work) (q : Nat) (e : QEntry) : (w.setEntry q e).pending = w.pending := rfl
@[simp] theorem Work.setEntry_before (w : Work) (q : Nat) (e : QEntry) : (w.setEntry q e).before = w.before := rfl
@[simp] theorem Work.setEntry_sysNotices (w : Work) (q : Nat) (e : QEntry) :
    (w.setEntry q e).sysNotices = w.sysNotices := rfl
@[simp] theorem Work.setEntry_firings (w : Work) (q : Nat) (e : QEntry) : (w.setEntry q e).firings = w.firings := rfl
@[simp] theorem Work.setEntry_newDrains (w : Work) (q : Nat) (e : QEntry) :
    (w.setEntry q e).newDrains = w.newDrains := rfl
@[simp] theorem Work.setEntry_conflictLost (w : Work) (q : Nat) (e : QEntry) :
    (w.setEntry q e).conflictLost = w.conflictLost := rfl
@[simp] theorem Work.setEntry_considerClaim (w : Work) (q : Nat) (e : QEntry) :
    (w.setEntry q e).considerClaim = w.considerClaim := rfl
@[simp] theorem Work.setEntry_sendAtOnce (w : Work) (q : Nat) (e : QEntry) :
    (w.setEntry q e).sendAtOnce = w.sendAtOnce := rfl

/-! ### Work.mapAll -/

@[simp] theorem Work.mapAll_now (w : Work) (f : Nat → QEntry → QEntry) : (w.mapAll f).now = w.now := rfl
@[simp] theorem Work.mapAll_io (w : Work) (f : Nat → QEntry → QEntry) : (w.mapAll f).io = w.io := rfl
@[simp] theorem Work.mapAll_cpi (w : Work) (f : Nat → QEntry → QEntry) : (w.mapAll f).cpi = w.cpi := rfl
@[simp] theorem Work.mapAll_mc (w : Work) (f : Nat → QEntry → QEntry) : (w.mapAll f).mc = w.mc := rfl
@[simp] theorem Work.mapAll_lc (w : Work) (f : Nat → QEntry → QEntry) : (w.mapAll f).lc = w.lc := rfl
@[simp] theorem Work.mapAll_bu (w : Work) (f : Nat → QEntry → QEntry) : (w.mapAll f).bu = w.bu := rfl
@[simp] theorem Work.mapAll_map (w : Work) (f : Nat → QEntry → QEntry) :
    (w.mapAll f).map = w.map.zipIdx.map fun (e, q) => f q e := rfl
@[simp] theorem Work.mapAll_ptu (w : Work) (f : Nat → QEntry → QEntry) : (w.mapAll f).ptu = w.ptu := rfl
@[simp] theorem Work.mapAll_ae (w : Work) (f : Nat → QEntry → QEntry) : (w.mapAll f).ae = w.ae := rfl
@[simp] theorem Work.mapAll_hc (w : Work) (f : Nat → QEntry → QEntry) : (w.mapAll f).hc = w.hc := rfl
@[simp] theorem Work.mapAll_ss (w : Work) (f : Nat → QEntry → QEntry) : (w.mapAll f).ss = w.ss := rfl
@[simp] theorem Work.mapAll_ci (w : Work) (f : Nat → QEntry → QEntry) : (w.mapAll f).ci = w.ci := rfl
@[simp] theorem Work.mapAll_bk (w : Work) (f : Nat → QEntry → QEntry) : (w.mapAll f).bk = w.bk := rfl
@[simp] theorem Work.mapAll_pending (w : Work) (f : Nat → QEntry → QEntry) : (w.mapAll f).pending = w.pending := rfl
@[simp] theorem Work.mapAll_before (w : Work) (f : Nat → QEntry → QEntry) : (w.mapAll f).before = w.before := rfl
@[simp] theorem Work.mapAll_sysNotices (w : Work) (f : Nat → QEntry → QEntry) :
    (w.mapAll f).sysNotices = w.sysNotices := rfl
@[simp] theorem Work.mapAll_firings (w : Work) (f : Nat → QEntry → QEntry) : (w.mapAll f).firings = w.firings := rfl
@[simp] theorem Work.mapAll_newDrains (w : Work) (f : Nat → QEntry → QEntry) :
    (w.mapAll f).newDrains = w.newDrains := rfl
@[simp] theorem Work.mapAll_conflictLost (w : Work) (f : Nat → QEntry → QEntry) :
    (w.mapAll f).conflictLost = w.conflictLost := rfl
@[simp] theorem Work.mapAll_considerClaim (w : Work) (f : Nat → QEntry → QEntry) :
    (w.mapAll f).considerClaim = w.considerClaim := rfl
@[simp] theorem Work.mapAll_sendAtOnce (w : Work) (f : Nat → QEntry → QEntry) :
    (w.mapAll f).sendAtOnce = w.sendAtOnce := rfl

/-! ### Work.notice -/

@[simp] theorem Work.notice_now (w : Work) (c : SysCode) (v : Nat) (tags : List Byte) :
    (w.notice c v tags).now = w.now := rfl
@[simp] theorem Work.notice_io (w : Work) (c : SysCode) (v : Nat) (tags : List Byte) :
    (w.notice c v tags).io = w.io := rfl
@[simp] theorem Work.notice_cpi (w : Work) (c : SysCode) (v : Nat) (tags : List Byte) :
    (w.notice c v tags).cpi = w.cpi := rfl
@[simp] theorem Work.notice_mc (w : Work) (c : SysCode) (v : Nat) (tags : List Byte) :
    (w.notice c v tags).mc = w.mc := rfl
@[simp] theorem Work.notice_lc (w : Work) (c : SysCode) (v : Nat) (tags : List Byte) :
    (w.notice c v tags).lc = w.lc := rfl
@[simp] theorem Work.notice_bu (w : Work) (c : SysCode) (v : Nat) (tags : List Byte) :
    (w.notice c v tags).bu = w.bu := rfl
@[simp] theorem Work.notice_map (w : Work) (c : SysCode) (v : Nat) (tags : List Byte) :
    (w.notice c v tags).map = w.map := rfl
@[simp] theorem Work.notice_ptu (w : Work) (c : SysCode) (v : Nat) (tags : List Byte) :
    (w.notice c v tags).ptu = w.ptu := rfl
@[simp] theorem Work.notice_ae (w : Work) (c : SysCode) (v : Nat) (tags : List Byte) :
    (w.notice c v tags).ae = w.ae := rfl
@[simp] theorem Work.notice_hc (w : Work) (c : SysCode) (v : Nat) (tags : List Byte) :
    (w.notice c v tags).hc = w.hc := rfl
@[simp] theorem Work.notice_ss (w : Work) (c : SysCode) (v : Nat) (tags : List Byte) :
    (w.notice c v tags).ss = w.ss := rfl
@[simp] theorem Work.notice_ci (w : Work) (c : SysCode) (v : Nat) (tags : List Byte) :
    (w.notice c v tags).ci = w.ci := rfl
@[simp] theorem Work.notice_bk (w : Work) (c : SysCode) (v : Nat) (tags : List Byte) :
    (w.notice c v tags).bk = w.bk := rfl
@[simp] theorem Work.notice_pending (w : Work) (c : SysCode) (v : Nat) (tags : List Byte) :
    (w.notice c v tags).pending = w.pending := rfl
@[simp] theorem Work.notice_before (w : Work) (c : SysCode) (v : Nat) (tags : List Byte) :
    (w.notice c v tags).before = w.before := rfl
@[simp] theorem Work.notice_sysNotices (w : Work) (c : SysCode) (v : Nat) (tags : List Byte) :
    (w.notice c v tags).sysNotices = w.sysNotices ++ [(c, v, tags)] := rfl
@[simp] theorem Work.notice_firings (w : Work) (c : SysCode) (v : Nat) (tags : List Byte) :
    (w.notice c v tags).firings = w.firings := rfl
@[simp] theorem Work.notice_newDrains (w : Work) (c : SysCode) (v : Nat) (tags : List Byte) :
    (w.notice c v tags).newDrains = w.newDrains := rfl
@[simp] theorem Work.notice_conflictLost (w : Work) (c : SysCode) (v : Nat) (tags : List Byte) :
    (w.notice c v tags).conflictLost = w.conflictLost := rfl
@[simp] theorem Work.notice_considerClaim (w : Work) (c : SysCode) (v : Nat) (tags : List Byte) :
    (w.notice c v tags).considerClaim = w.considerClaim := rfl
@[simp] theorem Work.notice_sendAtOnce (w : Work) (c : SysCode) (v : Nat) (tags : List Byte) :
    (w.notice c v tags).sendAtOnce = w.sendAtOnce := rfl

/-! ### Work.setSession -/

@[simp] theorem Work.setSession_now (w : Work) (f : Session → Session) : (w.setSession f).now = w.now := rfl
@[simp] theorem Work.setSession_io (w : Work) (f : Session → Session) : (w.setSession f).io = w.io := rfl
@[simp] theorem Work.setSession_cpi (w : Work) (f : Session → Session) : (w.setSession f).cpi = w.cpi := rfl
@[simp] theorem Work.setSession_mc (w : Work) (f : Session → Session) : (w.setSession f).mc = w.mc := rfl
@[simp] theorem Work.setSession_lc (w : Work) (f : Session → Session) : (w.setSession f).lc = w.lc := rfl
@[simp] theorem Work.setSession_bu (w : Work) (f : Session → Session) : (w.setSession f).bu = w.bu := rfl
@[simp] theorem Work.setSession_map (w : Work) (f : Session → Session) : (w.setSession f).map = w.map := rfl
@[simp] theorem Work.setSession_ptu (w : Work) (f : Session → Session) : (w.setSession f).ptu = w.ptu := rfl
@[simp] theorem Work.setSession_ae (w : Work) (f : Session → Session) : (w.setSession f).ae = w.ae := rfl
@[simp] theorem Work.setSession_hc (w : Work) (f : Session → Session) : (w.setSession f).hc = w.hc := rfl
@[simp] theorem Work.setSession_ss (w : Work) (f : Session → Session) :
    (w.setSession f).ss = { w.ss with session := w.ss.session.map f } := rfl
@[simp] theorem Work.setSession_ci (w : Work) (f : Session → Session) : (w.setSession f).ci = w.ci := rfl
@[simp] theorem Work.setSession_bk (w : Work) (f : Session → Session) : (w.setSession f).bk = w.bk := rfl
@[simp] theorem Work.setSession_pending (w : Work) (f : Session → Session) : (w.setSession f).pending = w.pending := rfl
@[simp] theorem Work.setSession_before (w : Work) (f : Session → Session) : (w.setSession f).before = w.before := rfl
@[simp] theorem Work.setSession_sysNotices (w : Work) (f : Session → Session) :
    (w.setSession f).sysNotices = w.sysNotices := rfl
@[simp] theorem Work.setSession_firings (w : Work) (f : Session → Session) : (w.setSession f).firings = w.firings := rfl
@[simp] theorem Work.setSession_newDrains (w : Work) (f : Session → Session) :
    (w.setSession f).newDrains = w.newDrains := rfl
@[simp] theorem Work.setSession_conflictLost (w : Work) (f : Session → Session) :
    (w.setSession f).conflictLost = w.conflictLost := rfl
@[simp] theorem Work.setSession_considerClaim (w : Work) (f : Session → Session) :
    (w.setSession f).considerClaim = w.considerClaim := rfl
@[simp] theorem Work.setSession_sendAtOnce (w : Work) (f : Session → Session) :
    (w.setSession f).sendAtOnce = w.sendAtOnce := rfl

/-! ### Work.derive -/

@[simp] theorem Work.derive_now (w : Work) : (w.derive).now = w.now := rfl
@[simp] theorem Work.derive_io (w : Work) : (w.derive).io = w.io := rfl
@[simp] theorem Work.derive_cpi (w : Work) : (w.derive).cpi = w.cpi := rfl
@[simp] theorem Work.derive_mc (w : Work) : (w.derive).mc = w.mc := rfl
@[simp] theorem Work.derive_lc (w : Work) : (w.derive).lc = w.lc := rfl
@[simp] theorem Work.derive_bu (w : Work) : (w.derive).bu = w.bu := rfl
@[simp] theorem Work.derive_map (w : Work) : (w.derive).map = w.map := rfl
@[simp] theorem Work.derive_ptu (w : Work) : (w.derive).ptu = w.ptu := rfl
@[simp] theorem Work.derive_ae (w : Work) : (w.derive).ae = w.ae := rfl
@[simp] theorem Work.derive_hc (w : Work) : (w.derive).hc = w.hc := rfl
@[simp] theorem Work.derive_ss (w : Work) : (w.derive).ss = { w.ss with bid := w.toState.deriveBid } := rfl
@[simp] theorem Work.derive_ci (w : Work) : (w.derive).ci = w.ci := rfl
@[simp] theorem Work.derive_bk (w : Work) : (w.derive).bk = w.bk := rfl
@[simp] theorem Work.derive_pending (w : Work) : (w.derive).pending = w.pending := rfl
@[simp] theorem Work.derive_before (w : Work) : (w.derive).before = w.before := rfl
@[simp] theorem Work.derive_sysNotices (w : Work) : (w.derive).sysNotices = w.sysNotices := rfl
@[simp] theorem Work.derive_firings (w : Work) : (w.derive).firings = w.firings := rfl
@[simp] theorem Work.derive_newDrains (w : Work) : (w.derive).newDrains = w.newDrains := rfl
@[simp] theorem Work.derive_conflictLost (w : Work) : (w.derive).conflictLost = w.conflictLost := rfl
@[simp] theorem Work.derive_considerClaim (w : Work) : (w.derive).considerClaim = w.considerClaim := rfl
@[simp] theorem Work.derive_sendAtOnce (w : Work) : (w.derive).sendAtOnce = w.sendAtOnce := rfl

/-! ### Work.endClaim -/

@[simp] theorem Work.endClaim_now (w : Work) : (w.endClaim).now = w.now := rfl
@[simp] theorem Work.endClaim_io (w : Work) : (w.endClaim).io = w.io := rfl
@[simp] theorem Work.endClaim_cpi (w : Work) : (w.endClaim).cpi = w.cpi := rfl
@[simp] theorem Work.endClaim_mc (w : Work) : (w.endClaim).mc = w.mc := rfl
@[simp] theorem Work.endClaim_lc (w : Work) : (w.endClaim).lc = w.lc := rfl
@[simp] theorem Work.endClaim_bu (w : Work) : (w.endClaim).bu = w.bu := rfl
@[simp] theorem Work.endClaim_map (w : Work) : (w.endClaim).map = w.map := rfl
@[simp] theorem Work.endClaim_ptu (w : Work) : (w.endClaim).ptu = w.ptu := rfl
@[simp] theorem Work.endClaim_ae (w : Work) : (w.endClaim).ae = w.ae := rfl
@[simp] theorem Work.endClaim_hc (w : Work) : (w.endClaim).hc = { w.hc with claim := none } := rfl
@[simp] theorem Work.endClaim_ss (w : Work) : (w.endClaim).ss = w.ss := rfl
@[simp] theorem Work.endClaim_ci (w : Work) : (w.endClaim).ci = w.ci := rfl
@[simp] theorem Work.endClaim_bk (w : Work) : (w.endClaim).bk = w.bk := rfl
@[simp] theorem Work.endClaim_pending (w : Work) : (w.endClaim).pending = w.pending := rfl
@[simp] theorem Work.endClaim_before (w : Work) : (w.endClaim).before = w.before := rfl
@[simp] theorem Work.endClaim_sysNotices (w : Work) : (w.endClaim).sysNotices = w.sysNotices := rfl
@[simp] theorem Work.endClaim_firings (w : Work) : (w.endClaim).firings = w.firings := rfl
@[simp] theorem Work.endClaim_newDrains (w : Work) : (w.endClaim).newDrains = w.newDrains := rfl
@[simp] theorem Work.endClaim_conflictLost (w : Work) : (w.endClaim).conflictLost = w.conflictLost := rfl
@[simp] theorem Work.endClaim_considerClaim (w : Work) : (w.endClaim).considerClaim = true := rfl
@[simp] theorem Work.endClaim_sendAtOnce (w : Work) : (w.endClaim).sendAtOnce = w.sendAtOnce := rfl

/-! ### Work.endSweep -/

@[simp] theorem Work.endSweep_now (w : Work) : (w.endSweep).now = w.now := rfl
@[simp] theorem Work.endSweep_io (w : Work) : (w.endSweep).io = w.io := rfl
@[simp] theorem Work.endSweep_cpi (w : Work) : (w.endSweep).cpi = w.cpi := rfl
@[simp] theorem Work.endSweep_mc (w : Work) : (w.endSweep).mc = w.mc := rfl
@[simp] theorem Work.endSweep_lc (w : Work) : (w.endSweep).lc = w.lc := rfl
@[simp] theorem Work.endSweep_bu (w : Work) : (w.endSweep).bu = w.bu := rfl
@[simp] theorem Work.endSweep_map (w : Work) : (w.endSweep).map = w.map := rfl
@[simp] theorem Work.endSweep_ptu (w : Work) : (w.endSweep).ptu = w.ptu := rfl
@[simp] theorem Work.endSweep_ae (w : Work) : (w.endSweep).ae = w.ae := rfl
@[simp] theorem Work.endSweep_hc (w : Work) :
    (w.endSweep).hc = { w.hc with sweep := none, request := w.hc.request.map fun r => { r with ofSweep := false } } := rfl
@[simp] theorem Work.endSweep_ss (w : Work) : (w.endSweep).ss = w.ss := rfl
@[simp] theorem Work.endSweep_ci (w : Work) : (w.endSweep).ci = w.ci := rfl
@[simp] theorem Work.endSweep_bk (w : Work) : (w.endSweep).bk = w.bk := rfl
@[simp] theorem Work.endSweep_pending (w : Work) : (w.endSweep).pending = w.pending := rfl
@[simp] theorem Work.endSweep_before (w : Work) : (w.endSweep).before = w.before := rfl
@[simp] theorem Work.endSweep_sysNotices (w : Work) : (w.endSweep).sysNotices = w.sysNotices := rfl
@[simp] theorem Work.endSweep_firings (w : Work) : (w.endSweep).firings = w.firings := rfl
@[simp] theorem Work.endSweep_newDrains (w : Work) : (w.endSweep).newDrains = w.newDrains := rfl
@[simp] theorem Work.endSweep_conflictLost (w : Work) : (w.endSweep).conflictLost = w.conflictLost := rfl
@[simp] theorem Work.endSweep_considerClaim (w : Work) : (w.endSweep).considerClaim = w.considerClaim := rfl
@[simp] theorem Work.endSweep_sendAtOnce (w : Work) : (w.endSweep).sendAtOnce = w.sendAtOnce := rfl

/-! ### Work.clearStuck -/

@[simp] theorem Work.clearStuck_now (w : Work) : (w.clearStuck).now = w.now := rfl
@[simp] theorem Work.clearStuck_io (w : Work) : (w.clearStuck).io = w.io := rfl
@[simp] theorem Work.clearStuck_cpi (w : Work) : (w.clearStuck).cpi = w.cpi := rfl
@[simp] theorem Work.clearStuck_mc (w : Work) : (w.clearStuck).mc = w.mc := rfl
@[simp] theorem Work.clearStuck_lc (w : Work) : (w.clearStuck).lc = w.lc := rfl
@[simp] theorem Work.clearStuck_bu (w : Work) : (w.clearStuck).bu = w.bu := rfl
@[simp] theorem Work.clearStuck_map (w : Work) : (w.clearStuck).map = w.map := rfl
@[simp] theorem Work.clearStuck_ptu (w : Work) : (w.clearStuck).ptu = w.ptu := rfl
@[simp] theorem Work.clearStuck_ae (w : Work) : (w.clearStuck).ae = w.ae := rfl
@[simp] theorem Work.clearStuck_hc (w : Work) :
    (w.clearStuck).hc = { w.hc with stuck := false, quiesceAt := none } := rfl
@[simp] theorem Work.clearStuck_ss (w : Work) : (w.clearStuck).ss = w.ss := rfl
@[simp] theorem Work.clearStuck_ci (w : Work) : (w.clearStuck).ci = w.ci := rfl
@[simp] theorem Work.clearStuck_bk (w : Work) : (w.clearStuck).bk = w.bk := rfl
@[simp] theorem Work.clearStuck_pending (w : Work) : (w.clearStuck).pending = w.pending := rfl
@[simp] theorem Work.clearStuck_before (w : Work) : (w.clearStuck).before = w.before := rfl
@[simp] theorem Work.clearStuck_sysNotices (w : Work) : (w.clearStuck).sysNotices = w.sysNotices := rfl
@[simp] theorem Work.clearStuck_firings (w : Work) : (w.clearStuck).firings = w.firings := rfl
@[simp] theorem Work.clearStuck_newDrains (w : Work) : (w.clearStuck).newDrains = w.newDrains := rfl
@[simp] theorem Work.clearStuck_conflictLost (w : Work) : (w.clearStuck).conflictLost = w.conflictLost := rfl
@[simp] theorem Work.clearStuck_considerClaim (w : Work) : (w.clearStuck).considerClaim = w.considerClaim := rfl
@[simp] theorem Work.clearStuck_sendAtOnce (w : Work) : (w.clearStuck).sendAtOnce = w.sendAtOnce := rfl

/-! ### Work.startEpoch -/

@[simp] theorem Work.startEpoch_now (w : Work) : (w.startEpoch).now = w.now := rfl
@[simp] theorem Work.startEpoch_io (w : Work) : (w.startEpoch).io = w.io := rfl
@[simp] theorem Work.startEpoch_cpi (w : Work) : (w.startEpoch).cpi = w.cpi := rfl
@[simp] theorem Work.startEpoch_mc (w : Work) : (w.startEpoch).mc = w.mc := rfl
@[simp] theorem Work.startEpoch_lc (w : Work) : (w.startEpoch).lc = w.lc := rfl
@[simp] theorem Work.startEpoch_bu (w : Work) : (w.startEpoch).bu = w.bu := rfl
@[simp] theorem Work.startEpoch_map (w : Work) : (w.startEpoch).map = w.map := rfl
@[simp] theorem Work.startEpoch_ptu (w : Work) : (w.startEpoch).ptu = w.ptu := rfl
@[simp] theorem Work.startEpoch_ae (w : Work) :
    (w.startEpoch).ae = { w.ae with epochAt := some (w.now + w.toState.conf.tEp) } := rfl
@[simp] theorem Work.startEpoch_hc (w : Work) : (w.startEpoch).hc = w.hc := rfl
@[simp] theorem Work.startEpoch_ss (w : Work) : (w.startEpoch).ss = w.ss := rfl
@[simp] theorem Work.startEpoch_ci (w : Work) : (w.startEpoch).ci = w.ci := rfl
@[simp] theorem Work.startEpoch_bk (w : Work) : (w.startEpoch).bk = w.bk := rfl
@[simp] theorem Work.startEpoch_pending (w : Work) : (w.startEpoch).pending = w.pending := rfl
@[simp] theorem Work.startEpoch_before (w : Work) : (w.startEpoch).before = w.before := rfl
@[simp] theorem Work.startEpoch_sysNotices (w : Work) : (w.startEpoch).sysNotices = w.sysNotices := rfl
@[simp] theorem Work.startEpoch_firings (w : Work) : (w.startEpoch).firings = w.firings := rfl
@[simp] theorem Work.startEpoch_newDrains (w : Work) : (w.startEpoch).newDrains = w.newDrains := rfl
@[simp] theorem Work.startEpoch_conflictLost (w : Work) : (w.startEpoch).conflictLost = w.conflictLost := rfl
@[simp] theorem Work.startEpoch_considerClaim (w : Work) : (w.startEpoch).considerClaim = w.considerClaim := rfl
@[simp] theorem Work.startEpoch_sendAtOnce (w : Work) : (w.startEpoch).sendAtOnce = w.sendAtOnce := rfl

/-! ### Work.sendBreak -/

@[simp] theorem Work.sendBreak_now (w : Work) : (w.sendBreak).now = w.now := rfl
@[simp] theorem Work.sendBreak_io (w : Work) : (w.sendBreak).io = w.io := rfl
@[simp] theorem Work.sendBreak_cpi (w : Work) : (w.sendBreak).cpi = w.cpi := rfl
@[simp] theorem Work.sendBreak_mc (w : Work) : (w.sendBreak).mc = w.mc := rfl
@[simp] theorem Work.sendBreak_lc (w : Work) : (w.sendBreak).lc = w.lc.askBreak := rfl
@[simp] theorem Work.sendBreak_bu (w : Work) : (w.sendBreak).bu = w.bu := rfl
@[simp] theorem Work.sendBreak_map (w : Work) : (w.sendBreak).map = w.map := rfl
@[simp] theorem Work.sendBreak_ptu (w : Work) : (w.sendBreak).ptu = w.ptu := rfl
@[simp] theorem Work.sendBreak_ae (w : Work) : (w.sendBreak).ae = w.ae := rfl
@[simp] theorem Work.sendBreak_hc (w : Work) : (w.sendBreak).hc = w.hc := rfl
@[simp] theorem Work.sendBreak_ss (w : Work) : (w.sendBreak).ss = w.ss := rfl
@[simp] theorem Work.sendBreak_ci (w : Work) : (w.sendBreak).ci = w.ci := rfl
@[simp] theorem Work.sendBreak_bk (w : Work) : (w.sendBreak).bk = w.bk := rfl
@[simp] theorem Work.sendBreak_pending (w : Work) : (w.sendBreak).pending = w.pending := rfl
@[simp] theorem Work.sendBreak_before (w : Work) : (w.sendBreak).before = w.before := rfl
@[simp] theorem Work.sendBreak_sysNotices (w : Work) : (w.sendBreak).sysNotices = w.sysNotices := rfl
@[simp] theorem Work.sendBreak_firings (w : Work) : (w.sendBreak).firings = w.firings := rfl
@[simp] theorem Work.sendBreak_newDrains (w : Work) : (w.sendBreak).newDrains = w.newDrains := rfl
@[simp] theorem Work.sendBreak_conflictLost (w : Work) : (w.sendBreak).conflictLost = w.conflictLost := rfl
@[simp] theorem Work.sendBreak_considerClaim (w : Work) : (w.sendBreak).considerClaim = w.considerClaim := rfl
@[simp] theorem Work.sendBreak_sendAtOnce (w : Work) : (w.sendBreak).sendAtOnce = w.sendAtOnce := rfl

/-! ### Work.startDrain -/

@[simp] theorem Work.startDrain_now (w : Work) (r : DrainReason) (b : Option Nat) (qs : List Nat) :
    (w.startDrain r b qs).now = w.now := rfl
@[simp] theorem Work.startDrain_io (w : Work) (r : DrainReason) (b : Option Nat) (qs : List Nat) :
    (w.startDrain r b qs).io = w.io := rfl
@[simp] theorem Work.startDrain_cpi (w : Work) (r : DrainReason) (b : Option Nat) (qs : List Nat) :
    (w.startDrain r b qs).cpi = w.cpi := rfl
@[simp] theorem Work.startDrain_mc (w : Work) (r : DrainReason) (b : Option Nat) (qs : List Nat) :
    (w.startDrain r b qs).mc = w.mc := rfl
@[simp] theorem Work.startDrain_lc (w : Work) (r : DrainReason) (b : Option Nat) (qs : List Nat) :
    (w.startDrain r b qs).lc = w.lc := rfl
@[simp] theorem Work.startDrain_bu (w : Work) (r : DrainReason) (b : Option Nat) (qs : List Nat) :
    (w.startDrain r b qs).bu = w.bu := rfl
@[simp] theorem Work.startDrain_ptu (w : Work) (r : DrainReason) (b : Option Nat) (qs : List Nat) :
    (w.startDrain r b qs).ptu = w.ptu := rfl
@[simp] theorem Work.startDrain_ae (w : Work) (r : DrainReason) (b : Option Nat) (qs : List Nat) :
    (w.startDrain r b qs).ae = w.ae := rfl
@[simp] theorem Work.startDrain_ss (w : Work) (r : DrainReason) (b : Option Nat) (qs : List Nat) :
    (w.startDrain r b qs).ss = w.ss := rfl
@[simp] theorem Work.startDrain_ci (w : Work) (r : DrainReason) (b : Option Nat) (qs : List Nat) :
    (w.startDrain r b qs).ci = w.ci := rfl
@[simp] theorem Work.startDrain_bk (w : Work) (r : DrainReason) (b : Option Nat) (qs : List Nat) :
    (w.startDrain r b qs).bk = w.bk := rfl
@[simp] theorem Work.startDrain_pending (w : Work) (r : DrainReason) (b : Option Nat) (qs : List Nat) :
    (w.startDrain r b qs).pending = w.pending := rfl
@[simp] theorem Work.startDrain_before (w : Work) (r : DrainReason) (b : Option Nat) (qs : List Nat) :
    (w.startDrain r b qs).before = w.before := rfl
@[simp] theorem Work.startDrain_sysNotices (w : Work) (r : DrainReason) (b : Option Nat) (qs : List Nat) :
    (w.startDrain r b qs).sysNotices = w.sysNotices := rfl
@[simp] theorem Work.startDrain_firings (w : Work) (r : DrainReason) (b : Option Nat) (qs : List Nat) :
    (w.startDrain r b qs).firings = w.firings := rfl
@[simp] theorem Work.startDrain_conflictLost (w : Work) (r : DrainReason) (b : Option Nat) (qs : List Nat) :
    (w.startDrain r b qs).conflictLost = w.conflictLost := rfl
@[simp] theorem Work.startDrain_considerClaim (w : Work) (r : DrainReason) (b : Option Nat) (qs : List Nat) :
    (w.startDrain r b qs).considerClaim = w.considerClaim := rfl
@[simp] theorem Work.startDrain_sendAtOnce (w : Work) (r : DrainReason) (b : Option Nat) (qs : List Nat) :
    (w.startDrain r b qs).sendAtOnce = w.sendAtOnce := rfl

/-! ### Work.freeLocally -/

@[simp] theorem Work.freeLocally_now (w : Work) (qs : List Nat) : (w.freeLocally qs).now = w.now := rfl
@[simp] theorem Work.freeLocally_io (w : Work) (qs : List Nat) : (w.freeLocally qs).io = w.io := rfl
@[simp] theorem Work.freeLocally_cpi (w : Work) (qs : List Nat) : (w.freeLocally qs).cpi = w.cpi := rfl
@[simp] theorem Work.freeLocally_mc (w : Work) (qs : List Nat) : (w.freeLocally qs).mc = w.mc := rfl
@[simp] theorem Work.freeLocally_lc (w : Work) (qs : List Nat) : (w.freeLocally qs).lc = w.lc := rfl
@[simp] theorem Work.freeLocally_bu (w : Work) (qs : List Nat) : (w.freeLocally qs).bu = w.bu := rfl
@[simp] theorem Work.freeLocally_ptu (w : Work) (qs : List Nat) : (w.freeLocally qs).ptu = w.ptu := rfl
@[simp] theorem Work.freeLocally_ae (w : Work) (qs : List Nat) : (w.freeLocally qs).ae = w.ae := rfl
@[simp] theorem Work.freeLocally_hc (w : Work) (qs : List Nat) :
    (w.freeLocally qs).hc = { w.hc with drains := w.hc.drains.filter fun d => !qs.contains d.quantum } := rfl
@[simp] theorem Work.freeLocally_ss (w : Work) (qs : List Nat) : (w.freeLocally qs).ss = w.ss := rfl
@[simp] theorem Work.freeLocally_ci (w : Work) (qs : List Nat) : (w.freeLocally qs).ci = w.ci := rfl
@[simp] theorem Work.freeLocally_bk (w : Work) (qs : List Nat) : (w.freeLocally qs).bk = w.bk := rfl
@[simp] theorem Work.freeLocally_pending (w : Work) (qs : List Nat) : (w.freeLocally qs).pending = w.pending := rfl
@[simp] theorem Work.freeLocally_before (w : Work) (qs : List Nat) : (w.freeLocally qs).before = w.before := rfl
@[simp] theorem Work.freeLocally_sysNotices (w : Work) (qs : List Nat) :
    (w.freeLocally qs).sysNotices = w.sysNotices := rfl
@[simp] theorem Work.freeLocally_firings (w : Work) (qs : List Nat) : (w.freeLocally qs).firings = w.firings := rfl
@[simp] theorem Work.freeLocally_newDrains (w : Work) (qs : List Nat) :
    (w.freeLocally qs).newDrains = w.newDrains := rfl
@[simp] theorem Work.freeLocally_conflictLost (w : Work) (qs : List Nat) :
    (w.freeLocally qs).conflictLost = w.conflictLost := rfl
@[simp] theorem Work.freeLocally_considerClaim (w : Work) (qs : List Nat) :
    (w.freeLocally qs).considerClaim = w.considerClaim := rfl
@[simp] theorem Work.freeLocally_sendAtOnce (w : Work) (qs : List Nat) :
    (w.freeLocally qs).sendAtOnce = w.sendAtOnce := rfl

end Sys2Proof.Machine
end

