-- ==== Sys2Proof/Laws/Map.lean ====
section
/-! SUPPORT. The quantum map: what one entry reads after each operation on the map, the lengths that stay, and the
lists of quanta. -/

namespace Sys2Proof.Machine

/-! ## Lists -/

/-- A fold keeps what each of its steps keeps. -/
theorem foldl_keeps {α β γ : Type} (g : α → γ) (f : α → β → α) (h : ∀ a b, g (f a b) = g a) (l : List β) (a : α) :
    g (l.foldl f a) = g a := by
  induction l generalizing a with
  | nil => rfl
  | cons b l ih => rw [List.foldl_cons, ih, h]

/-- A fold keeps an invariant that each of its steps keeps. -/
theorem foldl_induct {α β : Type} (p : α → Prop) (f : α → β → α) (h : ∀ a b, p a → p (f a b)) (l : List β) (a : α)
    (ha : p a) : p (l.foldl f a) := by
  induction l generalizing a with
  | nil => exact ha
  | cons b l ih => exact ih _ (h _ _ ha)

@[simp] theorem mem_onceEach {α : Type} [DecidableEq α] (x : α) (l : List α) : x ∈ onceEach l ↔ x ∈ l := by
  induction l with
  | nil => simp [onceEach]
  | cons y l ih =>
    by_cases h : x = y
    · simp [onceEach, h]
    · simp [onceEach, h, ih]

theorem onceEach_nodup {α : Type} [DecidableEq α] (l : List α) : (onceEach l).Nodup := by
  induction l with
  | nil => simp [onceEach]
  | cons y l ih =>
    simp only [onceEach, List.nodup_cons]
    exact ⟨by simp, ih.filter _⟩

theorem onceEach_of_nodup {α : Type} [DecidableEq α] (l : List α) (h : l.Nodup) : onceEach l = l := by
  induction l with
  | nil => rfl
  | cons y l ih =>
    rw [List.nodup_cons] at h
    rw [onceEach, ih h.2, List.filter_eq_self.2]
    intro a ha
    have : a ≠ y := fun e => h.1 (e ▸ ha)
    simpa using this

@[simp] theorem mem_listedQuanta (s : State) (q : Nat) (l : List Nat) :
    q ∈ s.listedQuanta l ↔ q ∈ l ∧ q < s.conf.bCfg := by simp [State.listedQuanta]

theorem listedQuanta_nodup (s : State) (l : List Nat) : (s.listedQuanta l).Nodup := onceEach_nodup _

theorem mem_zipIdx_iff_getElem? {α : Type} (l : List α) (a : α) (i : Nat) : (a, i) ∈ l.zipIdx ↔ l[i]? = some a := by
  rw [List.mk_mem_zipIdx_iff_getElem?]

/-- A quantum is listed by `quantaWhere` when the map has it and its entry satisfies the condition. -/
@[simp] theorem mem_quantaWhere (m : List QEntry) (p : Nat → QEntry → Bool) (q : Nat) :
    q ∈ quantaWhere m p ↔ ∃ e, m[q]? = some e ∧ p q e = true := by
  unfold quantaWhere
  rw [List.mem_filterMap]
  constructor
  · rintro ⟨⟨e, i⟩, hm, h⟩
    by_cases hp : p i e = true
    · simp only [hp, if_true, Option.some.injEq] at h
      exact ⟨e, h ▸ (mem_zipIdx_iff_getElem? _ _ _).1 hm, h ▸ hp⟩
    · simp [hp] at h
  · rintro ⟨e, hm, hp⟩
    exact ⟨(e, q), (mem_zipIdx_iff_getElem? _ _ _).2 hm, by simp [hp]⟩

/-! ## One entry -/

theorem entry_eq_of_map (s t : State) (h : s.map = t.map) (q : Nat) : s.entry q = t.entry q := by
  simp [State.entry, h]

theorem getD_set {α : Type} (l : List α) (q r : Nat) (a d : α) :
    (l.set q a).getD r d = if r = q ∧ q < l.length then a else l.getD r d := by
  by_cases h : r = q
  · subst h
    by_cases hl : r < l.length
    · simp [List.getD, hl]
    · simp [List.getD, hl]
  · simp [List.getD, h, List.getElem?_set_ne (Ne.symm h)]

/-- One entry after `setEntry`. -/
theorem Work.entry_setEntry (w : Work) (q r : Nat) (e : QEntry) :
    (w.setEntry q e).toState.entry r = if r = q ∧ q < w.map.length then e else w.toState.entry r := by
  simp only [State.entry, Work.setEntry_map]
  exact getD_set _ _ _ _ _

/-- One entry after `mapAll`. -/
theorem Work.entry_mapAll (w : Work) (f : Nat → QEntry → QEntry) (q : Nat) (h : q < w.map.length) :
    (w.mapAll f).toState.entry q = f q (w.toState.entry q) := by
  simp [State.entry, List.getD, h]

theorem Work.entry_mapAll_ge (w : Work) (f : Nat → QEntry → QEntry) (q : Nat) (h : w.map.length ≤ q) :
    (w.mapAll f).toState.entry q = .withdrawn := by
  simp [State.entry, List.getD, h]

/-- One entry after a fold that sets each listed quantum to one value. -/
theorem getD_foldl_set {α : Type} (qs : List Nat) (m : List α) (a d : α) (r : Nat) :
    (qs.foldl (fun m q => m.set q a) m).getD r d = if r ∈ qs ∧ r < m.length then a else m.getD r d := by
  induction qs generalizing m with
  | nil => simp
  | cons q qs ih =>
    rw [List.foldl_cons, ih, List.length_set, getD_set]
    by_cases h1 : r = q <;> by_cases h2 : r ∈ qs <;> by_cases h3 : r < m.length <;> simp_all

/-- One entry after `startDrain`: the listed quanta that were Mine drain, and no other entry changes. -/
theorem Work.entry_startDrain (w : Work) (r : DrainReason) (b : Option Nat) (qs : List Nat) (q : Nat) :
    (w.startDrain r b qs).toState.entry q =
      if q ∈ qs ∧ w.toState.entry q = .mine then .draining r b else w.toState.entry q := by
  have key : (w.startDrain r b qs).toState.entry q =
      if q ∈ qs.filter (fun q => w.toState.entry q == .mine) ∧ q < w.map.length then .draining r b
      else w.toState.entry q := getD_foldl_set _ _ _ _ _
  rw [key]
  by_cases hm : w.toState.entry q = .mine
  · have hl : q < w.map.length := by
      by_contra h
      simp [State.entry, List.getD, Nat.le_of_not_lt h] at hm
    simp [hm, hl]
  · simp [hm]

/-! ## Lengths -/

@[simp] theorem Work.mapAll_length (w : Work) (f : Nat → QEntry → QEntry) :
    (w.mapAll f).map.length = w.map.length := by simp

@[simp] theorem Work.setEntry_length (w : Work) (q : Nat) (e : QEntry) :
    (w.setEntry q e).map.length = w.map.length := by simp

@[simp] theorem Work.startDrain_length (w : Work) (r : DrainReason) (b : Option Nat) (qs : List Nat) :
    (w.startDrain r b qs).map.length = w.map.length :=
  foldl_keeps List.length _ (fun _ _ => List.length_set ..) _ _

@[simp] theorem Work.freeLocally_length (w : Work) (qs : List Nat) : (w.freeLocally qs).map.length = w.map.length :=
  foldl_keeps List.length _ (fun _ _ => by split <;> simp) _ _

@[simp] theorem startMap_length (n : Nat) : (startMap n).length = 128 := by simp [startMap, Config.quanta]

@[simp] theorem wipedMap_length (s : State) : s.wipedMap.length = 128 := by simp [State.wipedMap, Config.quanta]

/-- One entry of the map at START (R17). -/
theorem startMap_getD (n q : Nat) (h : q < 128) (d : QEntry) :
    (startMap n).getD q d = if q < n then .free else .withdrawn := by
  simp [startMap, List.getD, Config.quanta, h]

/-- One entry of a wiped map (R38). -/
theorem wipedMap_getD (s : State) (q : Nat) (h : q < 128) (d : QEntry) : s.wipedMap.getD q d = s.vacant q := by
  simp [State.wipedMap, List.getD, Config.quanta, h]

/-- A quantum left vacant lies as Table 11 says. -/
theorem vacant_eq (s : State) (q : Nat) : s.vacant q = if q < s.bu.bEff then .free else .withdrawn := rfl

end Sys2Proof.Machine
end

