-- ==== Sys2Proof/Laws/Keeps.lean ====
section
/-! SUPPORT. What each shared operation of a step leaves as it was, block by block: the fields of the state that are not
named in a lemma are the ones the operation can change. -/

namespace Sys2Proof.Machine

@[simp] theorem Work.suspendCause_keeps (w : Work) (r : SuspReason) :
    (w.suspendCause r).now = w.now ∧ (w.suspendCause r).io = w.io ∧ (w.suspendCause r).cpi = w.cpi ∧
    (w.suspendCause r).mc = w.mc ∧ (w.suspendCause r).lc = w.lc ∧ (w.suspendCause r).bu = w.bu ∧
    (w.suspendCause r).map = w.map ∧ (w.suspendCause r).ptu = w.ptu ∧ (w.suspendCause r).ae = w.ae ∧
    (w.suspendCause r).hc = w.hc ∧ (w.suspendCause r).ci = w.ci ∧ (w.suspendCause r).bk = w.bk ∧
    (w.suspendCause r).pending = w.pending ∧ (w.suspendCause r).before = w.before ∧
    (w.suspendCause r).sysNotices = w.sysNotices ∧ (w.suspendCause r).firings = w.firings ∧
    (w.suspendCause r).newDrains = w.newDrains ∧ (w.suspendCause r).conflictLost = w.conflictLost ∧
    (w.suspendCause r).considerClaim = w.considerClaim ∧ (w.suspendCause r).sendAtOnce = w.sendAtOnce := by
  unfold Work.suspendCause
  try dsimp only
  (repeat' split) <;> simp

@[simp] theorem Work.takeAction_keeps (w : Work) (a : Action) :
    (w.takeAction a).now = w.now ∧ (w.takeAction a).io = w.io ∧ (w.takeAction a).cpi = w.cpi ∧
    (w.takeAction a).mc = w.mc ∧ (w.takeAction a).lc = w.lc ∧ (w.takeAction a).bu = w.bu ∧
    (w.takeAction a).map = w.map ∧ (w.takeAction a).ptu = w.ptu ∧ (w.takeAction a).ae = w.ae ∧
    (w.takeAction a).hc = w.hc ∧ (w.takeAction a).ci = w.ci ∧ (w.takeAction a).pending = w.pending ∧
    (w.takeAction a).before = w.before ∧ (w.takeAction a).sysNotices = w.sysNotices ∧
    (w.takeAction a).firings = w.firings ∧ (w.takeAction a).newDrains = w.newDrains ∧
    (w.takeAction a).conflictLost = w.conflictLost ∧ (w.takeAction a).considerClaim = w.considerClaim ∧
    (w.takeAction a).sendAtOnce = w.sendAtOnce := by
  unfold Work.takeAction
  try dsimp only
  (repeat' split) <;> simp

@[simp] theorem Work.evaluate_keeps (w : Work) (i : Nat) (h e : Bool) (v : Nat) :
    (w.evaluate i h e v).now = w.now ∧ (w.evaluate i h e v).io = w.io ∧ (w.evaluate i h e v).cpi = w.cpi ∧
    (w.evaluate i h e v).mc = w.mc ∧ (w.evaluate i h e v).lc = w.lc ∧ (w.evaluate i h e v).bu = w.bu ∧
    (w.evaluate i h e v).map = w.map ∧ (w.evaluate i h e v).ptu = w.ptu ∧ (w.evaluate i h e v).ae = w.ae ∧
    (w.evaluate i h e v).hc = w.hc ∧ (w.evaluate i h e v).ci = w.ci ∧ (w.evaluate i h e v).pending = w.pending ∧
    (w.evaluate i h e v).before = w.before ∧ (w.evaluate i h e v).sysNotices = w.sysNotices ∧
    (w.evaluate i h e v).newDrains = w.newDrains ∧ (w.evaluate i h e v).conflictLost = w.conflictLost ∧
    (w.evaluate i h e v).considerClaim = w.considerClaim ∧ (w.evaluate i h e v).sendAtOnce = w.sendAtOnce := by
  unfold Work.evaluate
  try dsimp only
  (repeat' split) <;> simp

@[simp] theorem Work.hand_keeps (w : Work) (sel : Trigger → Option (Bool × Bool × Nat)) :
    (w.hand sel).now = w.now ∧ (w.hand sel).io = w.io ∧ (w.hand sel).cpi = w.cpi ∧ (w.hand sel).mc = w.mc ∧
    (w.hand sel).lc = w.lc ∧ (w.hand sel).bu = w.bu ∧ (w.hand sel).map = w.map ∧ (w.hand sel).ptu = w.ptu ∧
    (w.hand sel).ae = w.ae ∧ (w.hand sel).hc = w.hc ∧ (w.hand sel).ci = w.ci ∧ (w.hand sel).pending = w.pending ∧
    (w.hand sel).before = w.before ∧ (w.hand sel).sysNotices = w.sysNotices ∧ (w.hand sel).newDrains = w.newDrains ∧
    (w.hand sel).conflictLost = w.conflictLost ∧ (w.hand sel).considerClaim = w.considerClaim ∧
    (w.hand sel).sendAtOnce = w.sendAtOnce := by
  unfold Work.hand
  refine ⟨foldl_keeps (fun w : Work => w.now) _ (fun a b => by split <;> simp) _ _,
    foldl_keeps (fun w : Work => w.io) _ (fun a b => by split <;> simp) _ _,
    foldl_keeps (fun w : Work => w.cpi) _ (fun a b => by split <;> simp) _ _,
    foldl_keeps (fun w : Work => w.mc) _ (fun a b => by split <;> simp) _ _,
    foldl_keeps (fun w : Work => w.lc) _ (fun a b => by split <;> simp) _ _,
    foldl_keeps (fun w : Work => w.bu) _ (fun a b => by split <;> simp) _ _,
    foldl_keeps (fun w : Work => w.map) _ (fun a b => by split <;> simp) _ _,
    foldl_keeps (fun w : Work => w.ptu) _ (fun a b => by split <;> simp) _ _,
    foldl_keeps (fun w : Work => w.ae) _ (fun a b => by split <;> simp) _ _,
    foldl_keeps (fun w : Work => w.hc) _ (fun a b => by split <;> simp) _ _,
    foldl_keeps (fun w : Work => w.ci) _ (fun a b => by split <;> simp) _ _,
    foldl_keeps (fun w : Work => w.pending) _ (fun a b => by split <;> simp) _ _,
    foldl_keeps (fun w : Work => w.before) _ (fun a b => by split <;> simp) _ _,
    foldl_keeps (fun w : Work => w.sysNotices) _ (fun a b => by split <;> simp) _ _,
    foldl_keeps (fun w : Work => w.newDrains) _ (fun a b => by split <;> simp) _ _,
    foldl_keeps (fun w : Work => w.conflictLost) _ (fun a b => by split <;> simp) _ _,
    foldl_keeps (fun w : Work => w.considerClaim) _ (fun a b => by split <;> simp) _ _,
    foldl_keeps (fun w : Work => w.sendAtOnce) _ (fun a b => by split <;> simp) _ _⟩

@[simp] theorem Work.handPeer_keeps (w : Work) (t : Nat) (m : Bool) :
    (w.handPeer t m).now = w.now ∧ (w.handPeer t m).io = w.io ∧ (w.handPeer t m).cpi = w.cpi ∧
    (w.handPeer t m).mc = w.mc ∧ (w.handPeer t m).lc = w.lc ∧ (w.handPeer t m).bu = w.bu ∧
    (w.handPeer t m).map = w.map ∧ (w.handPeer t m).ptu = w.ptu ∧ (w.handPeer t m).ae = w.ae ∧
    (w.handPeer t m).hc = w.hc ∧ (w.handPeer t m).ci = w.ci ∧ (w.handPeer t m).pending = w.pending ∧
    (w.handPeer t m).before = w.before ∧ (w.handPeer t m).sysNotices = w.sysNotices ∧
    (w.handPeer t m).newDrains = w.newDrains ∧ (w.handPeer t m).conflictLost = w.conflictLost ∧
    (w.handPeer t m).considerClaim = w.considerClaim ∧ (w.handPeer t m).sendAtOnce = w.sendAtOnce := by
  simp [Work.handPeer]

@[simp] theorem Work.handBudget_keeps (w : Work) :
    w.handBudget.now = w.now ∧ w.handBudget.io = w.io ∧ w.handBudget.cpi = w.cpi ∧ w.handBudget.mc = w.mc ∧
    w.handBudget.lc = w.lc ∧ w.handBudget.bu = w.bu ∧ w.handBudget.map = w.map ∧ w.handBudget.ptu = w.ptu ∧
    w.handBudget.ae = w.ae ∧ w.handBudget.hc = w.hc ∧ w.handBudget.ci = w.ci ∧ w.handBudget.pending = w.pending ∧
    w.handBudget.before = w.before ∧ w.handBudget.sysNotices = w.sysNotices ∧ w.handBudget.newDrains = w.newDrains ∧
    w.handBudget.conflictLost = w.conflictLost ∧ w.handBudget.considerClaim = w.considerClaim ∧
    w.handBudget.sendAtOnce = w.sendAtOnce := by
  simp [Work.handBudget]

@[simp] theorem Work.handTarget_keeps (w : Work) :
    w.handTarget.now = w.now ∧ w.handTarget.io = w.io ∧ w.handTarget.cpi = w.cpi ∧ w.handTarget.mc = w.mc ∧
    w.handTarget.lc = w.lc ∧ w.handTarget.bu = w.bu ∧ w.handTarget.map = w.map ∧ w.handTarget.ptu = w.ptu ∧
    w.handTarget.ae = w.ae ∧ w.handTarget.hc = w.hc ∧ w.handTarget.ci = w.ci ∧ w.handTarget.pending = w.pending ∧
    w.handTarget.before = w.before ∧ w.handTarget.sysNotices = w.sysNotices ∧ w.handTarget.newDrains = w.newDrains ∧
    w.handTarget.conflictLost = w.conflictLost ∧ w.handTarget.considerClaim = w.considerClaim ∧
    w.handTarget.sendAtOnce = w.sendAtOnce := by
  simp [Work.handTarget]

@[simp] theorem Work.handRisk_keeps (w : Work) :
    w.handRisk.now = w.now ∧ w.handRisk.io = w.io ∧ w.handRisk.cpi = w.cpi ∧ w.handRisk.mc = w.mc ∧
    w.handRisk.lc = w.lc ∧ w.handRisk.bu = w.bu ∧ w.handRisk.map = w.map ∧ w.handRisk.ptu = w.ptu ∧
    w.handRisk.ae = w.ae ∧ w.handRisk.hc = w.hc ∧ w.handRisk.ci = w.ci ∧ w.handRisk.pending = w.pending ∧
    w.handRisk.before = w.before ∧ w.handRisk.sysNotices = w.sysNotices ∧ w.handRisk.newDrains = w.newDrains ∧
    w.handRisk.conflictLost = w.conflictLost ∧ w.handRisk.considerClaim = w.considerClaim ∧
    w.handRisk.sendAtOnce = w.sendAtOnce := by
  simp [Work.handRisk]

@[simp] theorem Work.handStepEnd_keeps (w : Work) (k : Nat) :
    (w.handStepEnd k).now = w.now ∧ (w.handStepEnd k).io = w.io ∧ (w.handStepEnd k).cpi = w.cpi ∧
    (w.handStepEnd k).mc = w.mc ∧ (w.handStepEnd k).lc = w.lc ∧ (w.handStepEnd k).bu = w.bu ∧
    (w.handStepEnd k).map = w.map ∧ (w.handStepEnd k).ptu = w.ptu ∧ (w.handStepEnd k).ae = w.ae ∧
    (w.handStepEnd k).hc = w.hc ∧ (w.handStepEnd k).ci = w.ci ∧ (w.handStepEnd k).pending = w.pending ∧
    (w.handStepEnd k).before = w.before ∧ (w.handStepEnd k).sysNotices = w.sysNotices ∧
    (w.handStepEnd k).newDrains = w.newDrains ∧ (w.handStepEnd k).conflictLost = w.conflictLost ∧
    (w.handStepEnd k).considerClaim = w.considerClaim ∧ (w.handStepEnd k).sendAtOnce = w.sendAtOnce := by
  simp [Work.handStepEnd]

@[simp] theorem Work.handEnergy_keeps (w : Work) :
    w.handEnergy.now = w.now ∧ w.handEnergy.io = w.io ∧ w.handEnergy.cpi = w.cpi ∧ w.handEnergy.mc = w.mc ∧
    w.handEnergy.lc = w.lc ∧ w.handEnergy.bu = w.bu ∧ w.handEnergy.map = w.map ∧ w.handEnergy.ptu = w.ptu ∧
    w.handEnergy.ae = w.ae ∧ w.handEnergy.hc = w.hc ∧ w.handEnergy.ci = w.ci ∧ w.handEnergy.pending = w.pending ∧
    w.handEnergy.before = w.before ∧ w.handEnergy.sysNotices = w.sysNotices ∧ w.handEnergy.newDrains = w.newDrains ∧
    w.handEnergy.conflictLost = w.conflictLost ∧ w.handEnergy.considerClaim = w.considerClaim ∧
    w.handEnergy.sendAtOnce = w.sendAtOnce := by
  simp [Work.handEnergy]

@[simp] theorem Work.handMode_keeps (w : Work) :
    w.handMode.now = w.now ∧ w.handMode.io = w.io ∧ w.handMode.cpi = w.cpi ∧ w.handMode.mc = w.mc ∧
    w.handMode.lc = w.lc ∧ w.handMode.bu = w.bu ∧ w.handMode.map = w.map ∧ w.handMode.ptu = w.ptu ∧
    w.handMode.ae = w.ae ∧ w.handMode.hc = w.hc ∧ w.handMode.ci = w.ci ∧ w.handMode.pending = w.pending ∧
    w.handMode.before = w.before ∧ w.handMode.sysNotices = w.sysNotices ∧ w.handMode.newDrains = w.newDrains ∧
    w.handMode.conflictLost = w.conflictLost ∧ w.handMode.considerClaim = w.considerClaim ∧
    w.handMode.sendAtOnce = w.sendAtOnce := by
  simp [Work.handMode]

@[simp] theorem Work.handConflict_keeps (w : Work) :
    w.handConflict.now = w.now ∧ w.handConflict.io = w.io ∧ w.handConflict.cpi = w.cpi ∧ w.handConflict.mc = w.mc ∧
    w.handConflict.lc = w.lc ∧ w.handConflict.bu = w.bu ∧ w.handConflict.map = w.map ∧ w.handConflict.ptu = w.ptu ∧
    w.handConflict.ae = w.ae ∧ w.handConflict.hc = w.hc ∧ w.handConflict.ci = w.ci ∧
    w.handConflict.pending = w.pending ∧ w.handConflict.before = w.before ∧ w.handConflict.sysNotices = w.sysNotices ∧
    w.handConflict.newDrains = w.newDrains ∧ w.handConflict.considerClaim = w.considerClaim ∧
    w.handConflict.sendAtOnce = w.sendAtOnce := by
  unfold Work.handConflict
  try dsimp only
  (repeat' split) <;> simp

@[simp] theorem Work.refreshMarks_keeps (w : Work) :
    w.refreshMarks.now = w.now ∧ w.refreshMarks.io = w.io ∧ w.refreshMarks.cpi = w.cpi ∧ w.refreshMarks.mc = w.mc ∧
    w.refreshMarks.lc = w.lc ∧ w.refreshMarks.bu = w.bu ∧ w.refreshMarks.map = w.map ∧ w.refreshMarks.ptu = w.ptu ∧
    w.refreshMarks.ae = w.ae ∧ w.refreshMarks.hc = w.hc ∧ w.refreshMarks.ss = w.ss ∧ w.refreshMarks.ci = w.ci ∧
    w.refreshMarks.pending = w.pending ∧ w.refreshMarks.before = w.before ∧ w.refreshMarks.sysNotices = w.sysNotices ∧
    w.refreshMarks.firings = w.firings ∧ w.refreshMarks.newDrains = w.newDrains ∧
    w.refreshMarks.conflictLost = w.conflictLost ∧ w.refreshMarks.considerClaim = w.considerClaim ∧
    w.refreshMarks.sendAtOnce = w.sendAtOnce := by
  and_intros <;> rfl

@[simp] theorem Work.flushNotices_keeps (w : Work) :
    w.flushNotices.now = w.now ∧ w.flushNotices.io = w.io ∧ w.flushNotices.cpi = w.cpi ∧ w.flushNotices.mc = w.mc ∧
    w.flushNotices.lc = w.lc ∧ w.flushNotices.bu = w.bu ∧ w.flushNotices.map = w.map ∧ w.flushNotices.ptu = w.ptu ∧
    w.flushNotices.ae = w.ae ∧ w.flushNotices.hc = w.hc ∧ w.flushNotices.ss = w.ss ∧ w.flushNotices.ci = w.ci ∧
    w.flushNotices.pending = w.pending ∧ w.flushNotices.before = w.before ∧ w.flushNotices.newDrains = w.newDrains ∧
    w.flushNotices.conflictLost = w.conflictLost ∧ w.flushNotices.considerClaim = w.considerClaim ∧
    w.flushNotices.sendAtOnce = w.sendAtOnce := by
  and_intros <;> rfl

@[simp] theorem Work.enqueue_keeps (w : Work) (f : Frame) :
    (w.enqueue f).now = w.now ∧ (w.enqueue f).io = w.io ∧ (w.enqueue f).cpi = w.cpi ∧ (w.enqueue f).mc = w.mc ∧
    (w.enqueue f).bu = w.bu ∧ (w.enqueue f).map = w.map ∧ (w.enqueue f).ptu = w.ptu ∧ (w.enqueue f).ae = w.ae ∧
    (w.enqueue f).hc = w.hc ∧ (w.enqueue f).ss = w.ss ∧ (w.enqueue f).ci = w.ci ∧ (w.enqueue f).bk = w.bk ∧
    (w.enqueue f).pending = w.pending ∧ (w.enqueue f).before = w.before ∧ (w.enqueue f).sysNotices = w.sysNotices ∧
    (w.enqueue f).firings = w.firings ∧ (w.enqueue f).newDrains = w.newDrains ∧
    (w.enqueue f).conflictLost = w.conflictLost ∧ (w.enqueue f).considerClaim = w.considerClaim ∧
    (w.enqueue f).sendAtOnce = w.sendAtOnce := by
  unfold Work.enqueue
  try dsimp only
  (repeat' split) <;> simp

@[simp] theorem Work.countReceiveError_keeps (w : Work) :
    w.countReceiveError.now = w.now ∧ w.countReceiveError.io = w.io ∧ w.countReceiveError.cpi = w.cpi ∧
    w.countReceiveError.mc = w.mc ∧ w.countReceiveError.bu = w.bu ∧ w.countReceiveError.map = w.map ∧
    w.countReceiveError.ptu = w.ptu ∧ w.countReceiveError.ae = w.ae ∧ w.countReceiveError.hc = w.hc ∧
    w.countReceiveError.ss = w.ss ∧ w.countReceiveError.ci = w.ci ∧ w.countReceiveError.bk = w.bk ∧
    w.countReceiveError.pending = w.pending ∧ w.countReceiveError.before = w.before ∧
    w.countReceiveError.firings = w.firings ∧ w.countReceiveError.newDrains = w.newDrains ∧
    w.countReceiveError.conflictLost = w.conflictLost ∧ w.countReceiveError.considerClaim = w.considerClaim ∧
    w.countReceiveError.sendAtOnce = w.sendAtOnce := by
  unfold Work.countReceiveError
  try dsimp only
  (repeat' split) <;> simp

@[simp] theorem Work.drainMine_keeps (w : Work) (r : DrainReason) (p : Nat → Bool) :
    (w.drainMine r p).now = w.now ∧ (w.drainMine r p).io = w.io ∧ (w.drainMine r p).cpi = w.cpi ∧
    (w.drainMine r p).mc = w.mc ∧ (w.drainMine r p).lc = w.lc ∧ (w.drainMine r p).bu = w.bu ∧
    (w.drainMine r p).ptu = w.ptu ∧ (w.drainMine r p).ae = w.ae ∧ (w.drainMine r p).ss = w.ss ∧
    (w.drainMine r p).ci = w.ci ∧ (w.drainMine r p).bk = w.bk ∧ (w.drainMine r p).pending = w.pending ∧
    (w.drainMine r p).before = w.before ∧ (w.drainMine r p).sysNotices = w.sysNotices ∧
    (w.drainMine r p).firings = w.firings ∧ (w.drainMine r p).conflictLost = w.conflictLost ∧
    (w.drainMine r p).considerClaim = w.considerClaim ∧ (w.drainMine r p).sendAtOnce = w.sendAtOnce := by
  simp [Work.drainMine]


@[simp] theorem Work.completeDrains_keeps (w : Work) (qs : List Nat) :
    (w.completeDrains qs).now = w.now ∧ (w.completeDrains qs).io = w.io ∧ (w.completeDrains qs).cpi = w.cpi ∧
    (w.completeDrains qs).mc = w.mc ∧ (w.completeDrains qs).bu = w.bu ∧ (w.completeDrains qs).ptu = w.ptu ∧
    (w.completeDrains qs).ae = w.ae ∧ (w.completeDrains qs).ss = w.ss ∧ (w.completeDrains qs).ci = w.ci ∧
    (w.completeDrains qs).bk = w.bk ∧ (w.completeDrains qs).pending = w.pending ∧
    (w.completeDrains qs).before = w.before ∧ (w.completeDrains qs).sysNotices = w.sysNotices ∧
    (w.completeDrains qs).firings = w.firings ∧ (w.completeDrains qs).newDrains = w.newDrains ∧
    (w.completeDrains qs).conflictLost = w.conflictLost ∧ (w.completeDrains qs).considerClaim = w.considerClaim ∧
    (w.completeDrains qs).sendAtOnce = w.sendAtOnce := by
  unfold Work.completeDrains
  refine ⟨foldl_keeps (fun w : Work => w.now) _ (fun a b => by simp) _ _,
    foldl_keeps (fun w : Work => w.io) _ (fun a b => by simp) _ _,
    foldl_keeps (fun w : Work => w.cpi) _ (fun a b => by simp) _ _,
    foldl_keeps (fun w : Work => w.mc) _ (fun a b => by simp) _ _,
    foldl_keeps (fun w : Work => w.bu) _ (fun a b => by simp) _ _,
    foldl_keeps (fun w : Work => w.ptu) _ (fun a b => by simp) _ _,
    foldl_keeps (fun w : Work => w.ae) _ (fun a b => by simp) _ _,
    foldl_keeps (fun w : Work => w.ss) _ (fun a b => by simp) _ _,
    foldl_keeps (fun w : Work => w.ci) _ (fun a b => by simp) _ _,
    foldl_keeps (fun w : Work => w.bk) _ (fun a b => by simp) _ _,
    foldl_keeps (fun w : Work => w.pending) _ (fun a b => by simp) _ _,
    foldl_keeps (fun w : Work => w.before) _ (fun a b => by simp) _ _,
    foldl_keeps (fun w : Work => w.sysNotices) _ (fun a b => by simp) _ _,
    foldl_keeps (fun w : Work => w.firings) _ (fun a b => by simp) _ _,
    foldl_keeps (fun w : Work => w.newDrains) _ (fun a b => by simp) _ _,
    foldl_keeps (fun w : Work => w.conflictLost) _ (fun a b => by simp) _ _,
    foldl_keeps (fun w : Work => w.considerClaim) _ (fun a b => by simp) _ _,
    foldl_keeps (fun w : Work => w.sendAtOnce) _ (fun a b => by simp) _ _⟩

@[simp] theorem Work.completeAll_keeps (w : Work) :
    w.completeAll.now = w.now ∧ w.completeAll.io = w.io ∧ w.completeAll.cpi = w.cpi ∧ w.completeAll.mc = w.mc ∧
    w.completeAll.bu = w.bu ∧ w.completeAll.ptu = w.ptu ∧ w.completeAll.ae = w.ae ∧ w.completeAll.ss = w.ss ∧
    w.completeAll.ci = w.ci ∧ w.completeAll.bk = w.bk ∧ w.completeAll.pending = w.pending ∧
    w.completeAll.before = w.before ∧ w.completeAll.sysNotices = w.sysNotices ∧ w.completeAll.firings = w.firings ∧
    w.completeAll.newDrains = w.newDrains ∧ w.completeAll.conflictLost = w.conflictLost ∧
    w.completeAll.considerClaim = w.considerClaim ∧ w.completeAll.sendAtOnce = w.sendAtOnce := by
  simp [Work.completeAll]

@[simp] theorem Work.leaveClaim_keeps (w : Work) (q : Nat) :
    (w.leaveClaim q).now = w.now ∧ (w.leaveClaim q).io = w.io ∧ (w.leaveClaim q).cpi = w.cpi ∧
    (w.leaveClaim q).mc = w.mc ∧ (w.leaveClaim q).lc = w.lc ∧ (w.leaveClaim q).bu = w.bu ∧
    (w.leaveClaim q).map = w.map ∧ (w.leaveClaim q).ptu = w.ptu ∧ (w.leaveClaim q).ae = w.ae ∧
    (w.leaveClaim q).ss = w.ss ∧ (w.leaveClaim q).ci = w.ci ∧ (w.leaveClaim q).bk = w.bk ∧
    (w.leaveClaim q).pending = w.pending ∧ (w.leaveClaim q).before = w.before ∧
    (w.leaveClaim q).sysNotices = w.sysNotices ∧ (w.leaveClaim q).firings = w.firings ∧
    (w.leaveClaim q).newDrains = w.newDrains ∧ (w.leaveClaim q).conflictLost = w.conflictLost ∧
    (w.leaveClaim q).sendAtOnce = w.sendAtOnce := by
  unfold Work.leaveClaim
  try dsimp only
  (repeat' split) <;> simp


/-- The fold with which Pending quanta are given up. -/
theorem giveUp_fold_keeps {γ : Type} (g : Work → γ) (h : ∀ (w : Work) q e, g ((w.setEntry q e).leaveClaim q) = g w)
    (st : State) (qs : List Nat) (w : Work) :
    g (qs.foldl (fun (w : Work) q => (w.setEntry q (st.vacant q)).leaveClaim q) w) = g w :=
  foldl_keeps g _ (fun a b => h a b _) _ _

@[simp] theorem Work.giveUpPending_keeps (w : Work) (f : Bool) (qs : List Nat) :
    (w.giveUpPending f qs).now = w.now ∧ (w.giveUpPending f qs).io = w.io ∧ (w.giveUpPending f qs).cpi = w.cpi ∧
    (w.giveUpPending f qs).mc = w.mc ∧ (w.giveUpPending f qs).bu = w.bu ∧ (w.giveUpPending f qs).ptu = w.ptu ∧
    (w.giveUpPending f qs).ae = w.ae ∧ (w.giveUpPending f qs).ss = w.ss ∧ (w.giveUpPending f qs).ci = w.ci ∧
    (w.giveUpPending f qs).bk = w.bk ∧ (w.giveUpPending f qs).pending = w.pending ∧
    (w.giveUpPending f qs).before = w.before ∧ (w.giveUpPending f qs).sysNotices = w.sysNotices ∧
    (w.giveUpPending f qs).firings = w.firings ∧ (w.giveUpPending f qs).newDrains = w.newDrains ∧
    (w.giveUpPending f qs).conflictLost = w.conflictLost ∧ (w.giveUpPending f qs).sendAtOnce = w.sendAtOnce := by
  unfold Work.giveUpPending
  dsimp only
  refine ⟨by split <;> simp [giveUp_fold_keeps (fun w : Work => w.now)],
    by split <;> simp [giveUp_fold_keeps (fun w : Work => w.io)],
    by split <;> simp [giveUp_fold_keeps (fun w : Work => w.cpi)],
    by split <;> simp [giveUp_fold_keeps (fun w : Work => w.mc)],
    by split <;> simp [giveUp_fold_keeps (fun w : Work => w.bu)],
    by split <;> simp [giveUp_fold_keeps (fun w : Work => w.ptu)],
    by split <;> simp [giveUp_fold_keeps (fun w : Work => w.ae)],
    by split <;> simp [giveUp_fold_keeps (fun w : Work => w.ss)],
    by split <;> simp [giveUp_fold_keeps (fun w : Work => w.ci)],
    by split <;> simp [giveUp_fold_keeps (fun w : Work => w.bk)],
    by split <;> simp [giveUp_fold_keeps (fun w : Work => w.pending)],
    by split <;> simp [giveUp_fold_keeps (fun w : Work => w.before)],
    by split <;> simp [giveUp_fold_keeps (fun w : Work => w.sysNotices)],
    by split <;> simp [giveUp_fold_keeps (fun w : Work => w.firings)],
    by split <;> simp [giveUp_fold_keeps (fun w : Work => w.newDrains)],
    by split <;> simp [giveUp_fold_keeps (fun w : Work => w.conflictLost)],
    by split <;> simp [giveUp_fold_keeps (fun w : Work => w.sendAtOnce)]⟩

@[simp] theorem Work.considerClaiming_keeps (w : Work) :
    w.considerClaiming.now = w.now ∧ w.considerClaiming.io = w.io ∧ w.considerClaiming.cpi = w.cpi ∧
    w.considerClaiming.mc = w.mc ∧ w.considerClaiming.bu = w.bu ∧ w.considerClaiming.map = w.map ∧
    w.considerClaiming.ptu = w.ptu ∧ w.considerClaiming.ae = w.ae ∧ w.considerClaiming.ss = w.ss ∧
    w.considerClaiming.ci = w.ci ∧ w.considerClaiming.bk = w.bk ∧ w.considerClaiming.pending = w.pending ∧
    w.considerClaiming.before = w.before ∧ w.considerClaiming.sysNotices = w.sysNotices ∧
    w.considerClaiming.firings = w.firings ∧ w.considerClaiming.newDrains = w.newDrains ∧
    w.considerClaiming.conflictLost = w.conflictLost ∧ w.considerClaiming.considerClaim = w.considerClaim ∧
    w.considerClaiming.sendAtOnce = w.sendAtOnce := by
  unfold Work.considerClaiming
  try dsimp only
  (repeat' split) <;> simp

@[simp] theorem Work.endRequest_keeps (w : Work) (r : Reply) :
    (w.endRequest r).now = w.now ∧ (w.endRequest r).io = w.io ∧ (w.endRequest r).cpi = w.cpi ∧
    (w.endRequest r).mc = w.mc ∧ (w.endRequest r).lc = w.lc ∧ (w.endRequest r).bu = w.bu ∧
    (w.endRequest r).map = w.map ∧ (w.endRequest r).ptu = w.ptu ∧ (w.endRequest r).ae = w.ae ∧
    (w.endRequest r).ss = w.ss ∧ (w.endRequest r).ci = w.ci ∧ (w.endRequest r).bk = w.bk ∧
    (w.endRequest r).pending = w.pending ∧ (w.endRequest r).before = w.before ∧
    (w.endRequest r).sysNotices = w.sysNotices ∧ (w.endRequest r).firings = w.firings ∧
    (w.endRequest r).newDrains = w.newDrains ∧ (w.endRequest r).conflictLost = w.conflictLost ∧
    (w.endRequest r).considerClaim = w.considerClaim ∧ (w.endRequest r).sendAtOnce = w.sendAtOnce := by
  and_intros <;> rfl

@[simp] theorem Work.sendRequest_keeps (w : Work) (t : Nat) (d : Disposition) (c : Nat) (l : List Nat) :
    (w.sendRequest t d c l).now = w.now ∧ (w.sendRequest t d c l).io = w.io ∧ (w.sendRequest t d c l).cpi = w.cpi ∧
    (w.sendRequest t d c l).mc = w.mc ∧ (w.sendRequest t d c l).bu = w.bu ∧ (w.sendRequest t d c l).map = w.map ∧
    (w.sendRequest t d c l).ptu = w.ptu ∧ (w.sendRequest t d c l).ae = w.ae ∧ (w.sendRequest t d c l).ss = w.ss ∧
    (w.sendRequest t d c l).ci = w.ci ∧ (w.sendRequest t d c l).bk = w.bk ∧
    (w.sendRequest t d c l).pending = w.pending ∧ (w.sendRequest t d c l).before = w.before ∧
    (w.sendRequest t d c l).sysNotices = w.sysNotices ∧ (w.sendRequest t d c l).firings = w.firings ∧
    (w.sendRequest t d c l).newDrains = w.newDrains ∧ (w.sendRequest t d c l).conflictLost = w.conflictLost ∧
    (w.sendRequest t d c l).considerClaim = w.considerClaim ∧ (w.sendRequest t d c l).sendAtOnce = w.sendAtOnce := by
  simp [Work.sendRequest]

@[simp] theorem Work.sweepMove_keeps (w : Work) :
    w.sweepMove.now = w.now ∧ w.sweepMove.io = w.io ∧ w.sweepMove.cpi = w.cpi ∧ w.sweepMove.mc = w.mc ∧
    w.sweepMove.bu = w.bu ∧ w.sweepMove.map = w.map ∧ w.sweepMove.ptu = w.ptu ∧ w.sweepMove.ae = w.ae ∧
    w.sweepMove.ss = w.ss ∧ w.sweepMove.ci = w.ci ∧ w.sweepMove.bk = w.bk ∧ w.sweepMove.pending = w.pending ∧
    w.sweepMove.before = w.before ∧ w.sweepMove.sysNotices = w.sysNotices ∧ w.sweepMove.firings = w.firings ∧
    w.sweepMove.newDrains = w.newDrains ∧ w.sweepMove.conflictLost = w.conflictLost ∧
    w.sweepMove.considerClaim = w.considerClaim ∧ w.sweepMove.sendAtOnce = w.sendAtOnce := by
  unfold Work.sweepMove
  try dsimp only
  (repeat' split) <;> simp

@[simp] theorem Work.sweepRun_keeps (w : Work) :
    w.sweepRun.now = w.now ∧ w.sweepRun.io = w.io ∧ w.sweepRun.cpi = w.cpi ∧ w.sweepRun.mc = w.mc ∧
    w.sweepRun.bu = w.bu ∧ w.sweepRun.map = w.map ∧ w.sweepRun.ptu = w.ptu ∧ w.sweepRun.ae = w.ae ∧
    w.sweepRun.ss = w.ss ∧ w.sweepRun.ci = w.ci ∧ w.sweepRun.bk = w.bk ∧ w.sweepRun.pending = w.pending ∧
    w.sweepRun.before = w.before ∧ w.sweepRun.sysNotices = w.sysNotices ∧ w.sweepRun.firings = w.firings ∧
    w.sweepRun.newDrains = w.newDrains ∧ w.sweepRun.conflictLost = w.conflictLost ∧
    w.sweepRun.considerClaim = w.considerClaim ∧ w.sweepRun.sendAtOnce = w.sendAtOnce := by
  unfold Work.sweepRun
  refine ⟨foldl_keeps (fun w : Work => w.now) _ (fun a b => by simp) _ _,
    foldl_keeps (fun w : Work => w.io) _ (fun a b => by simp) _ _,
    foldl_keeps (fun w : Work => w.cpi) _ (fun a b => by simp) _ _,
    foldl_keeps (fun w : Work => w.mc) _ (fun a b => by simp) _ _,
    foldl_keeps (fun w : Work => w.bu) _ (fun a b => by simp) _ _,
    foldl_keeps (fun w : Work => w.map) _ (fun a b => by simp) _ _,
    foldl_keeps (fun w : Work => w.ptu) _ (fun a b => by simp) _ _,
    foldl_keeps (fun w : Work => w.ae) _ (fun a b => by simp) _ _,
    foldl_keeps (fun w : Work => w.ss) _ (fun a b => by simp) _ _,
    foldl_keeps (fun w : Work => w.ci) _ (fun a b => by simp) _ _,
    foldl_keeps (fun w : Work => w.bk) _ (fun a b => by simp) _ _,
    foldl_keeps (fun w : Work => w.pending) _ (fun a b => by simp) _ _,
    foldl_keeps (fun w : Work => w.before) _ (fun a b => by simp) _ _,
    foldl_keeps (fun w : Work => w.sysNotices) _ (fun a b => by simp) _ _,
    foldl_keeps (fun w : Work => w.firings) _ (fun a b => by simp) _ _,
    foldl_keeps (fun w : Work => w.newDrains) _ (fun a b => by simp) _ _,
    foldl_keeps (fun w : Work => w.conflictLost) _ (fun a b => by simp) _ _,
    foldl_keeps (fun w : Work => w.considerClaim) _ (fun a b => by simp) _ _,
    foldl_keeps (fun w : Work => w.sendAtOnce) _ (fun a b => by simp) _ _⟩

@[simp] theorem Work.considerSweep_keeps (w : Work) :
    w.considerSweep.now = w.now ∧ w.considerSweep.io = w.io ∧ w.considerSweep.cpi = w.cpi ∧
    w.considerSweep.mc = w.mc ∧ w.considerSweep.lc = w.lc ∧ w.considerSweep.bu = w.bu ∧ w.considerSweep.map = w.map ∧
    w.considerSweep.ptu = w.ptu ∧ w.considerSweep.ae = w.ae ∧ w.considerSweep.ss = w.ss ∧ w.considerSweep.ci = w.ci ∧
    w.considerSweep.bk = w.bk ∧ w.considerSweep.pending = w.pending ∧ w.considerSweep.before = w.before ∧
    w.considerSweep.sysNotices = w.sysNotices ∧ w.considerSweep.firings = w.firings ∧
    w.considerSweep.newDrains = w.newDrains ∧ w.considerSweep.conflictLost = w.conflictLost ∧
    w.considerSweep.considerClaim = w.considerClaim ∧ w.considerSweep.sendAtOnce = w.sendAtOnce := by
  unfold Work.considerSweep
  try dsimp only
  (repeat' split) <;> simp

@[simp] theorem Work.sweepProgress_keeps (w : Work) :
    w.sweepProgress.now = w.now ∧ w.sweepProgress.io = w.io ∧ w.sweepProgress.cpi = w.cpi ∧
    w.sweepProgress.mc = w.mc ∧ w.sweepProgress.bu = w.bu ∧ w.sweepProgress.map = w.map ∧
    w.sweepProgress.ptu = w.ptu ∧ w.sweepProgress.ae = w.ae ∧ w.sweepProgress.ss = w.ss ∧ w.sweepProgress.ci = w.ci ∧
    w.sweepProgress.bk = w.bk ∧ w.sweepProgress.pending = w.pending ∧ w.sweepProgress.before = w.before ∧
    w.sweepProgress.sysNotices = w.sysNotices ∧ w.sweepProgress.firings = w.firings ∧
    w.sweepProgress.newDrains = w.newDrains ∧ w.sweepProgress.conflictLost = w.conflictLost ∧
    w.sweepProgress.considerClaim = w.considerClaim ∧ w.sweepProgress.sendAtOnce = w.sendAtOnce := by
  unfold Work.sweepProgress
  (repeat' split) <;> simp

@[simp] theorem Work.holdingsProgress_keeps (w : Work) :
    w.holdingsProgress.now = w.now ∧ w.holdingsProgress.io = w.io ∧ w.holdingsProgress.cpi = w.cpi ∧
    w.holdingsProgress.mc = w.mc ∧ w.holdingsProgress.bu = w.bu ∧ w.holdingsProgress.map = w.map ∧
    w.holdingsProgress.ptu = w.ptu ∧ w.holdingsProgress.ae = w.ae ∧ w.holdingsProgress.ss = w.ss ∧
    w.holdingsProgress.ci = w.ci ∧ w.holdingsProgress.bk = w.bk ∧ w.holdingsProgress.pending = w.pending ∧
    w.holdingsProgress.before = w.before ∧ w.holdingsProgress.sysNotices = w.sysNotices ∧
    w.holdingsProgress.firings = w.firings ∧ w.holdingsProgress.newDrains = w.newDrains ∧
    w.holdingsProgress.conflictLost = w.conflictLost ∧ w.holdingsProgress.sendAtOnce = w.sendAtOnce := by
  unfold Work.holdingsProgress
  try dsimp only
  (repeat' split) <;> simp

@[simp] theorem Work.removeQueuedClaim_keeps (w : Work) :
    w.removeQueuedClaim.now = w.now ∧ w.removeQueuedClaim.io = w.io ∧ w.removeQueuedClaim.cpi = w.cpi ∧
    w.removeQueuedClaim.mc = w.mc ∧ w.removeQueuedClaim.bu = w.bu ∧ w.removeQueuedClaim.map = w.map ∧
    w.removeQueuedClaim.ptu = w.ptu ∧ w.removeQueuedClaim.ae = w.ae ∧ w.removeQueuedClaim.ss = w.ss ∧
    w.removeQueuedClaim.ci = w.ci ∧ w.removeQueuedClaim.bk = w.bk ∧ w.removeQueuedClaim.pending = w.pending ∧
    w.removeQueuedClaim.before = w.before ∧ w.removeQueuedClaim.sysNotices = w.sysNotices ∧
    w.removeQueuedClaim.firings = w.firings ∧ w.removeQueuedClaim.newDrains = w.newDrains ∧
    w.removeQueuedClaim.conflictLost = w.conflictLost ∧ w.removeQueuedClaim.sendAtOnce = w.sendAtOnce := by
  unfold Work.removeQueuedClaim
  try dsimp only
  (repeat' split) <;> simp

@[simp] theorem Work.removeQueuedRequest_keeps (w : Work) :
    w.removeQueuedRequest.now = w.now ∧ w.removeQueuedRequest.io = w.io ∧ w.removeQueuedRequest.cpi = w.cpi ∧
    w.removeQueuedRequest.mc = w.mc ∧ w.removeQueuedRequest.bu = w.bu ∧ w.removeQueuedRequest.map = w.map ∧
    w.removeQueuedRequest.ptu = w.ptu ∧ w.removeQueuedRequest.ae = w.ae ∧ w.removeQueuedRequest.ss = w.ss ∧
    w.removeQueuedRequest.ci = w.ci ∧ w.removeQueuedRequest.bk = w.bk ∧ w.removeQueuedRequest.pending = w.pending ∧
    w.removeQueuedRequest.before = w.before ∧ w.removeQueuedRequest.sysNotices = w.sysNotices ∧
    w.removeQueuedRequest.firings = w.firings ∧ w.removeQueuedRequest.newDrains = w.newDrains ∧
    w.removeQueuedRequest.conflictLost = w.conflictLost ∧ w.removeQueuedRequest.considerClaim = w.considerClaim ∧
    w.removeQueuedRequest.sendAtOnce = w.sendAtOnce := by
  unfold Work.removeQueuedRequest
  try dsimp only
  (repeat' split) <;> simp

@[simp] theorem Work.drainSurplus_keeps (w : Work) (n : Nat) :
    (w.drainSurplus n).now = w.now ∧ (w.drainSurplus n).io = w.io ∧ (w.drainSurplus n).cpi = w.cpi ∧
    (w.drainSurplus n).mc = w.mc ∧ (w.drainSurplus n).bu = w.bu ∧ (w.drainSurplus n).ptu = w.ptu ∧
    (w.drainSurplus n).ae = w.ae ∧ (w.drainSurplus n).ss = w.ss ∧ (w.drainSurplus n).ci = w.ci ∧
    (w.drainSurplus n).bk = w.bk ∧ (w.drainSurplus n).pending = w.pending ∧ (w.drainSurplus n).before = w.before ∧
    (w.drainSurplus n).sysNotices = w.sysNotices ∧ (w.drainSurplus n).firings = w.firings ∧
    (w.drainSurplus n).conflictLost = w.conflictLost ∧ (w.drainSurplus n).sendAtOnce = w.sendAtOnce := by
  simp [Work.drainSurplus]

@[simp] theorem Work.newTarget_keeps (w : Work) (n : Nat) :
    (w.newTarget n).now = w.now ∧ (w.newTarget n).io = w.io ∧ (w.newTarget n).cpi = w.cpi ∧
    (w.newTarget n).mc = w.mc ∧ (w.newTarget n).bu = w.bu ∧ (w.newTarget n).ptu = w.ptu ∧ (w.newTarget n).ae = w.ae ∧
    (w.newTarget n).ss = w.ss ∧ (w.newTarget n).ci = w.ci ∧ (w.newTarget n).bk = w.bk ∧
    (w.newTarget n).pending = w.pending ∧ (w.newTarget n).before = w.before ∧ (w.newTarget n).sysNotices = w.sysNotices ∧
    (w.newTarget n).firings = w.firings ∧ (w.newTarget n).conflictLost = w.conflictLost ∧
    (w.newTarget n).sendAtOnce = w.sendAtOnce := by
  unfold Work.newTarget
  try dsimp only
  (repeat' split) <;> simp

@[simp] theorem Work.takeMine_keeps (w : Work) (q : Nat) (r : Option DrainReason) :
    (w.takeMine q r).now = w.now ∧ (w.takeMine q r).io = w.io ∧ (w.takeMine q r).cpi = w.cpi ∧
    (w.takeMine q r).mc = w.mc ∧ (w.takeMine q r).lc = w.lc ∧ (w.takeMine q r).bu = w.bu ∧
    (w.takeMine q r).ptu = w.ptu ∧ (w.takeMine q r).ae = w.ae ∧ (w.takeMine q r).ss = w.ss ∧
    (w.takeMine q r).ci = w.ci ∧ (w.takeMine q r).bk = w.bk ∧ (w.takeMine q r).pending = w.pending ∧
    (w.takeMine q r).before = w.before ∧ (w.takeMine q r).sysNotices = w.sysNotices ∧
    (w.takeMine q r).firings = w.firings ∧ (w.takeMine q r).conflictLost = w.conflictLost ∧
    (w.takeMine q r).considerClaim = w.considerClaim ∧ (w.takeMine q r).sendAtOnce = w.sendAtOnce := by
  unfold Work.takeMine
  try dsimp only
  (repeat' split) <;> simp

@[simp] theorem Work.lostFrame_keeps (w : Work) (f : Frame) :
    (w.lostFrame f).now = w.now ∧ (w.lostFrame f).io = w.io ∧ (w.lostFrame f).cpi = w.cpi ∧
    (w.lostFrame f).mc = w.mc ∧ (w.lostFrame f).lc = w.lc ∧ (w.lostFrame f).bu = w.bu ∧ (w.lostFrame f).ptu = w.ptu ∧
    (w.lostFrame f).ae = w.ae ∧ (w.lostFrame f).ss = w.ss ∧ (w.lostFrame f).ci = w.ci ∧ (w.lostFrame f).bk = w.bk ∧
    (w.lostFrame f).pending = w.pending ∧ (w.lostFrame f).before = w.before ∧ (w.lostFrame f).sysNotices = w.sysNotices ∧
    (w.lostFrame f).firings = w.firings ∧ (w.lostFrame f).newDrains = w.newDrains ∧
    (w.lostFrame f).conflictLost = w.conflictLost ∧ (w.lostFrame f).sendAtOnce = w.sendAtOnce := by
  unfold Work.lostFrame
  try dsimp only
  (repeat' split) <;> simp

@[simp] theorem Work.loseFrames_keeps (w : Work) (p : Frame → Bool) :
    (w.loseFrames p).now = w.now ∧ (w.loseFrames p).io = w.io ∧ (w.loseFrames p).cpi = w.cpi ∧
    (w.loseFrames p).mc = w.mc ∧ (w.loseFrames p).bu = w.bu ∧ (w.loseFrames p).ptu = w.ptu ∧
    (w.loseFrames p).ae = w.ae ∧ (w.loseFrames p).ss = w.ss ∧ (w.loseFrames p).ci = w.ci ∧
    (w.loseFrames p).bk = w.bk ∧ (w.loseFrames p).pending = w.pending ∧ (w.loseFrames p).before = w.before ∧
    (w.loseFrames p).sysNotices = w.sysNotices ∧ (w.loseFrames p).firings = w.firings ∧
    (w.loseFrames p).newDrains = w.newDrains ∧ (w.loseFrames p).conflictLost = w.conflictLost ∧
    (w.loseFrames p).sendAtOnce = w.sendAtOnce := by
  unfold Work.loseFrames
  refine ⟨foldl_keeps (fun w : Work => w.now) _ (fun a b => by simp) _ _,
    foldl_keeps (fun w : Work => w.io) _ (fun a b => by simp) _ _,
    foldl_keeps (fun w : Work => w.cpi) _ (fun a b => by simp) _ _,
    foldl_keeps (fun w : Work => w.mc) _ (fun a b => by simp) _ _,
    foldl_keeps (fun w : Work => w.bu) _ (fun a b => by simp) _ _,
    foldl_keeps (fun w : Work => w.ptu) _ (fun a b => by simp) _ _,
    foldl_keeps (fun w : Work => w.ae) _ (fun a b => by simp) _ _,
    foldl_keeps (fun w : Work => w.ss) _ (fun a b => by simp) _ _,
    foldl_keeps (fun w : Work => w.ci) _ (fun a b => by simp) _ _,
    foldl_keeps (fun w : Work => w.bk) _ (fun a b => by simp) _ _,
    foldl_keeps (fun w : Work => w.pending) _ (fun a b => by simp) _ _,
    foldl_keeps (fun w : Work => w.before) _ (fun a b => by simp) _ _,
    foldl_keeps (fun w : Work => w.sysNotices) _ (fun a b => by simp) _ _,
    foldl_keeps (fun w : Work => w.firings) _ (fun a b => by simp) _ _,
    foldl_keeps (fun w : Work => w.newDrains) _ (fun a b => by simp) _ _,
    foldl_keeps (fun w : Work => w.conflictLost) _ (fun a b => by simp) _ _,
    foldl_keeps (fun w : Work => w.sendAtOnce) _ (fun a b => by simp) _ _⟩

@[simp] theorem Work.emptyQueue_keeps (w : Work) :
    w.emptyQueue.now = w.now ∧ w.emptyQueue.io = w.io ∧ w.emptyQueue.cpi = w.cpi ∧ w.emptyQueue.mc = w.mc ∧
    w.emptyQueue.bu = w.bu ∧ w.emptyQueue.ptu = w.ptu ∧ w.emptyQueue.ae = w.ae ∧ w.emptyQueue.ss = w.ss ∧
    w.emptyQueue.ci = w.ci ∧ w.emptyQueue.bk = w.bk ∧ w.emptyQueue.pending = w.pending ∧ w.emptyQueue.before = w.before ∧
    w.emptyQueue.sysNotices = w.sysNotices ∧ w.emptyQueue.firings = w.firings ∧
    w.emptyQueue.newDrains = w.newDrains ∧ w.emptyQueue.conflictLost = w.conflictLost ∧
    w.emptyQueue.sendAtOnce = w.sendAtOnce := by
  simp [Work.emptyQueue]

@[simp] theorem Work.budgetFall_keeps (w : Work) (b : Nat) :
    (w.budgetFall b).now = w.now ∧ (w.budgetFall b).io = w.io ∧ (w.budgetFall b).cpi = w.cpi ∧
    (w.budgetFall b).mc = w.mc ∧ (w.budgetFall b).ptu = w.ptu ∧ (w.budgetFall b).ae = w.ae ∧
    (w.budgetFall b).ss = w.ss ∧ (w.budgetFall b).ci = w.ci ∧ (w.budgetFall b).bk = w.bk ∧
    (w.budgetFall b).pending = w.pending ∧ (w.budgetFall b).before = w.before ∧
    (w.budgetFall b).sysNotices = w.sysNotices ∧ (w.budgetFall b).firings = w.firings ∧
    (w.budgetFall b).conflictLost = w.conflictLost ∧ (w.budgetFall b).sendAtOnce = w.sendAtOnce := by
  unfold Work.budgetFall
  dsimp only
  refine ⟨by simp [foldl_keeps (fun w : Work => w.now) (fun (w : Work) q => w.leaveClaim q) (fun a b => by simp)],
    by simp [foldl_keeps (fun w : Work => w.io) (fun (w : Work) q => w.leaveClaim q) (fun a b => by simp)],
    by simp [foldl_keeps (fun w : Work => w.cpi) (fun (w : Work) q => w.leaveClaim q) (fun a b => by simp)],
    by simp [foldl_keeps (fun w : Work => w.mc) (fun (w : Work) q => w.leaveClaim q) (fun a b => by simp)],
    by simp [foldl_keeps (fun w : Work => w.ptu) (fun (w : Work) q => w.leaveClaim q) (fun a b => by simp)],
    by simp [foldl_keeps (fun w : Work => w.ae) (fun (w : Work) q => w.leaveClaim q) (fun a b => by simp)],
    by simp [foldl_keeps (fun w : Work => w.ss) (fun (w : Work) q => w.leaveClaim q) (fun a b => by simp)],
    by simp [foldl_keeps (fun w : Work => w.ci) (fun (w : Work) q => w.leaveClaim q) (fun a b => by simp)],
    by simp [foldl_keeps (fun w : Work => w.bk) (fun (w : Work) q => w.leaveClaim q) (fun a b => by simp)],
    by simp [foldl_keeps (fun w : Work => w.pending) (fun (w : Work) q => w.leaveClaim q) (fun a b => by simp)],
    by simp [foldl_keeps (fun w : Work => w.before) (fun (w : Work) q => w.leaveClaim q) (fun a b => by simp)],
    by simp [foldl_keeps (fun w : Work => w.sysNotices) (fun (w : Work) q => w.leaveClaim q) (fun a b => by simp)],
    by simp [foldl_keeps (fun w : Work => w.firings) (fun (w : Work) q => w.leaveClaim q) (fun a b => by simp)],
    by simp [foldl_keeps (fun w : Work => w.conflictLost) (fun (w : Work) q => w.leaveClaim q) (fun a b => by simp)],
    by simp [foldl_keeps (fun w : Work => w.sendAtOnce) (fun (w : Work) q => w.leaveClaim q) (fun a b => by simp)]⟩

@[simp] theorem Work.budgetRise_keeps (w : Work) (b : Nat) :
    (w.budgetRise b).now = w.now ∧ (w.budgetRise b).io = w.io ∧ (w.budgetRise b).cpi = w.cpi ∧
    (w.budgetRise b).mc = w.mc ∧ (w.budgetRise b).lc = w.lc ∧ (w.budgetRise b).ptu = w.ptu ∧
    (w.budgetRise b).ae = w.ae ∧ (w.budgetRise b).hc = w.hc ∧ (w.budgetRise b).ss = w.ss ∧
    (w.budgetRise b).ci = w.ci ∧ (w.budgetRise b).bk = w.bk ∧ (w.budgetRise b).pending = w.pending ∧
    (w.budgetRise b).before = w.before ∧ (w.budgetRise b).sysNotices = w.sysNotices ∧
    (w.budgetRise b).firings = w.firings ∧ (w.budgetRise b).newDrains = w.newDrains ∧
    (w.budgetRise b).conflictLost = w.conflictLost ∧ (w.budgetRise b).considerClaim = w.considerClaim ∧
    (w.budgetRise b).sendAtOnce = w.sendAtOnce := by
  simp [Work.budgetRise]

@[simp] theorem Work.formBudget_keeps (w : Work) :
    w.formBudget.now = w.now ∧ w.formBudget.io = w.io ∧ w.formBudget.cpi = w.cpi ∧ w.formBudget.mc = w.mc ∧
    w.formBudget.ptu = w.ptu ∧ w.formBudget.ae = w.ae ∧ w.formBudget.ci = w.ci ∧ w.formBudget.pending = w.pending ∧
    w.formBudget.before = w.before ∧ w.formBudget.sysNotices = w.sysNotices ∧
    w.formBudget.conflictLost = w.conflictLost ∧ w.formBudget.sendAtOnce = w.sendAtOnce := by
  unfold Work.formBudget
  try dsimp only
  (repeat' split) <;> simp

@[simp] theorem Work.hearBudget_keeps (w : Work) (t s v n h : Nat) :
    (w.hearBudget t s v n h).now = w.now ∧ (w.hearBudget t s v n h).io = w.io ∧
    (w.hearBudget t s v n h).cpi = w.cpi ∧ (w.hearBudget t s v n h).mc = w.mc ∧
    (w.hearBudget t s v n h).ptu = w.ptu ∧ (w.hearBudget t s v n h).ae = w.ae ∧ (w.hearBudget t s v n h).ci = w.ci ∧
    (w.hearBudget t s v n h).pending = w.pending ∧ (w.hearBudget t s v n h).before = w.before ∧
    (w.hearBudget t s v n h).sysNotices = w.sysNotices ∧ (w.hearBudget t s v n h).conflictLost = w.conflictLost ∧
    (w.hearBudget t s v n h).sendAtOnce = w.sendAtOnce := by
  unfold Work.hearBudget
  try dsimp only
  (repeat' split) <;> simp

@[simp] theorem Work.putSession_keeps (w : Work) (r : Session × List Nat) :
    (w.putSession r).now = w.now ∧ (w.putSession r).io = w.io ∧ (w.putSession r).cpi = w.cpi ∧
    (w.putSession r).mc = w.mc ∧ (w.putSession r).lc = w.lc ∧ (w.putSession r).bu = w.bu ∧
    (w.putSession r).map = w.map ∧ (w.putSession r).ptu = w.ptu ∧ (w.putSession r).ae = w.ae ∧
    (w.putSession r).hc = w.hc ∧ (w.putSession r).ci = w.ci ∧ (w.putSession r).pending = w.pending ∧
    (w.putSession r).before = w.before ∧ (w.putSession r).sysNotices = w.sysNotices ∧
    (w.putSession r).newDrains = w.newDrains ∧ (w.putSession r).conflictLost = w.conflictLost ∧
    (w.putSession r).considerClaim = w.considerClaim ∧ (w.putSession r).sendAtOnce = w.sendAtOnce := by
  unfold Work.putSession
  refine ⟨foldl_keeps (fun w : Work => w.now) _ (fun a b => by simp) _ _,
    foldl_keeps (fun w : Work => w.io) _ (fun a b => by simp) _ _,
    foldl_keeps (fun w : Work => w.cpi) _ (fun a b => by simp) _ _,
    foldl_keeps (fun w : Work => w.mc) _ (fun a b => by simp) _ _,
    foldl_keeps (fun w : Work => w.lc) _ (fun a b => by simp) _ _,
    foldl_keeps (fun w : Work => w.bu) _ (fun a b => by simp) _ _,
    foldl_keeps (fun w : Work => w.map) _ (fun a b => by simp) _ _,
    foldl_keeps (fun w : Work => w.ptu) _ (fun a b => by simp) _ _,
    foldl_keeps (fun w : Work => w.ae) _ (fun a b => by simp) _ _,
    foldl_keeps (fun w : Work => w.hc) _ (fun a b => by simp) _ _,
    foldl_keeps (fun w : Work => w.ci) _ (fun a b => by simp) _ _,
    foldl_keeps (fun w : Work => w.pending) _ (fun a b => by simp) _ _,
    foldl_keeps (fun w : Work => w.before) _ (fun a b => by simp) _ _,
    foldl_keeps (fun w : Work => w.sysNotices) _ (fun a b => by simp) _ _,
    foldl_keeps (fun w : Work => w.newDrains) _ (fun a b => by simp) _ _,
    foldl_keeps (fun w : Work => w.conflictLost) _ (fun a b => by simp) _ _,
    foldl_keeps (fun w : Work => w.considerClaim) _ (fun a b => by simp) _ _,
    foldl_keeps (fun w : Work => w.sendAtOnce) _ (fun a b => by simp) _ _⟩

@[simp] theorem Work.testStep_keeps (w : Work) (c : List EndCause) :
    (w.testStep c).now = w.now ∧ (w.testStep c).io = w.io ∧ (w.testStep c).cpi = w.cpi ∧ (w.testStep c).mc = w.mc ∧
    (w.testStep c).lc = w.lc ∧ (w.testStep c).bu = w.bu ∧ (w.testStep c).map = w.map ∧ (w.testStep c).ptu = w.ptu ∧
    (w.testStep c).ae = w.ae ∧ (w.testStep c).hc = w.hc ∧ (w.testStep c).ci = w.ci ∧
    (w.testStep c).pending = w.pending ∧ (w.testStep c).before = w.before ∧ (w.testStep c).sysNotices = w.sysNotices ∧
    (w.testStep c).newDrains = w.newDrains ∧ (w.testStep c).conflictLost = w.conflictLost ∧
    (w.testStep c).considerClaim = w.considerClaim ∧ (w.testStep c).sendAtOnce = w.sendAtOnce := by
  unfold Work.testStep
  try dsimp only
  (repeat' split) <;> simp

@[simp] theorem Work.testRemaining_keeps (w : Work) :
    w.testRemaining.now = w.now ∧ w.testRemaining.io = w.io ∧ w.testRemaining.cpi = w.cpi ∧
    w.testRemaining.mc = w.mc ∧ w.testRemaining.lc = w.lc ∧ w.testRemaining.bu = w.bu ∧ w.testRemaining.map = w.map ∧
    w.testRemaining.ptu = w.ptu ∧ w.testRemaining.ae = w.ae ∧ w.testRemaining.hc = w.hc ∧ w.testRemaining.ci = w.ci ∧
    w.testRemaining.bk = w.bk ∧ w.testRemaining.pending = w.pending ∧ w.testRemaining.before = w.before ∧
    w.testRemaining.sysNotices = w.sysNotices ∧ w.testRemaining.firings = w.firings ∧
    w.testRemaining.newDrains = w.newDrains ∧ w.testRemaining.conflictLost = w.conflictLost ∧
    w.testRemaining.considerClaim = w.considerClaim ∧ w.testRemaining.sendAtOnce = w.sendAtOnce := by
  unfold Work.testRemaining
  try dsimp only
  (repeat' split) <;> simp

@[simp] theorem Work.sessionMeter_keeps (w : Work) (e : Nat) :
    (w.sessionMeter e).now = w.now ∧ (w.sessionMeter e).io = w.io ∧ (w.sessionMeter e).cpi = w.cpi ∧
    (w.sessionMeter e).mc = w.mc ∧ (w.sessionMeter e).lc = w.lc ∧ (w.sessionMeter e).bu = w.bu ∧
    (w.sessionMeter e).map = w.map ∧ (w.sessionMeter e).ptu = w.ptu ∧ (w.sessionMeter e).ae = w.ae ∧
    (w.sessionMeter e).hc = w.hc ∧ (w.sessionMeter e).ci = w.ci ∧ (w.sessionMeter e).pending = w.pending ∧
    (w.sessionMeter e).before = w.before ∧ (w.sessionMeter e).sysNotices = w.sysNotices ∧
    (w.sessionMeter e).newDrains = w.newDrains ∧ (w.sessionMeter e).conflictLost = w.conflictLost ∧
    (w.sessionMeter e).considerClaim = w.considerClaim ∧ (w.sessionMeter e).sendAtOnce = w.sendAtOnce := by
  simp [Work.sessionMeter]

@[simp] theorem Work.resumeSession_keeps (w : Work) :
    w.resumeSession.now = w.now ∧ w.resumeSession.io = w.io ∧ w.resumeSession.cpi = w.cpi ∧
    w.resumeSession.mc = w.mc ∧ w.resumeSession.lc = w.lc ∧ w.resumeSession.bu = w.bu ∧ w.resumeSession.map = w.map ∧
    w.resumeSession.ptu = w.ptu ∧ w.resumeSession.ae = w.ae ∧ w.resumeSession.hc = w.hc ∧ w.resumeSession.ci = w.ci ∧
    w.resumeSession.pending = w.pending ∧ w.resumeSession.before = w.before ∧ w.resumeSession.sysNotices = w.sysNotices ∧
    w.resumeSession.newDrains = w.newDrains ∧ w.resumeSession.conflictLost = w.conflictLost ∧
    w.resumeSession.considerClaim = w.considerClaim ∧ w.resumeSession.sendAtOnce = w.sendAtOnce := by
  unfold Work.resumeSession
  try dsimp only
  (repeat' split) <;> simp

@[simp] theorem Work.autoResume_keeps (w : Work) :
    w.autoResume.now = w.now ∧ w.autoResume.io = w.io ∧ w.autoResume.cpi = w.cpi ∧ w.autoResume.mc = w.mc ∧
    w.autoResume.lc = w.lc ∧ w.autoResume.bu = w.bu ∧ w.autoResume.map = w.map ∧ w.autoResume.ptu = w.ptu ∧
    w.autoResume.ae = w.ae ∧ w.autoResume.hc = w.hc ∧ w.autoResume.ci = w.ci ∧ w.autoResume.pending = w.pending ∧
    w.autoResume.before = w.before ∧ w.autoResume.sysNotices = w.sysNotices ∧ w.autoResume.newDrains = w.newDrains ∧
    w.autoResume.conflictLost = w.conflictLost ∧ w.autoResume.considerClaim = w.considerClaim ∧
    w.autoResume.sendAtOnce = w.sendAtOnce := by
  unfold Work.autoResume
  try dsimp only
  (repeat' split) <;> simp

@[simp] theorem Work.endSession_keeps (w : Work) (r : EndReason) :
    (w.endSession r).now = w.now ∧ (w.endSession r).io = w.io ∧ (w.endSession r).cpi = w.cpi ∧
    (w.endSession r).mc = w.mc ∧ (w.endSession r).bu = w.bu ∧ (w.endSession r).ptu = w.ptu ∧
    (w.endSession r).ae = w.ae ∧ (w.endSession r).ci = w.ci ∧ (w.endSession r).bk = w.bk ∧
    (w.endSession r).pending = w.pending ∧ (w.endSession r).before = w.before ∧
    (w.endSession r).sysNotices = w.sysNotices ∧ (w.endSession r).firings = w.firings ∧
    (w.endSession r).conflictLost = w.conflictLost ∧ (w.endSession r).sendAtOnce = w.sendAtOnce := by
  simp [Work.endSession]

@[simp] theorem Work.testSessionEnd_keeps (w : Work) :
    w.testSessionEnd.now = w.now ∧ w.testSessionEnd.io = w.io ∧ w.testSessionEnd.cpi = w.cpi ∧
    w.testSessionEnd.mc = w.mc ∧ w.testSessionEnd.lc = w.lc ∧ w.testSessionEnd.bu = w.bu ∧
    w.testSessionEnd.map = w.map ∧ w.testSessionEnd.ptu = w.ptu ∧ w.testSessionEnd.ae = w.ae ∧
    w.testSessionEnd.hc = w.hc ∧ w.testSessionEnd.ci = w.ci ∧ w.testSessionEnd.pending = w.pending ∧
    w.testSessionEnd.before = w.before ∧ w.testSessionEnd.newDrains = w.newDrains ∧
    w.testSessionEnd.conflictLost = w.conflictLost ∧ w.testSessionEnd.considerClaim = w.considerClaim ∧
    w.testSessionEnd.sendAtOnce = w.sendAtOnce := by
  unfold Work.testSessionEnd
  split
  · simp
  · dsimp only
    split <;> simp

@[simp] theorem Work.formAndSend_keeps (w : Work) :
    w.formAndSend.now = w.now ∧ w.formAndSend.io = w.io ∧ w.formAndSend.cpi = w.cpi ∧ w.formAndSend.mc = w.mc ∧
    w.formAndSend.lc = w.lc ∧ w.formAndSend.bu = w.bu ∧ w.formAndSend.map = w.map ∧ w.formAndSend.ptu = w.ptu ∧
    w.formAndSend.ae = w.ae ∧ w.formAndSend.hc = w.hc ∧ w.formAndSend.ss = w.ss ∧ w.formAndSend.bk = w.bk ∧
    w.formAndSend.pending = w.pending ∧ w.formAndSend.before = w.before ∧ w.formAndSend.sysNotices = w.sysNotices ∧
    w.formAndSend.firings = w.firings ∧ w.formAndSend.newDrains = w.newDrains ∧
    w.formAndSend.conflictLost = w.conflictLost ∧ w.formAndSend.considerClaim = w.considerClaim ∧
    w.formAndSend.sendAtOnce = w.sendAtOnce := by
  unfold Work.formAndSend
  try dsimp only
  (repeat' split) <;> simp [Work.onState]

@[simp] theorem Work.drainTests_keeps (w : Work) (r : Meter) (l : Nat) :
    (w.drainTests r l).now = w.now ∧ (w.drainTests r l).io = w.io ∧ (w.drainTests r l).cpi = w.cpi ∧
    (w.drainTests r l).mc = w.mc ∧ (w.drainTests r l).bu = w.bu ∧ (w.drainTests r l).ptu = w.ptu ∧
    (w.drainTests r l).ae = w.ae ∧ (w.drainTests r l).ss = w.ss ∧ (w.drainTests r l).ci = w.ci ∧
    (w.drainTests r l).bk = w.bk ∧ (w.drainTests r l).pending = w.pending ∧ (w.drainTests r l).before = w.before ∧
    (w.drainTests r l).sysNotices = w.sysNotices ∧ (w.drainTests r l).firings = w.firings ∧
    (w.drainTests r l).newDrains = w.newDrains ∧ (w.drainTests r l).conflictLost = w.conflictLost ∧
    (w.drainTests r l).considerClaim = w.considerClaim ∧ (w.drainTests r l).sendAtOnce = w.sendAtOnce := by
  unfold Work.drainTests
  try dsimp only
  (repeat' split) <;> simp

@[simp] theorem Work.endLost_keeps (w : Work) (r : Meter) :
    (w.endLost r).now = w.now ∧ (w.endLost r).io = w.io ∧ (w.endLost r).cpi = w.cpi ∧ (w.endLost r).mc = w.mc ∧
    (w.endLost r).lc = w.lc ∧ (w.endLost r).bu = w.bu ∧ (w.endLost r).map = w.map ∧ (w.endLost r).ptu = w.ptu ∧
    (w.endLost r).ae = w.ae ∧ (w.endLost r).ss = w.ss ∧ (w.endLost r).bk = w.bk ∧ (w.endLost r).pending = w.pending ∧
    (w.endLost r).before = w.before ∧ (w.endLost r).sysNotices = w.sysNotices ∧ (w.endLost r).firings = w.firings ∧
    (w.endLost r).newDrains = w.newDrains ∧ (w.endLost r).conflictLost = w.conflictLost ∧
    (w.endLost r).considerClaim = w.considerClaim ∧ (w.endLost r).sendAtOnce = w.sendAtOnce := by
  and_intros <;> rfl

@[simp] theorem Work.converterFault_keeps (w : Work) (c : Nat) (l : Bool) :
    (w.converterFault c l).now = w.now ∧ (w.converterFault c l).io = w.io ∧ (w.converterFault c l).cpi = w.cpi ∧
    (w.converterFault c l).mc = w.mc ∧ (w.converterFault c l).lc = w.lc ∧ (w.converterFault c l).bu = w.bu ∧
    (w.converterFault c l).map = w.map ∧ (w.converterFault c l).ptu = w.ptu ∧ (w.converterFault c l).ae = w.ae ∧
    (w.converterFault c l).hc = w.hc ∧ (w.converterFault c l).ci = w.ci ∧ (w.converterFault c l).bk = w.bk ∧
    (w.converterFault c l).pending = w.pending ∧ (w.converterFault c l).before = w.before ∧
    (w.converterFault c l).firings = w.firings ∧ (w.converterFault c l).newDrains = w.newDrains ∧
    (w.converterFault c l).conflictLost = w.conflictLost ∧
    (w.converterFault c l).considerClaim = w.considerClaim := by
  unfold Work.converterFault
  try dsimp only
  (repeat' split) <;> simp

@[simp] theorem Work.takeConverterState_keeps (w : Work) (b : ConvState) (r : Meter) :
    (w.takeConverterState b r).now = w.now ∧ (w.takeConverterState b r).io = w.io ∧
    (w.takeConverterState b r).cpi = w.cpi ∧ (w.takeConverterState b r).mc = w.mc ∧
    (w.takeConverterState b r).lc = w.lc ∧ (w.takeConverterState b r).bu = w.bu ∧
    (w.takeConverterState b r).map = w.map ∧ (w.takeConverterState b r).ptu = w.ptu ∧
    (w.takeConverterState b r).ae = w.ae ∧ (w.takeConverterState b r).hc = w.hc ∧
    (w.takeConverterState b r).bk = w.bk ∧ (w.takeConverterState b r).pending = w.pending ∧
    (w.takeConverterState b r).before = w.before ∧ (w.takeConverterState b r).firings = w.firings ∧
    (w.takeConverterState b r).newDrains = w.newDrains ∧ (w.takeConverterState b r).conflictLost = w.conflictLost ∧
    (w.takeConverterState b r).considerClaim = w.considerClaim := by
  unfold Work.takeConverterState
  try dsimp only
  (repeat' split) <;> simp

@[simp] theorem Work.takeReport_keeps (w : Work) (r : Meter) (l : Nat) :
    (w.takeReport r l).now = w.now ∧ (w.takeReport r l).io = w.io ∧ (w.takeReport r l).cpi = w.cpi ∧
    (w.takeReport r l).mc = w.mc ∧ (w.takeReport r l).bu = w.bu ∧ (w.takeReport r l).ptu = w.ptu ∧
    (w.takeReport r l).ae = w.ae ∧ (w.takeReport r l).pending = w.pending ∧ (w.takeReport r l).before = w.before ∧
    (w.takeReport r l).newDrains = w.newDrains ∧ (w.takeReport r l).conflictLost = w.conflictLost ∧
    (w.takeReport r l).considerClaim = w.considerClaim := by
  unfold Work.takeReport
  try dsimp only
  (repeat' split) <;> simp

@[simp] theorem Work.becomeLost_keeps (w : Work) :
    w.becomeLost.now = w.now ∧ w.becomeLost.io = w.io ∧ w.becomeLost.cpi = w.cpi ∧ w.becomeLost.mc = w.mc ∧
    w.becomeLost.lc = w.lc ∧ w.becomeLost.bu = w.bu ∧ w.becomeLost.ptu = w.ptu ∧ w.becomeLost.ae = w.ae ∧
    w.becomeLost.bk = w.bk ∧ w.becomeLost.pending = w.pending ∧ w.becomeLost.before = w.before ∧
    w.becomeLost.firings = w.firings ∧ w.becomeLost.conflictLost = w.conflictLost ∧
    w.becomeLost.considerClaim = w.considerClaim := by
  simp [Work.becomeLost]

@[simp] theorem Work.lostCompletes_keeps (w : Work) :
    w.lostCompletes.now = w.now ∧ w.lostCompletes.io = w.io ∧ w.lostCompletes.cpi = w.cpi ∧
    w.lostCompletes.mc = w.mc ∧ w.lostCompletes.bu = w.bu ∧ w.lostCompletes.ptu = w.ptu ∧ w.lostCompletes.ae = w.ae ∧
    w.lostCompletes.ss = w.ss ∧ w.lostCompletes.ci = w.ci ∧ w.lostCompletes.bk = w.bk ∧
    w.lostCompletes.pending = w.pending ∧ w.lostCompletes.before = w.before ∧ w.lostCompletes.sysNotices = w.sysNotices ∧
    w.lostCompletes.firings = w.firings ∧ w.lostCompletes.newDrains = w.newDrains ∧
    w.lostCompletes.conflictLost = w.conflictLost ∧ w.lostCompletes.considerClaim = w.considerClaim ∧
    w.lostCompletes.sendAtOnce = w.sendAtOnce := by
  unfold Work.lostCompletes
  try dsimp only
  (repeat' split) <;> simp

@[simp] theorem Work.epoch_keeps (w : Work) :
    w.epoch.now = w.now ∧ w.epoch.io = w.io ∧ w.epoch.cpi = w.cpi ∧ w.epoch.mc = w.mc ∧ w.epoch.bu = w.bu ∧
    w.epoch.ptu = w.ptu ∧ w.epoch.ci = w.ci ∧ w.epoch.pending = w.pending ∧ w.epoch.before = w.before ∧
    w.epoch.sysNotices = w.sysNotices ∧ w.epoch.conflictLost = w.conflictLost ∧
    w.epoch.sendAtOnce = w.sendAtOnce := by
  unfold Work.epoch
  try dsimp only
  (repeat' split) <;> simp

@[simp] theorem Work.hearPeer_keeps (w : Work) (t : Nat) (f : Frame) :
    (w.hearPeer t f).now = w.now ∧ (w.hearPeer t f).io = w.io ∧ (w.hearPeer t f).cpi = w.cpi ∧
    (w.hearPeer t f).lc = w.lc ∧ (w.hearPeer t f).bu = w.bu ∧ (w.hearPeer t f).map = w.map ∧
    (w.hearPeer t f).ae = w.ae ∧ (w.hearPeer t f).hc = w.hc ∧ (w.hearPeer t f).ci = w.ci ∧
    (w.hearPeer t f).pending = w.pending ∧ (w.hearPeer t f).before = w.before ∧
    (w.hearPeer t f).newDrains = w.newDrains ∧ (w.hearPeer t f).conflictLost = w.conflictLost ∧
    (w.hearPeer t f).considerClaim = w.considerClaim ∧ (w.hearPeer t f).sendAtOnce = w.sendAtOnce := by
  unfold Work.hearPeer
  try dsimp only
  (repeat' split) <;> simp

@[simp] theorem Work.silence_keeps (w : Work) (t : Nat) :
    (w.silence t).now = w.now ∧ (w.silence t).io = w.io ∧ (w.silence t).cpi = w.cpi ∧ (w.silence t).mc = w.mc ∧
    (w.silence t).lc = w.lc ∧ (w.silence t).bu = w.bu ∧ (w.silence t).map = w.map ∧ (w.silence t).ae = w.ae ∧
    (w.silence t).hc = w.hc ∧ (w.silence t).ci = w.ci ∧ (w.silence t).pending = w.pending ∧
    (w.silence t).before = w.before ∧ (w.silence t).sysNotices = w.sysNotices ∧ (w.silence t).newDrains = w.newDrains ∧
    (w.silence t).conflictLost = w.conflictLost ∧ (w.silence t).considerClaim = w.considerClaim ∧
    (w.silence t).sendAtOnce = w.sendAtOnce := by
  simp [Work.silence, Work.onState]

@[simp] theorem Work.forgetHoldings_keeps (w : Work) (t : Nat) (k : Bool) :
    (w.forgetHoldings t k).now = w.now ∧ (w.forgetHoldings t k).io = w.io ∧ (w.forgetHoldings t k).cpi = w.cpi ∧
    (w.forgetHoldings t k).mc = w.mc ∧ (w.forgetHoldings t k).lc = w.lc ∧ (w.forgetHoldings t k).bu = w.bu ∧
    (w.forgetHoldings t k).ptu = w.ptu ∧ (w.forgetHoldings t k).ae = w.ae ∧ (w.forgetHoldings t k).hc = w.hc ∧
    (w.forgetHoldings t k).ss = w.ss ∧ (w.forgetHoldings t k).ci = w.ci ∧ (w.forgetHoldings t k).bk = w.bk ∧
    (w.forgetHoldings t k).pending = w.pending ∧ (w.forgetHoldings t k).before = w.before ∧
    (w.forgetHoldings t k).sysNotices = w.sysNotices ∧ (w.forgetHoldings t k).firings = w.firings ∧
    (w.forgetHoldings t k).newDrains = w.newDrains ∧ (w.forgetHoldings t k).conflictLost = w.conflictLost ∧
    (w.forgetHoldings t k).considerClaim = w.considerClaim ∧ (w.forgetHoldings t k).sendAtOnce = w.sendAtOnce := by
  simp [Work.forgetHoldings]

@[simp] theorem Work.expel_keeps (w : Work) (t : Nat) :
    (w.expel t).now = w.now ∧ (w.expel t).io = w.io ∧ (w.expel t).cpi = w.cpi ∧ (w.expel t).mc = w.mc ∧
    (w.expel t).lc = w.lc ∧ (w.expel t).bu = w.bu ∧ (w.expel t).ae = w.ae ∧ (w.expel t).hc = w.hc ∧
    (w.expel t).ci = w.ci ∧ (w.expel t).pending = w.pending ∧ (w.expel t).before = w.before ∧
    (w.expel t).sysNotices = w.sysNotices ∧ (w.expel t).newDrains = w.newDrains ∧
    (w.expel t).conflictLost = w.conflictLost ∧ (w.expel t).considerClaim = w.considerClaim ∧
    (w.expel t).sendAtOnce = w.sendAtOnce := by
  simp [Work.expel, Work.onState]

@[simp] theorem Work.countUnanswered_keeps (w : Work) (t : Nat) :
    (w.countUnanswered t).now = w.now ∧ (w.countUnanswered t).io = w.io ∧ (w.countUnanswered t).cpi = w.cpi ∧
    (w.countUnanswered t).mc = w.mc ∧ (w.countUnanswered t).lc = w.lc ∧ (w.countUnanswered t).bu = w.bu ∧
    (w.countUnanswered t).map = w.map ∧ (w.countUnanswered t).ae = w.ae ∧ (w.countUnanswered t).hc = w.hc ∧
    (w.countUnanswered t).ss = w.ss ∧ (w.countUnanswered t).ci = w.ci ∧ (w.countUnanswered t).bk = w.bk ∧
    (w.countUnanswered t).pending = w.pending ∧ (w.countUnanswered t).before = w.before ∧
    (w.countUnanswered t).sysNotices = w.sysNotices ∧ (w.countUnanswered t).firings = w.firings ∧
    (w.countUnanswered t).newDrains = w.newDrains ∧ (w.countUnanswered t).conflictLost = w.conflictLost ∧
    (w.countUnanswered t).considerClaim = w.considerClaim ∧ (w.countUnanswered t).sendAtOnce = w.sendAtOnce := by
  simp [Work.countUnanswered, Work.onState]

@[simp] theorem Work.orderDrains_keeps (w : Work) (n : Nat) :
    (w.orderDrains n).now = w.now ∧ (w.orderDrains n).io = w.io ∧ (w.orderDrains n).cpi = w.cpi ∧
    (w.orderDrains n).mc = w.mc ∧ (w.orderDrains n).lc = w.lc ∧ (w.orderDrains n).bu = w.bu ∧
    (w.orderDrains n).map = w.map ∧ (w.orderDrains n).ptu = w.ptu ∧ (w.orderDrains n).ae = w.ae ∧
    (w.orderDrains n).ss = w.ss ∧ (w.orderDrains n).ci = w.ci ∧ (w.orderDrains n).bk = w.bk ∧
    (w.orderDrains n).pending = w.pending ∧ (w.orderDrains n).before = w.before ∧
    (w.orderDrains n).sysNotices = w.sysNotices ∧ (w.orderDrains n).firings = w.firings ∧
    (w.orderDrains n).newDrains = w.newDrains ∧ (w.orderDrains n).conflictLost = w.conflictLost ∧
    (w.orderDrains n).considerClaim = w.considerClaim ∧ (w.orderDrains n).sendAtOnce = w.sendAtOnce := by
  and_intros <;> rfl

@[simp] theorem Work.conflictOwn_keeps (w : Work) (q t : Nat) :
    (w.conflictOwn q t).1.now = w.now ∧ (w.conflictOwn q t).1.io = w.io ∧ (w.conflictOwn q t).1.cpi = w.cpi ∧
    (w.conflictOwn q t).1.mc = w.mc ∧ (w.conflictOwn q t).1.lc = w.lc ∧ (w.conflictOwn q t).1.bu = w.bu ∧
    (w.conflictOwn q t).1.ptu = w.ptu ∧ (w.conflictOwn q t).1.ae = w.ae ∧ (w.conflictOwn q t).1.ss = w.ss ∧
    (w.conflictOwn q t).1.ci = w.ci ∧ (w.conflictOwn q t).1.bk = w.bk ∧ (w.conflictOwn q t).1.pending = w.pending ∧
    (w.conflictOwn q t).1.before = w.before ∧ (w.conflictOwn q t).1.sysNotices = w.sysNotices ∧
    (w.conflictOwn q t).1.firings = w.firings ∧ (w.conflictOwn q t).1.considerClaim = w.considerClaim := by
  unfold Work.conflictOwn
  try dsimp only
  (repeat' split) <;> simp

@[simp] theorem Work.statedBy_keeps (w : Work) (t q : Nat) :
    (w.statedBy t q).1.now = w.now ∧ (w.statedBy t q).1.io = w.io ∧ (w.statedBy t q).1.cpi = w.cpi ∧
    (w.statedBy t q).1.mc = w.mc ∧ (w.statedBy t q).1.lc = w.lc ∧ (w.statedBy t q).1.bu = w.bu ∧
    (w.statedBy t q).1.ptu = w.ptu ∧ (w.statedBy t q).1.ae = w.ae ∧ (w.statedBy t q).1.ss = w.ss ∧
    (w.statedBy t q).1.ci = w.ci ∧ (w.statedBy t q).1.bk = w.bk ∧ (w.statedBy t q).1.pending = w.pending ∧
    (w.statedBy t q).1.before = w.before ∧ (w.statedBy t q).1.sysNotices = w.sysNotices ∧
    (w.statedBy t q).1.firings = w.firings := by
  unfold Work.statedBy
  try dsimp only
  (repeat' split) <;> simp

@[simp] theorem Work.claimedBy_keeps (w : Work) (s q : Nat) :
    (w.claimedBy s q).1.now = w.now ∧ (w.claimedBy s q).1.io = w.io ∧ (w.claimedBy s q).1.cpi = w.cpi ∧
    (w.claimedBy s q).1.mc = w.mc ∧ (w.claimedBy s q).1.lc = w.lc ∧ (w.claimedBy s q).1.bu = w.bu ∧
    (w.claimedBy s q).1.ptu = w.ptu ∧ (w.claimedBy s q).1.ae = w.ae ∧ (w.claimedBy s q).1.hc = w.hc ∧
    (w.claimedBy s q).1.ss = w.ss ∧ (w.claimedBy s q).1.ci = w.ci ∧ (w.claimedBy s q).1.bk = w.bk ∧
    (w.claimedBy s q).1.pending = w.pending ∧ (w.claimedBy s q).1.before = w.before ∧
    (w.claimedBy s q).1.sysNotices = w.sysNotices ∧ (w.claimedBy s q).1.firings = w.firings ∧
    (w.claimedBy s q).1.newDrains = w.newDrains ∧ (w.claimedBy s q).1.conflictLost = w.conflictLost ∧
    (w.claimedBy s q).1.considerClaim = w.considerClaim ∧ (w.claimedBy s q).1.sendAtOnce = w.sendAtOnce := by
  unfold Work.claimedBy
  try dsimp only
  (repeat' split) <;> simp

/-- A walk over the quanta of a frame keeps what each quantum keeps. -/
theorem overQuanta_keeps {γ : Type} (g : Work → γ) (f : Work → Nat → Work × List Nat) (h : ∀ w q, g (f w q).1 = g w)
    (w : Work) (qs : List Nat) : g (w.overQuanta f qs).1 = g w :=
  foldl_keeps (fun z : Work × List Nat => g z.1) (fun z q => ((f z.1 q).1, z.2 ++ (f z.1 q).2)) (fun z q => h z.1 q) qs (w, [])

@[simp] theorem contestAndHand_keeps (z : Work × List Nat) :
    (contestAndHand z).now = z.1.now ∧ (contestAndHand z).io = z.1.io ∧ (contestAndHand z).cpi = z.1.cpi ∧
    (contestAndHand z).mc = z.1.mc ∧ (contestAndHand z).bu = z.1.bu ∧ (contestAndHand z).map = z.1.map ∧
    (contestAndHand z).ptu = z.1.ptu ∧ (contestAndHand z).ae = z.1.ae ∧ (contestAndHand z).hc = z.1.hc ∧
    (contestAndHand z).ci = z.1.ci ∧ (contestAndHand z).pending = z.1.pending ∧ (contestAndHand z).before = z.1.before ∧
    (contestAndHand z).sysNotices = z.1.sysNotices ∧ (contestAndHand z).newDrains = z.1.newDrains ∧
    (contestAndHand z).considerClaim = z.1.considerClaim ∧ (contestAndHand z).sendAtOnce = z.1.sendAtOnce := by
  simp [contestAndHand]

@[simp] theorem Work.hearClaim_keeps (w : Work) (s : Nat) (qs : List Nat) :
    (w.hearClaim s qs).now = w.now ∧ (w.hearClaim s qs).io = w.io ∧ (w.hearClaim s qs).cpi = w.cpi ∧
    (w.hearClaim s qs).mc = w.mc ∧ (w.hearClaim s qs).bu = w.bu ∧ (w.hearClaim s qs).ptu = w.ptu ∧
    (w.hearClaim s qs).ae = w.ae ∧ (w.hearClaim s qs).hc = w.hc ∧ (w.hearClaim s qs).ci = w.ci ∧
    (w.hearClaim s qs).pending = w.pending ∧ (w.hearClaim s qs).before = w.before ∧
    (w.hearClaim s qs).sysNotices = w.sysNotices ∧ (w.hearClaim s qs).newDrains = w.newDrains ∧
    (w.hearClaim s qs).considerClaim = w.considerClaim ∧ (w.hearClaim s qs).sendAtOnce = w.sendAtOnce := by
  unfold Work.hearClaim
  refine ⟨by simp [overQuanta_keeps (fun w : Work => w.now)],
    by simp [overQuanta_keeps (fun w : Work => w.io)],
    by simp [overQuanta_keeps (fun w : Work => w.cpi)],
    by simp [overQuanta_keeps (fun w : Work => w.mc)],
    by simp [overQuanta_keeps (fun w : Work => w.bu)],
    by simp [overQuanta_keeps (fun w : Work => w.ptu)],
    by simp [overQuanta_keeps (fun w : Work => w.ae)],
    by simp [overQuanta_keeps (fun w : Work => w.hc)],
    by simp [overQuanta_keeps (fun w : Work => w.ci)],
    by simp [overQuanta_keeps (fun w : Work => w.pending)],
    by simp [overQuanta_keeps (fun w : Work => w.before)],
    by simp [overQuanta_keeps (fun w : Work => w.sysNotices)],
    by simp [overQuanta_keeps (fun w : Work => w.newDrains)],
    by simp [overQuanta_keeps (fun w : Work => w.considerClaim)],
    by simp [overQuanta_keeps (fun w : Work => w.sendAtOnce)]⟩

@[simp] theorem Work.statedAll_keeps (w : Work) (t : Nat) (qs : List Nat) :
    (w.statedAll t qs).1.now = w.now ∧ (w.statedAll t qs).1.io = w.io ∧ (w.statedAll t qs).1.cpi = w.cpi ∧
    (w.statedAll t qs).1.mc = w.mc ∧ (w.statedAll t qs).1.lc = w.lc ∧ (w.statedAll t qs).1.bu = w.bu ∧
    (w.statedAll t qs).1.ptu = w.ptu ∧ (w.statedAll t qs).1.ae = w.ae ∧ (w.statedAll t qs).1.ss = w.ss ∧
    (w.statedAll t qs).1.ci = w.ci ∧ (w.statedAll t qs).1.bk = w.bk ∧ (w.statedAll t qs).1.pending = w.pending ∧
    (w.statedAll t qs).1.before = w.before ∧ (w.statedAll t qs).1.sysNotices = w.sysNotices ∧
    (w.statedAll t qs).1.firings = w.firings := by
  unfold Work.statedAll
  refine ⟨by simp [overQuanta_keeps (fun w : Work => w.now)],
    by simp [overQuanta_keeps (fun w : Work => w.io)],
    by simp [overQuanta_keeps (fun w : Work => w.cpi)],
    by simp [overQuanta_keeps (fun w : Work => w.mc)],
    by simp [overQuanta_keeps (fun w : Work => w.lc)],
    by simp [overQuanta_keeps (fun w : Work => w.bu)],
    by simp [overQuanta_keeps (fun w : Work => w.ptu)],
    by simp [overQuanta_keeps (fun w : Work => w.ae)],
    by simp [overQuanta_keeps (fun w : Work => w.ss)],
    by simp [overQuanta_keeps (fun w : Work => w.ci)],
    by simp [overQuanta_keeps (fun w : Work => w.bk)],
    by simp [overQuanta_keeps (fun w : Work => w.pending)],
    by simp [overQuanta_keeps (fun w : Work => w.before)],
    by simp [overQuanta_keeps (fun w : Work => w.sysNotices)],
    by simp [overQuanta_keeps (fun w : Work => w.firings)]⟩

@[simp] theorem Work.hearContest_keeps (w : Work) (t : Nat) (qs : List Nat) :
    (w.hearContest t qs).now = w.now ∧ (w.hearContest t qs).io = w.io ∧ (w.hearContest t qs).cpi = w.cpi ∧
    (w.hearContest t qs).mc = w.mc ∧ (w.hearContest t qs).bu = w.bu ∧ (w.hearContest t qs).ptu = w.ptu ∧
    (w.hearContest t qs).ae = w.ae ∧ (w.hearContest t qs).ci = w.ci ∧ (w.hearContest t qs).pending = w.pending ∧
    (w.hearContest t qs).before = w.before ∧ (w.hearContest t qs).sysNotices = w.sysNotices := by
  simp [Work.hearContest]

@[simp] theorem Work.unlisted_keeps (w : Work) (s : Nat) (qs : List Nat) :
    (w.unlisted s qs).now = w.now ∧ (w.unlisted s qs).io = w.io ∧ (w.unlisted s qs).cpi = w.cpi ∧
    (w.unlisted s qs).mc = w.mc ∧ (w.unlisted s qs).lc = w.lc ∧ (w.unlisted s qs).bu = w.bu ∧
    (w.unlisted s qs).ptu = w.ptu ∧ (w.unlisted s qs).ae = w.ae ∧ (w.unlisted s qs).hc = w.hc ∧
    (w.unlisted s qs).ss = w.ss ∧ (w.unlisted s qs).ci = w.ci ∧ (w.unlisted s qs).bk = w.bk ∧
    (w.unlisted s qs).pending = w.pending ∧ (w.unlisted s qs).before = w.before ∧
    (w.unlisted s qs).sysNotices = w.sysNotices ∧ (w.unlisted s qs).firings = w.firings ∧
    (w.unlisted s qs).newDrains = w.newDrains ∧ (w.unlisted s qs).conflictLost = w.conflictLost ∧
    (w.unlisted s qs).considerClaim = w.considerClaim ∧ (w.unlisted s qs).sendAtOnce = w.sendAtOnce := by
  simp [Work.unlisted]

@[simp] theorem Work.hearHoldings_keeps (w : Work) (s : Nat) (qs : List Nat) :
    (w.hearHoldings s qs).now = w.now ∧ (w.hearHoldings s qs).io = w.io ∧ (w.hearHoldings s qs).cpi = w.cpi ∧
    (w.hearHoldings s qs).mc = w.mc ∧ (w.hearHoldings s qs).bu = w.bu ∧ (w.hearHoldings s qs).ptu = w.ptu ∧
    (w.hearHoldings s qs).ae = w.ae ∧ (w.hearHoldings s qs).ci = w.ci ∧ (w.hearHoldings s qs).pending = w.pending ∧
    (w.hearHoldings s qs).before = w.before ∧ (w.hearHoldings s qs).sysNotices = w.sysNotices := by
  simp [Work.hearHoldings]

@[simp] theorem Work.releasedBy_keeps (w : Work) (s : Nat) (b : Option Nat) (q : Nat) :
    (w.releasedBy s b q).now = w.now ∧ (w.releasedBy s b q).io = w.io ∧ (w.releasedBy s b q).cpi = w.cpi ∧
    (w.releasedBy s b q).mc = w.mc ∧ (w.releasedBy s b q).lc = w.lc ∧ (w.releasedBy s b q).bu = w.bu ∧
    (w.releasedBy s b q).ptu = w.ptu ∧ (w.releasedBy s b q).ae = w.ae ∧ (w.releasedBy s b q).ss = w.ss ∧
    (w.releasedBy s b q).ci = w.ci ∧ (w.releasedBy s b q).bk = w.bk ∧ (w.releasedBy s b q).pending = w.pending ∧
    (w.releasedBy s b q).before = w.before ∧ (w.releasedBy s b q).sysNotices = w.sysNotices ∧
    (w.releasedBy s b q).firings = w.firings ∧ (w.releasedBy s b q).conflictLost = w.conflictLost ∧
    (w.releasedBy s b q).considerClaim = w.considerClaim ∧ (w.releasedBy s b q).sendAtOnce = w.sendAtOnce := by
  unfold Work.releasedBy
  dsimp only
  (repeat' split) <;> simp

@[simp] theorem Work.hearRelease_keeps (w : Work) (s : Nat) (b : Option Nat) (qs : List Nat) :
    (w.hearRelease s b qs).now = w.now ∧ (w.hearRelease s b qs).io = w.io ∧ (w.hearRelease s b qs).cpi = w.cpi ∧
    (w.hearRelease s b qs).mc = w.mc ∧ (w.hearRelease s b qs).lc = w.lc ∧ (w.hearRelease s b qs).bu = w.bu ∧
    (w.hearRelease s b qs).ptu = w.ptu ∧ (w.hearRelease s b qs).ae = w.ae ∧ (w.hearRelease s b qs).ss = w.ss ∧
    (w.hearRelease s b qs).ci = w.ci ∧ (w.hearRelease s b qs).bk = w.bk ∧
    (w.hearRelease s b qs).pending = w.pending ∧ (w.hearRelease s b qs).before = w.before ∧
    (w.hearRelease s b qs).sysNotices = w.sysNotices ∧ (w.hearRelease s b qs).firings = w.firings ∧
    (w.hearRelease s b qs).conflictLost = w.conflictLost ∧ (w.hearRelease s b qs).considerClaim = w.considerClaim ∧
    (w.hearRelease s b qs).sendAtOnce = w.sendAtOnce := by
  unfold Work.hearRelease
  refine ⟨by simp [foldl_keeps (fun v : Work => v.now) (fun (v : Work) q => v.releasedBy s (w.toState.keptBeneficiary s b) q) (fun a c => by simp)],
    by simp [foldl_keeps (fun v : Work => v.io) (fun (v : Work) q => v.releasedBy s (w.toState.keptBeneficiary s b) q) (fun a c => by simp)],
    by simp [foldl_keeps (fun v : Work => v.cpi) (fun (v : Work) q => v.releasedBy s (w.toState.keptBeneficiary s b) q) (fun a c => by simp)],
    by simp [foldl_keeps (fun v : Work => v.mc) (fun (v : Work) q => v.releasedBy s (w.toState.keptBeneficiary s b) q) (fun a c => by simp)],
    by simp [foldl_keeps (fun v : Work => v.lc) (fun (v : Work) q => v.releasedBy s (w.toState.keptBeneficiary s b) q) (fun a c => by simp)],
    by simp [foldl_keeps (fun v : Work => v.bu) (fun (v : Work) q => v.releasedBy s (w.toState.keptBeneficiary s b) q) (fun a c => by simp)],
    by simp [foldl_keeps (fun v : Work => v.ptu) (fun (v : Work) q => v.releasedBy s (w.toState.keptBeneficiary s b) q) (fun a c => by simp)],
    by simp [foldl_keeps (fun v : Work => v.ae) (fun (v : Work) q => v.releasedBy s (w.toState.keptBeneficiary s b) q) (fun a c => by simp)],
    by simp [foldl_keeps (fun v : Work => v.ss) (fun (v : Work) q => v.releasedBy s (w.toState.keptBeneficiary s b) q) (fun a c => by simp)],
    by simp [foldl_keeps (fun v : Work => v.ci) (fun (v : Work) q => v.releasedBy s (w.toState.keptBeneficiary s b) q) (fun a c => by simp)],
    by simp [foldl_keeps (fun v : Work => v.bk) (fun (v : Work) q => v.releasedBy s (w.toState.keptBeneficiary s b) q) (fun a c => by simp)],
    by simp [foldl_keeps (fun v : Work => v.pending) (fun (v : Work) q => v.releasedBy s (w.toState.keptBeneficiary s b) q) (fun a c => by simp)],
    by simp [foldl_keeps (fun v : Work => v.before) (fun (v : Work) q => v.releasedBy s (w.toState.keptBeneficiary s b) q) (fun a c => by simp)],
    by simp [foldl_keeps (fun v : Work => v.sysNotices) (fun (v : Work) q => v.releasedBy s (w.toState.keptBeneficiary s b) q) (fun a c => by simp)],
    by simp [foldl_keeps (fun v : Work => v.firings) (fun (v : Work) q => v.releasedBy s (w.toState.keptBeneficiary s b) q) (fun a c => by simp)],
    by simp [foldl_keeps (fun v : Work => v.conflictLost) (fun (v : Work) q => v.releasedBy s (w.toState.keptBeneficiary s b) q) (fun a c => by simp)],
    by simp [foldl_keeps (fun v : Work => v.considerClaim) (fun (v : Work) q => v.releasedBy s (w.toState.keptBeneficiary s b) q) (fun a c => by simp)],
    by simp [foldl_keeps (fun v : Work => v.sendAtOnce) (fun (v : Work) q => v.releasedBy s (w.toState.keptBeneficiary s b) q) (fun a c => by simp)]⟩

@[simp] theorem Work.grantHome_keeps (w : Work) (r q : Nat) :
    (w.grantHome r q).now = w.now ∧ (w.grantHome r q).io = w.io ∧ (w.grantHome r q).cpi = w.cpi ∧
    (w.grantHome r q).mc = w.mc ∧ (w.grantHome r q).lc = w.lc ∧ (w.grantHome r q).bu = w.bu ∧
    (w.grantHome r q).ptu = w.ptu ∧ (w.grantHome r q).ae = w.ae ∧ (w.grantHome r q).ss = w.ss ∧
    (w.grantHome r q).ci = w.ci ∧ (w.grantHome r q).bk = w.bk ∧ (w.grantHome r q).pending = w.pending ∧
    (w.grantHome r q).before = w.before ∧ (w.grantHome r q).sysNotices = w.sysNotices ∧
    (w.grantHome r q).firings = w.firings ∧ (w.grantHome r q).conflictLost = w.conflictLost ∧
    (w.grantHome r q).considerClaim = w.considerClaim ∧ (w.grantHome r q).sendAtOnce = w.sendAtOnce := by
  unfold Work.grantHome
  try dsimp only
  (repeat' split) <;> simp

@[simp] theorem Work.answerYield_keeps (w : Work) (r c : Nat) (d : Disposition) (l : List Nat) :
    (w.answerYield r c d l).now = w.now ∧ (w.answerYield r c d l).io = w.io ∧ (w.answerYield r c d l).cpi = w.cpi ∧
    (w.answerYield r c d l).mc = w.mc ∧ (w.answerYield r c d l).bu = w.bu ∧ (w.answerYield r c d l).ptu = w.ptu ∧
    (w.answerYield r c d l).ae = w.ae ∧ (w.answerYield r c d l).ss = w.ss ∧ (w.answerYield r c d l).ci = w.ci ∧
    (w.answerYield r c d l).bk = w.bk ∧ (w.answerYield r c d l).pending = w.pending ∧
    (w.answerYield r c d l).before = w.before ∧ (w.answerYield r c d l).sysNotices = w.sysNotices ∧
    (w.answerYield r c d l).firings = w.firings ∧ (w.answerYield r c d l).conflictLost = w.conflictLost ∧
    (w.answerYield r c d l).sendAtOnce = w.sendAtOnce := by
  unfold Work.answerYield
  dsimp only
  refine ⟨by (repeat' split) <;> simp [foldl_keeps (fun w : Work => w.now) (fun (w : Work) q => w.grantHome r q) (fun a b => by simp)],
    by (repeat' split) <;> simp [foldl_keeps (fun w : Work => w.io) (fun (w : Work) q => w.grantHome r q) (fun a b => by simp)],
    by (repeat' split) <;> simp [foldl_keeps (fun w : Work => w.cpi) (fun (w : Work) q => w.grantHome r q) (fun a b => by simp)],
    by (repeat' split) <;> simp [foldl_keeps (fun w : Work => w.mc) (fun (w : Work) q => w.grantHome r q) (fun a b => by simp)],
    by (repeat' split) <;> simp [foldl_keeps (fun w : Work => w.bu) (fun (w : Work) q => w.grantHome r q) (fun a b => by simp)],
    by (repeat' split) <;> simp [foldl_keeps (fun w : Work => w.ptu) (fun (w : Work) q => w.grantHome r q) (fun a b => by simp)],
    by (repeat' split) <;> simp [foldl_keeps (fun w : Work => w.ae) (fun (w : Work) q => w.grantHome r q) (fun a b => by simp)],
    by (repeat' split) <;> simp [foldl_keeps (fun w : Work => w.ss) (fun (w : Work) q => w.grantHome r q) (fun a b => by simp)],
    by (repeat' split) <;> simp [foldl_keeps (fun w : Work => w.ci) (fun (w : Work) q => w.grantHome r q) (fun a b => by simp)],
    by (repeat' split) <;> simp [foldl_keeps (fun w : Work => w.bk) (fun (w : Work) q => w.grantHome r q) (fun a b => by simp)],
    by (repeat' split) <;> simp [foldl_keeps (fun w : Work => w.pending) (fun (w : Work) q => w.grantHome r q) (fun a b => by simp)],
    by (repeat' split) <;> simp [foldl_keeps (fun w : Work => w.before) (fun (w : Work) q => w.grantHome r q) (fun a b => by simp)],
    by (repeat' split) <;> simp [foldl_keeps (fun w : Work => w.sysNotices) (fun (w : Work) q => w.grantHome r q) (fun a b => by simp)],
    by (repeat' split) <;> simp [foldl_keeps (fun w : Work => w.firings) (fun (w : Work) q => w.grantHome r q) (fun a b => by simp)],
    by (repeat' split) <;> simp [foldl_keeps (fun w : Work => w.conflictLost) (fun (w : Work) q => w.grantHome r q) (fun a b => by simp)],
    by (repeat' split) <;> simp [foldl_keeps (fun w : Work => w.sendAtOnce) (fun (w : Work) q => w.grantHome r q) (fun a b => by simp)]⟩

@[simp] theorem Work.countRequest_keeps (w : Work) :
    w.countRequest.now = w.now ∧ w.countRequest.io = w.io ∧ w.countRequest.cpi = w.cpi ∧ w.countRequest.mc = w.mc ∧
    w.countRequest.lc = w.lc ∧ w.countRequest.bu = w.bu ∧ w.countRequest.map = w.map ∧ w.countRequest.ae = w.ae ∧
    w.countRequest.hc = w.hc ∧ w.countRequest.ss = w.ss ∧ w.countRequest.ci = w.ci ∧ w.countRequest.bk = w.bk ∧
    w.countRequest.pending = w.pending ∧ w.countRequest.before = w.before ∧ w.countRequest.sysNotices = w.sysNotices ∧
    w.countRequest.firings = w.firings ∧ w.countRequest.newDrains = w.newDrains ∧
    w.countRequest.conflictLost = w.conflictLost ∧ w.countRequest.considerClaim = w.considerClaim ∧
    w.countRequest.sendAtOnce = w.sendAtOnce := by
  unfold Work.countRequest
  try dsimp only
  (repeat' split) <;> simp

@[simp] theorem Work.noteAnswer_keeps (w : Work) (t : Nat) :
    (w.noteAnswer t).now = w.now ∧ (w.noteAnswer t).io = w.io ∧ (w.noteAnswer t).cpi = w.cpi ∧
    (w.noteAnswer t).mc = w.mc ∧ (w.noteAnswer t).lc = w.lc ∧ (w.noteAnswer t).bu = w.bu ∧
    (w.noteAnswer t).map = w.map ∧ (w.noteAnswer t).ptu = w.ptu ∧ (w.noteAnswer t).ae = w.ae ∧
    (w.noteAnswer t).ss = w.ss ∧ (w.noteAnswer t).ci = w.ci ∧ (w.noteAnswer t).bk = w.bk ∧
    (w.noteAnswer t).pending = w.pending ∧ (w.noteAnswer t).before = w.before ∧
    (w.noteAnswer t).sysNotices = w.sysNotices ∧ (w.noteAnswer t).firings = w.firings ∧
    (w.noteAnswer t).newDrains = w.newDrains ∧ (w.noteAnswer t).conflictLost = w.conflictLost ∧
    (w.noteAnswer t).considerClaim = w.considerClaim ∧ (w.noteAnswer t).sendAtOnce = w.sendAtOnce := by
  and_intros <;> rfl

@[simp] theorem Work.takeAnswer_keeps (w : Work) (t r : Nat) (g : List Nat) :
    (w.takeAnswer t r g).now = w.now ∧ (w.takeAnswer t r g).io = w.io ∧ (w.takeAnswer t r g).cpi = w.cpi ∧
    (w.takeAnswer t r g).mc = w.mc ∧ (w.takeAnswer t r g).lc = w.lc ∧ (w.takeAnswer t r g).bu = w.bu ∧
    (w.takeAnswer t r g).ae = w.ae ∧ (w.takeAnswer t r g).ss = w.ss ∧ (w.takeAnswer t r g).ci = w.ci ∧
    (w.takeAnswer t r g).bk = w.bk ∧ (w.takeAnswer t r g).pending = w.pending ∧ (w.takeAnswer t r g).before = w.before ∧
    (w.takeAnswer t r g).sysNotices = w.sysNotices ∧ (w.takeAnswer t r g).firings = w.firings ∧
    (w.takeAnswer t r g).newDrains = w.newDrains ∧ (w.takeAnswer t r g).conflictLost = w.conflictLost ∧
    (w.takeAnswer t r g).considerClaim = w.considerClaim ∧ (w.takeAnswer t r g).sendAtOnce = w.sendAtOnce := by
  unfold Work.takeAnswer
  dsimp only
  (repeat' split) <;> simp [Work.onState]

@[simp] theorem Work.echoClaim_keeps (w : Work) (qs : List Nat) :
    (w.echoClaim qs).now = w.now ∧ (w.echoClaim qs).io = w.io ∧ (w.echoClaim qs).cpi = w.cpi ∧
    (w.echoClaim qs).mc = w.mc ∧ (w.echoClaim qs).bu = w.bu ∧ (w.echoClaim qs).ptu = w.ptu ∧
    (w.echoClaim qs).ae = w.ae ∧ (w.echoClaim qs).ss = w.ss ∧ (w.echoClaim qs).ci = w.ci ∧
    (w.echoClaim qs).bk = w.bk ∧ (w.echoClaim qs).pending = w.pending ∧ (w.echoClaim qs).before = w.before ∧
    (w.echoClaim qs).sysNotices = w.sysNotices ∧ (w.echoClaim qs).firings = w.firings ∧
    (w.echoClaim qs).newDrains = w.newDrains ∧ (w.echoClaim qs).conflictLost = w.conflictLost ∧
    (w.echoClaim qs).sendAtOnce = w.sendAtOnce := by
  unfold Work.echoClaim
  dsimp only
  (repeat' split) <;> simp

@[simp] theorem Work.echoRelease_keeps (w : Work) (b : Option Nat) (qs : List Nat) :
    (w.echoRelease b qs).now = w.now ∧ (w.echoRelease b qs).io = w.io ∧ (w.echoRelease b qs).cpi = w.cpi ∧
    (w.echoRelease b qs).mc = w.mc ∧ (w.echoRelease b qs).lc = w.lc ∧ (w.echoRelease b qs).bu = w.bu ∧
    (w.echoRelease b qs).ptu = w.ptu ∧ (w.echoRelease b qs).ae = w.ae ∧ (w.echoRelease b qs).ss = w.ss ∧
    (w.echoRelease b qs).ci = w.ci ∧ (w.echoRelease b qs).bk = w.bk ∧ (w.echoRelease b qs).pending = w.pending ∧
    (w.echoRelease b qs).before = w.before ∧ (w.echoRelease b qs).sysNotices = w.sysNotices ∧
    (w.echoRelease b qs).firings = w.firings ∧ (w.echoRelease b qs).newDrains = w.newDrains ∧
    (w.echoRelease b qs).conflictLost = w.conflictLost ∧ (w.echoRelease b qs).considerClaim = w.considerClaim ∧
    (w.echoRelease b qs).sendAtOnce = w.sendAtOnce := by
  unfold Work.echoRelease
  refine ⟨foldl_keeps (fun w : Work => w.now) _ (fun a b => by (dsimp only; (repeat' split) <;> simp)) _ _,
    foldl_keeps (fun w : Work => w.io) _ (fun a b => by (dsimp only; (repeat' split) <;> simp)) _ _,
    foldl_keeps (fun w : Work => w.cpi) _ (fun a b => by (dsimp only; (repeat' split) <;> simp)) _ _,
    foldl_keeps (fun w : Work => w.mc) _ (fun a b => by (dsimp only; (repeat' split) <;> simp)) _ _,
    foldl_keeps (fun w : Work => w.lc) _ (fun a b => by (dsimp only; (repeat' split) <;> simp)) _ _,
    foldl_keeps (fun w : Work => w.bu) _ (fun a b => by (dsimp only; (repeat' split) <;> simp)) _ _,
    foldl_keeps (fun w : Work => w.ptu) _ (fun a b => by (dsimp only; (repeat' split) <;> simp)) _ _,
    foldl_keeps (fun w : Work => w.ae) _ (fun a b => by (dsimp only; (repeat' split) <;> simp)) _ _,
    foldl_keeps (fun w : Work => w.ss) _ (fun a b => by (dsimp only; (repeat' split) <;> simp)) _ _,
    foldl_keeps (fun w : Work => w.ci) _ (fun a b => by (dsimp only; (repeat' split) <;> simp)) _ _,
    foldl_keeps (fun w : Work => w.bk) _ (fun a b => by (dsimp only; (repeat' split) <;> simp)) _ _,
    foldl_keeps (fun w : Work => w.pending) _ (fun a b => by (dsimp only; (repeat' split) <;> simp)) _ _,
    foldl_keeps (fun w : Work => w.before) _ (fun a b => by (dsimp only; (repeat' split) <;> simp)) _ _,
    foldl_keeps (fun w : Work => w.sysNotices) _ (fun a b => by (dsimp only; (repeat' split) <;> simp)) _ _,
    foldl_keeps (fun w : Work => w.firings) _ (fun a b => by (dsimp only; (repeat' split) <;> simp)) _ _,
    foldl_keeps (fun w : Work => w.newDrains) _ (fun a b => by (dsimp only; (repeat' split) <;> simp)) _ _,
    foldl_keeps (fun w : Work => w.conflictLost) _ (fun a b => by (dsimp only; (repeat' split) <;> simp)) _ _,
    foldl_keeps (fun w : Work => w.considerClaim) _ (fun a b => by (dsimp only; (repeat' split) <;> simp)) _ _,
    foldl_keeps (fun w : Work => w.sendAtOnce) _ (fun a b => by (dsimp only; (repeat' split) <;> simp)) _ _⟩

@[simp] theorem Work.settleClaim_keeps (w : Work) (qs : List Nat) :
    (w.settleClaim qs).now = w.now ∧ (w.settleClaim qs).io = w.io ∧ (w.settleClaim qs).cpi = w.cpi ∧
    (w.settleClaim qs).mc = w.mc ∧ (w.settleClaim qs).lc = w.lc ∧ (w.settleClaim qs).bu = w.bu ∧
    (w.settleClaim qs).ptu = w.ptu ∧ (w.settleClaim qs).ae = w.ae ∧ (w.settleClaim qs).ss = w.ss ∧
    (w.settleClaim qs).ci = w.ci ∧ (w.settleClaim qs).bk = w.bk ∧ (w.settleClaim qs).pending = w.pending ∧
    (w.settleClaim qs).before = w.before ∧ (w.settleClaim qs).sysNotices = w.sysNotices ∧
    (w.settleClaim qs).firings = w.firings ∧ (w.settleClaim qs).conflictLost = w.conflictLost ∧
    (w.settleClaim qs).sendAtOnce = w.sendAtOnce := by
  unfold Work.settleClaim
  dsimp only
  refine ⟨by simp [foldl_keeps (fun w : Work => w.now) (fun (w : Work) q => w.takeMine q (w.toState.settledReason q)) (fun a b => by simp)],
    by simp [foldl_keeps (fun w : Work => w.io) (fun (w : Work) q => w.takeMine q (w.toState.settledReason q)) (fun a b => by simp)],
    by simp [foldl_keeps (fun w : Work => w.cpi) (fun (w : Work) q => w.takeMine q (w.toState.settledReason q)) (fun a b => by simp)],
    by simp [foldl_keeps (fun w : Work => w.mc) (fun (w : Work) q => w.takeMine q (w.toState.settledReason q)) (fun a b => by simp)],
    by simp [foldl_keeps (fun w : Work => w.lc) (fun (w : Work) q => w.takeMine q (w.toState.settledReason q)) (fun a b => by simp)],
    by simp [foldl_keeps (fun w : Work => w.bu) (fun (w : Work) q => w.takeMine q (w.toState.settledReason q)) (fun a b => by simp)],
    by simp [foldl_keeps (fun w : Work => w.ptu) (fun (w : Work) q => w.takeMine q (w.toState.settledReason q)) (fun a b => by simp)],
    by simp [foldl_keeps (fun w : Work => w.ae) (fun (w : Work) q => w.takeMine q (w.toState.settledReason q)) (fun a b => by simp)],
    by simp [foldl_keeps (fun w : Work => w.ss) (fun (w : Work) q => w.takeMine q (w.toState.settledReason q)) (fun a b => by simp)],
    by simp [foldl_keeps (fun w : Work => w.ci) (fun (w : Work) q => w.takeMine q (w.toState.settledReason q)) (fun a b => by simp)],
    by simp [foldl_keeps (fun w : Work => w.bk) (fun (w : Work) q => w.takeMine q (w.toState.settledReason q)) (fun a b => by simp)],
    by simp [foldl_keeps (fun w : Work => w.pending) (fun (w : Work) q => w.takeMine q (w.toState.settledReason q)) (fun a b => by simp)],
    by simp [foldl_keeps (fun w : Work => w.before) (fun (w : Work) q => w.takeMine q (w.toState.settledReason q)) (fun a b => by simp)],
    by simp [foldl_keeps (fun w : Work => w.sysNotices) (fun (w : Work) q => w.takeMine q (w.toState.settledReason q)) (fun a b => by simp)],
    by simp [foldl_keeps (fun w : Work => w.firings) (fun (w : Work) q => w.takeMine q (w.toState.settledReason q)) (fun a b => by simp)],
    by simp [foldl_keeps (fun w : Work => w.conflictLost) (fun (w : Work) q => w.takeMine q (w.toState.settledReason q)) (fun a b => by simp)],
    by simp [foldl_keeps (fun w : Work => w.sendAtOnce) (fun (w : Work) q => w.takeMine q (w.toState.settledReason q)) (fun a b => by simp)]⟩

@[simp] theorem Work.applyFrame_keeps (w : Work) (s : Nat) (f : Frame) :
    (w.applyFrame s f).now = w.now ∧ (w.applyFrame s f).io = w.io ∧ (w.applyFrame s f).cpi = w.cpi ∧
    (w.applyFrame s f).mc = w.mc ∧ (w.applyFrame s f).ae = w.ae ∧ (w.applyFrame s f).ci = w.ci ∧
    (w.applyFrame s f).pending = w.pending ∧ (w.applyFrame s f).before = w.before ∧
    (w.applyFrame s f).sysNotices = w.sysNotices := by
  unfold Work.applyFrame
  try dsimp only
  (repeat' split) <;> simp

@[simp] theorem Work.applyEcho_keeps (w : Work) (f : Frame) :
    (w.applyEcho f).now = w.now ∧ (w.applyEcho f).io = w.io ∧ (w.applyEcho f).cpi = w.cpi ∧
    (w.applyEcho f).mc = w.mc ∧ (w.applyEcho f).ptu = w.ptu ∧ (w.applyEcho f).ae = w.ae ∧ (w.applyEcho f).ci = w.ci ∧
    (w.applyEcho f).pending = w.pending ∧ (w.applyEcho f).before = w.before ∧ (w.applyEcho f).sysNotices = w.sysNotices ∧
    (w.applyEcho f).conflictLost = w.conflictLost ∧ (w.applyEcho f).sendAtOnce = w.sendAtOnce := by
  unfold Work.applyEcho
  try dsimp only
  (repeat' split) <;> simp

@[simp] theorem Work.setMode_keeps (w : Work) (m : Mode) :
    (w.setMode m).now = w.now ∧ (w.setMode m).io = w.io ∧ (w.setMode m).cpi = w.cpi ∧ (w.setMode m).bu = w.bu ∧
    (w.setMode m).map = w.map ∧ (w.setMode m).ptu = w.ptu ∧ (w.setMode m).ae = w.ae ∧ (w.setMode m).ci = w.ci ∧
    (w.setMode m).pending = w.pending ∧ (w.setMode m).before = w.before ∧ (w.setMode m).sysNotices = w.sysNotices ∧
    (w.setMode m).newDrains = w.newDrains ∧ (w.setMode m).conflictLost = w.conflictLost ∧
    (w.setMode m).considerClaim = w.considerClaim ∧ (w.setMode m).sendAtOnce = w.sendAtOnce := by
  simp [Work.setMode]

@[simp] theorem Work.enterIsolated_keeps (w : Work) :
    w.enterIsolated.now = w.now ∧ w.enterIsolated.io = w.io ∧ w.enterIsolated.cpi = w.cpi ∧
    w.enterIsolated.bu = w.bu ∧ w.enterIsolated.ptu = w.ptu ∧ w.enterIsolated.ae = w.ae ∧ w.enterIsolated.ci = w.ci ∧
    w.enterIsolated.pending = w.pending ∧ w.enterIsolated.before = w.before ∧ w.enterIsolated.sysNotices = w.sysNotices ∧
    w.enterIsolated.conflictLost = w.conflictLost ∧ w.enterIsolated.sendAtOnce = w.sendAtOnce := by
  simp [Work.enterIsolated]

@[simp] theorem Work.judgeIsolation_keeps (w : Work) :
    w.judgeIsolation.now = w.now ∧ w.judgeIsolation.io = w.io ∧ w.judgeIsolation.cpi = w.cpi ∧
    w.judgeIsolation.bu = w.bu ∧ w.judgeIsolation.ptu = w.ptu ∧ w.judgeIsolation.ae = w.ae ∧
    w.judgeIsolation.ci = w.ci ∧ w.judgeIsolation.pending = w.pending ∧ w.judgeIsolation.before = w.before ∧
    w.judgeIsolation.sysNotices = w.sysNotices ∧ w.judgeIsolation.conflictLost = w.conflictLost ∧
    w.judgeIsolation.sendAtOnce = w.sendAtOnce := by
  unfold Work.judgeIsolation
  try dsimp only
  (repeat' split) <;> simp

@[simp] theorem Work.enterMuted_keeps (w : Work) :
    w.enterMuted.now = w.now ∧ w.enterMuted.io = w.io ∧ w.enterMuted.cpi = w.cpi ∧ w.enterMuted.bu = w.bu ∧
    w.enterMuted.ptu = w.ptu ∧ w.enterMuted.ae = w.ae ∧ w.enterMuted.ci = w.ci ∧ w.enterMuted.pending = w.pending ∧
    w.enterMuted.before = w.before ∧ w.enterMuted.sysNotices = w.sysNotices ∧
    w.enterMuted.conflictLost = w.conflictLost ∧ w.enterMuted.sendAtOnce = w.sendAtOnce := by
  simp [Work.enterMuted]

@[simp] theorem Work.enterOffline_keeps (w : Work) :
    w.enterOffline.now = w.now ∧ w.enterOffline.io = w.io ∧ w.enterOffline.cpi = w.cpi ∧ w.enterOffline.bu = w.bu ∧
    w.enterOffline.ptu = w.ptu ∧ w.enterOffline.ae = w.ae ∧ w.enterOffline.ci = w.ci ∧
    w.enterOffline.pending = w.pending ∧ w.enterOffline.before = w.before ∧ w.enterOffline.sysNotices = w.sysNotices ∧
    w.enterOffline.newDrains = w.newDrains ∧ w.enterOffline.conflictLost = w.conflictLost ∧
    w.enterOffline.sendAtOnce = w.sendAtOnce := by
  simp [Work.enterOffline]

@[simp] theorem Work.beginDrain_keeps (w : Work) :
    w.beginDrain.now = w.now ∧ w.beginDrain.io = w.io ∧ w.beginDrain.cpi = w.cpi ∧ w.beginDrain.mc = w.mc ∧
    w.beginDrain.bu = w.bu ∧ w.beginDrain.ptu = w.ptu ∧ w.beginDrain.ae = w.ae ∧ w.beginDrain.ci = w.ci ∧
    w.beginDrain.bk = w.bk ∧ w.beginDrain.pending = w.pending ∧ w.beginDrain.before = w.before ∧
    w.beginDrain.sysNotices = w.sysNotices ∧ w.beginDrain.firings = w.firings ∧
    w.beginDrain.conflictLost = w.conflictLost ∧ w.beginDrain.sendAtOnce = w.sendAtOnce := by
  simp [Work.beginDrain]

@[simp] theorem Work.requestIsolation_keeps (w : Work) :
    w.requestIsolation.now = w.now ∧ w.requestIsolation.io = w.io ∧ w.requestIsolation.cpi = w.cpi ∧
    w.requestIsolation.bu = w.bu ∧ w.requestIsolation.ptu = w.ptu ∧ w.requestIsolation.ae = w.ae ∧
    w.requestIsolation.ci = w.ci ∧ w.requestIsolation.bk = w.bk ∧ w.requestIsolation.pending = w.pending ∧
    w.requestIsolation.before = w.before ∧ w.requestIsolation.sysNotices = w.sysNotices ∧
    w.requestIsolation.firings = w.firings ∧ w.requestIsolation.conflictLost = w.conflictLost ∧
    w.requestIsolation.sendAtOnce = w.sendAtOnce := by
  unfold Work.requestIsolation
  try dsimp only
  (repeat' split) <;> simp

@[simp] theorem Work.tripEffects_keeps (w : Work) :
    w.tripEffects.now = w.now ∧ w.tripEffects.io = w.io ∧ w.tripEffects.cpi = w.cpi ∧ w.tripEffects.bu = w.bu ∧
    w.tripEffects.ptu = w.ptu ∧ w.tripEffects.pending = w.pending ∧ w.tripEffects.before = w.before ∧
    w.tripEffects.sysNotices = w.sysNotices ∧ w.tripEffects.newDrains = w.newDrains ∧
    w.tripEffects.conflictLost = w.conflictLost ∧ w.tripEffects.considerClaim = w.considerClaim := by
  simp [Work.tripEffects]

@[simp] theorem Work.clearBlocks_keeps (w : Work) :
    w.clearBlocks.now = w.now ∧ w.clearBlocks.io = w.io ∧ w.clearBlocks.cpi = w.cpi ∧ w.clearBlocks.ci = w.ci ∧
    w.clearBlocks.pending = w.pending ∧ w.clearBlocks.before = w.before ∧ w.clearBlocks.sysNotices = w.sysNotices ∧
    w.clearBlocks.firings = w.firings ∧ w.clearBlocks.newDrains = w.newDrains ∧
    w.clearBlocks.conflictLost = w.conflictLost ∧ w.clearBlocks.sendAtOnce = w.sendAtOnce := by
  simp [Work.clearBlocks]

@[simp] theorem Work.tripEntry_keeps (w : Work) :
    w.tripEntry.now = w.now ∧ w.tripEntry.io = w.io ∧ w.tripEntry.cpi = w.cpi ∧ w.tripEntry.pending = w.pending ∧
    w.tripEntry.before = w.before ∧ w.tripEntry.sysNotices = w.sysNotices ∧ w.tripEntry.newDrains = w.newDrains ∧
    w.tripEntry.conflictLost = w.conflictLost := by
  unfold Work.tripEntry
  try dsimp only
  (repeat' split) <;> simp

@[simp] theorem Work.enterListening_keeps (w : Work) :
    w.enterListening.now = w.now ∧ w.enterListening.io = w.io ∧ w.enterListening.cpi = w.cpi ∧
    w.enterListening.pending = w.pending ∧ w.enterListening.before = w.before ∧
    w.enterListening.sysNotices = w.sysNotices ∧ w.enterListening.newDrains = w.newDrains ∧
    w.enterListening.conflictLost = w.conflictLost := by
  unfold Work.enterListening
  try dsimp only
  (repeat' split) <;> simp

@[simp] theorem Work.clearingPoint_keeps (w : Work) :
    w.clearingPoint.now = w.now ∧ w.clearingPoint.io = w.io ∧ w.clearingPoint.cpi = w.cpi ∧
    w.clearingPoint.pending = w.pending ∧ w.clearingPoint.before = w.before ∧ w.clearingPoint.sysNotices = w.sysNotices ∧
    w.clearingPoint.newDrains = w.newDrains ∧ w.clearingPoint.conflictLost = w.conflictLost := by
  unfold Work.clearingPoint
  try dsimp only
  (repeat' split) <;> simp

@[simp] theorem Work.restart_keeps (w : Work) :
    w.restart.now = w.now ∧ w.restart.io = w.io ∧ w.restart.cpi = w.cpi ∧ w.restart.pending = w.pending ∧
    w.restart.before = w.before ∧ w.restart.sysNotices = w.sysNotices ∧ w.restart.conflictLost = w.conflictLost := by
  unfold Work.restart
  try dsimp only
  (repeat' split) <;> simp

@[simp] theorem Work.concludeDrain_keeps (w : Work) :
    w.concludeDrain.now = w.now ∧ w.concludeDrain.io = w.io ∧ w.concludeDrain.cpi = w.cpi ∧
    w.concludeDrain.pending = w.pending ∧ w.concludeDrain.before = w.before ∧ w.concludeDrain.sysNotices = w.sysNotices ∧
    w.concludeDrain.newDrains = w.newDrains ∧ w.concludeDrain.conflictLost = w.conflictLost := by
  unfold Work.concludeDrain
  try dsimp only
  (repeat' split) <;> simp

@[simp] theorem Work.testDrainDone_keeps (w : Work) :
    w.testDrainDone.now = w.now ∧ w.testDrainDone.io = w.io ∧ w.testDrainDone.cpi = w.cpi ∧
    w.testDrainDone.pending = w.pending ∧ w.testDrainDone.before = w.before ∧ w.testDrainDone.sysNotices = w.sysNotices ∧
    w.testDrainDone.newDrains = w.newDrains ∧ w.testDrainDone.conflictLost = w.conflictLost := by
  unfold Work.testDrainDone
  try dsimp only
  (repeat' split) <;> simp

@[simp] theorem Work.hearDuplicate_keeps (w : Work) (k : FrameKind) :
    (w.hearDuplicate k).now = w.now ∧ (w.hearDuplicate k).io = w.io ∧ (w.hearDuplicate k).cpi = w.cpi ∧
    (w.hearDuplicate k).bu = w.bu ∧ (w.hearDuplicate k).ptu = w.ptu ∧ (w.hearDuplicate k).ci = w.ci ∧
    (w.hearDuplicate k).pending = w.pending ∧ (w.hearDuplicate k).before = w.before ∧
    (w.hearDuplicate k).conflictLost = w.conflictLost ∧ (w.hearDuplicate k).sendAtOnce = w.sendAtOnce := by
  unfold Work.hearDuplicate
  try dsimp only
  (repeat' split) <;> simp

/-- The end of a step leaves the clock, the pins, the Cabinet Port Interface and the queue of commands as they were. -/
@[simp] theorem Work.settle_keeps (w : Work) :
    w.settle.now = w.now ∧ w.settle.io = w.io ∧ w.settle.cpi = w.cpi ∧ w.settle.pending = w.pending ∧
    w.settle.before = w.before := by
  simp [Work.settle]

end Sys2Proof.Machine
end

