-- ==== Sys2Proof/Laws/Queue.lean ====
section
/-! SUPPORT. The transmit queue: what the queue operations leave of the Link Controller, how many frames they leave, and
which frames. -/

namespace Sys2Proof.Machine

/-! ## Order -/

theorem insertFrame_perm (f : QFrame) (l : List QFrame) : (insertFrame f l).Perm (f :: l) := by
  induction l with
  | nil => exact List.Perm.refl _
  | cons x l ih =>
    unfold insertFrame
    split
    · exact List.Perm.refl _
    · exact (ih.cons x).trans (List.Perm.swap f x l)

@[simp] theorem mem_insertFrame (f x : QFrame) (l : List QFrame) : x ∈ insertFrame f l ↔ x = f ∨ x ∈ l := by
  rw [(insertFrame_perm f l).mem_iff, List.mem_cons]

@[simp] theorem insertFrame_length (f : QFrame) (l : List QFrame) : (insertFrame f l).length = l.length + 1 := by
  rw [(insertFrame_perm f l).length_eq, List.length_cons]

theorem foldl_insertFrame_perm (fs l : List QFrame) :
    (fs.foldl (fun q f => insertFrame f q) l).Perm (l ++ fs) := by
  induction fs generalizing l with
  | nil => simp
  | cons f fs ih =>
    refine (ih _).trans (((insertFrame_perm f l).append_right fs).trans ?_)
    rw [List.cons_append]
    exact List.perm_middle.symm

/-! ## What is left of the Link Controller -/

/-- The two states of the Link Controller differ in the queue, the waiting frames and the next age stamp at most. -/
def Link.sameBut (a b : Link) : Prop := b = { a with queue := b.queue, waiting := b.waiting, nextId := b.nextId }

theorem Link.sameBut_refl (l : Link) : l.sameBut l := rfl

theorem Link.sameBut_trans {a b c : Link} (h : a.sameBut b) (k : b.sameBut c) : a.sameBut c := by
  unfold Link.sameBut at *
  rw [k, h]

theorem Link.promote_sameBut (l : Link) : l.sameBut l.promote := rfl

theorem Link.place_sameBut (l : Link) (f : Frame) : l.sameBut (l.place f) := by
  unfold Link.place Link.sameBut
  dsimp only
  (repeat' split) <;> rfl

theorem Link.mergeOrPlace_sameBut (l : Link) (sel : QFrame → Option (List Nat)) (put : List Nat → Frame) (qs : List Nat) :
    l.sameBut (l.mergeOrPlace sel put qs) := by
  unfold Link.mergeOrPlace
  exact foldl_induct (fun m => l.sameBut m) _ (fun a b h => Link.sameBut_trans h (a.place_sameBut _)) _ _ rfl

theorem Link.coalesceOrPlace_sameBut (l : Link) (same : Frame → Bool) (f : Frame) :
    l.sameBut (l.coalesceOrPlace same f) := by
  unfold Link.coalesceOrPlace
  dsimp only
  split
  · rfl
  · exact l.place_sameBut f

/-- A frame offered to the queue changes the queue, the waiting frames and the next age stamp at most. -/
theorem Link.enqueue_sameBut (l : Link) (f : Frame) : l.sameBut (l.enqueue f) := by
  unfold Link.enqueue
  split <;> first
    | exact l.mergeOrPlace_sameBut _ _ _
    | exact l.coalesceOrPlace_sameBut _ _
    | exact l.place_sameBut _

theorem Work.enqueue_sameBut (w : Work) (f : Frame) : w.lc.sameBut (w.enqueue f).lc := by
  unfold Work.enqueue
  split
  · rfl
  · rfl
  · split
    · exact w.lc.enqueue_sameBut f
    · rfl

/-- In LISTENING a frame of the Holdings Controller is not queued (R55). -/
theorem Work.enqueue_listening (w : Work) (f : Frame) (h : w.mc.mode = .listening) (k : ofHoldings f = true) :
    w.enqueue f = w := by
  unfold Work.enqueue
  split
  · rfl
  · rfl
  · simp [State.mayQueue, h, k]

theorem Link.removeOffLine_sameBut (l : Link) (p : Frame → Bool) : l.sameBut (l.removeOffLine p) := rfl

theorem Link.dropId_sameBut (l : Link) (id : Nat) : l.sameBut (l.dropId id) := rfl

/-- A frame that comes back changes the queue and the waiting frames at most. -/
theorem Link.returned_sameBut (l : Link) (id : Nat) : l.sameBut (l.returned id) := by
  unfold Link.returned Link.supersede
  (repeat' split) <;> rfl

/-! ## Lengths (R102) -/

theorem mergeInto_length (sel : QFrame → Option (List Nat)) (put : List Nat → Frame) (qs : List Nat) (l : List QFrame) :
    (mergeInto sel put qs l).1.length = l.length := by
  induction l generalizing qs with
  | nil => rfl
  | cons x l ih =>
    unfold mergeInto
    split <;> simp [ih]

theorem Link.promote_length (l : Link) (h : l.queue.length ≤ 8) : l.promote.queue.length ≤ 8 := by
  have : l.promote.queue.length = (l.queue ++ l.waiting.take (8 - l.queue.length)).length :=
    (foldl_insertFrame_perm _ _).length_eq
  rw [this, List.length_append, List.length_take]
  omega

theorem Link.place_length (l : Link) (f : Frame) (h : l.queue.length ≤ 8) : (l.place f).queue.length ≤ 8 := by
  unfold Link.place
  dsimp only
  split
  · rename_i h
    simp only [insertFrame_length, Config.queuePlaces] at *
    omega
  · split
    · exact h
    · split
      · rename_i y hy
        simp only [insertFrame_length]
        have hm : y ∈ l.queue := by
          have := List.mem_of_find?_eq_some hy
          simpa using this
        have : (l.queue.filter fun z => z.id ≠ y.id).length < l.queue.length :=
          List.length_filter_lt_length_iff_exists.2 ⟨y, hm, by simp⟩
        omega
      · exact h

theorem Link.mergeOrPlace_length (l : Link) (sel : QFrame → Option (List Nat)) (put : List Nat → Frame) (qs : List Nat)
    (h : l.queue.length ≤ 8) : (l.mergeOrPlace sel put qs).queue.length ≤ 8 := by
  unfold Link.mergeOrPlace
  refine foldl_induct (fun m : Link => m.queue.length ≤ 8) _ (fun a b h => a.place_length _ h) _ _ ?_
  simpa [mergeInto_length] using h

/-- The queue holds at most 8 frames after a frame is offered to it. -/
theorem Link.enqueue_length (l : Link) (f : Frame) (h : l.queue.length ≤ 8) : (l.enqueue f).queue.length ≤ 8 := by
  unfold Link.enqueue
  split <;> first
    | exact l.mergeOrPlace_length _ _ _ h
    | exact l.place_length _ h
    | (unfold Link.coalesceOrPlace
       dsimp only
       split
       · simpa using h
       · exact l.place_length _ h)

/-- The queue holds at most 8 frames after a frame comes back. -/
theorem Link.returned_length (l : Link) (id : Nat) (h : l.queue.length ≤ 8) : (l.returned id).queue.length ≤ 8 := by
  unfold Link.returned Link.supersede Link.yieldPlace Link.contestOnce
  (repeat' split) <;> first
    | exact h
    | (refine Link.promote_length _ ?_
       first
         | (rw [List.length_map]; exact (List.length_filter_le _ _).trans h)
         | exact (List.length_filterMap_le _ _).trans h)

/-! ## Which frames stay -/

/-- The frames after the waiting frames have moved up are the frames there were. -/
theorem Link.promote_perm (l : Link) : (l.promote.queue ++ l.promote.waiting).Perm (l.queue ++ l.waiting) := by
  unfold Link.promote
  dsimp only
  refine ((foldl_insertFrame_perm _ _).append_right _).trans ?_
  rw [List.append_assoc, List.take_append_drop]

/-- Age stamps after a newer frame has taken the place of one that comes back: no new one, and none twice. -/
theorem Link.yieldPlace_ids (l : Link) (id : Nat) (y : QFrame) :
    (((l.yieldPlace id y).queue ++ (l.yieldPlace id y).waiting).map QFrame.id).Subperm
      ((l.queue ++ l.waiting).map QFrame.id) := by
  unfold Link.yieldPlace
  refine ((Link.promote_perm _).map _).subperm.trans (List.Sublist.subperm ?_)
  rw [List.map_append, List.map_append, List.map_map]
  have put : QFrame.id ∘ (fun x : QFrame => if x.id = id then { x with frame := y.frame, retry := 0 } else x) =
      QFrame.id := by
    funext x
    simp only [Function.comp]
    split <;> rfl
  rw [put]
  exact (List.filter_sublist.map _).append (List.filter_sublist.map _)

/-- Age stamps of frames some of which lose quanta or go. -/
theorem filterMap_ids (g : QFrame → Option QFrame) (h : ∀ x y, g x = some y → y.id = x.id) (l : List QFrame) :
    ((l.filterMap g).map QFrame.id).Sublist (l.map QFrame.id) := by
  induction l with
  | nil => exact List.Sublist.refl _
  | cons x l ih =>
    cases hx : g x with
    | none => rw [List.filterMap_cons_none hx]; exact ih.cons _
    | some y =>
      rw [List.filterMap_cons_some hx, List.map_cons, List.map_cons, h x y hx]
      exact ih.cons_cons _

theorem QFrame.withoutQuanta_id (qs : List Nat) (x y : QFrame) (h : x.withoutQuanta qs = some y) : y.id = x.id := by
  unfold QFrame.withoutQuanta at h
  split at h
  · split at h
    · cases h
    · cases h; rfl
  · cases h; rfl

/-- The age stamps after a frame comes back are among those there were, each once where each was there once. -/
theorem Link.returned_ids (l : Link) (id : Nat) :
    (((l.returned id).queue ++ (l.returned id).waiting).map QFrame.id).Subperm
      ((l.queue ++ l.waiting).map QFrame.id) := by
  have sup : ∀ k, (((l.supersede id k).queue ++ (l.supersede id k).waiting).map QFrame.id).Subperm
      ((l.queue ++ l.waiting).map QFrame.id) := by
    intro k
    unfold Link.supersede
    split
    · exact l.yieldPlace_ids id _
    · exact List.Subperm.refl _
  unfold Link.returned
  split
  · exact sup _
  · exact sup _
  · rename_i qs _
    unfold Link.contestOnce
    refine ((Link.promote_perm _).map _).subperm.trans (List.Sublist.subperm ?_)
    have clean : ∀ x y : QFrame, (if x.id = id then some x else x.withoutQuanta qs) = some y → y.id = x.id := by
      intro x y h
      split at h
      · cases h; rfl
      · exact x.withoutQuanta_id qs y h
    rw [List.map_append, List.map_append]
    exact (filterMap_ids _ clean _).append (filterMap_ids _ clean _)
  · exact List.Subperm.refl _

/-- Exactly the frames that satisfy `p` and are not on the line are removed. -/
theorem Link.mem_removeOffLine (l : Link) (p : Frame → Bool) (x : QFrame) :
    x ∈ (l.removeOffLine p).queue ++ (l.removeOffLine p).waiting ↔
      x ∈ l.queue ++ l.waiting ∧ (l.onLine x = true ∨ p x.frame = false) := by
  unfold Link.removeOffLine
  dsimp only
  rw [(Link.promote_perm _).mem_iff, ← List.filter_append, List.mem_filter]
  simp

/-- The frames `removeOffLine` removes are those `offLineFrames` lists. -/
theorem Link.mem_offLineFrames (l : Link) (p : Frame → Bool) (x : QFrame) :
    x ∈ l.offLineFrames p ↔ x ∈ l.queue ++ l.waiting ∧ l.onLine x = false ∧ p x.frame = true := by
  unfold Link.offLineFrames
  rw [List.mem_filter]
  simp

/-- Every frame but the one with the age stamp stays. -/
theorem Link.mem_dropId (l : Link) (id : Nat) (x : QFrame) :
    x ∈ (l.dropId id).queue ++ (l.dropId id).waiting ↔ (x ∈ l.queue ∧ x.id ≠ id) ∨ x ∈ l.waiting := by
  unfold Link.dropId
  rw [(Link.promote_perm _).mem_iff]
  simp

/-- With room in the queue the frame offered stands in it with the next age stamp. -/
theorem Link.place_mem (l : Link) (f : Frame) (h : l.queue.length < 8) :
    { id := l.nextId, frame := f, retry := 0 } ∈ (l.place f).queue := by
  unfold Link.place
  simp [Config.queuePlaces, h]

/-- A frame of class 0 to 3 finds a place in the queue or among the waiting frames. -/
theorem Link.place_mem_any (l : Link) (f : Frame) (h : classOf f ≠ 4) :
    { id := l.nextId, frame := f, retry := 0 } ∈ (l.place f).queue ++ (l.place f).waiting := by
  unfold Link.place
  dsimp only
  (repeat' split) <;> simp_all

/-! ## How many CLAIMs (R104) -/

/-- A frame is a CLAIM. -/
def QFrame.isClaim (x : QFrame) : Bool := kindOf x.frame == .claim

/-- CLAIMs queued or waiting. -/
def Link.claims (l : Link) : Nat := (l.queue ++ l.waiting).countP QFrame.isClaim

theorem Link.promote_claims (l : Link) : l.promote.claims = l.claims := l.promote_perm.countP_eq _

/-- Frames some of which go, or change with no CLAIM made of another frame, have no more CLAIMs. -/
theorem filterMap_claims (g : QFrame → Option QFrame) (h : ∀ x y, g x = some y → y.isClaim = true → x.isClaim = true)
    (l : List QFrame) : (l.filterMap g).countP QFrame.isClaim ≤ l.countP QFrame.isClaim := by
  induction l with
  | nil => exact Nat.le_refl _
  | cons x l ih =>
    cases hx : g x with
    | none =>
      rw [List.filterMap_cons_none hx]
      exact ih.trans ((List.sublist_cons_self x l).countP_le)
    | some y =>
      rw [List.filterMap_cons_some hx, List.countP_cons, List.countP_cons]
      have := h x y hx
      (split <;> split) <;> simp_all; omega

theorem map_claims (g : QFrame → QFrame) (h : ∀ x, (g x).isClaim = true → x.isClaim = true) (l : List QFrame) :
    (l.map g).countP QFrame.isClaim ≤ l.countP QFrame.isClaim := by
  rw [List.countP_map]
  exact List.countP_mono_left fun x _ hx => h x hx

theorem Link.claims_mono {a b : Link} (h : b.queue.countP QFrame.isClaim ≤ a.queue.countP QFrame.isClaim)
    (k : b.waiting.countP QFrame.isClaim ≤ a.waiting.countP QFrame.isClaim) : b.claims ≤ a.claims := by
  unfold Link.claims
  rw [List.countP_append, List.countP_append]
  exact Nat.add_le_add h k

/-- The removal of a frame leaves no more CLAIMs. -/
theorem Link.dropId_claims (l : Link) (id : Nat) : (l.dropId id).claims ≤ l.claims :=
  (Link.promote_claims _).trans_le (Link.claims_mono (List.filter_sublist.countP_le) (Nat.le_refl _))

theorem Link.removeOffLine_claims (l : Link) (p : Frame → Bool) : (l.removeOffLine p).claims ≤ l.claims :=
  (Link.promote_claims _).trans_le (Link.claims_mono (List.filter_sublist.countP_le) (List.filter_sublist.countP_le))

/-- A frame that takes a place adds itself at most. -/
theorem Link.place_claims (l : Link) (f : Frame) :
    (l.place f).claims ≤ l.claims + if kindOf f = .claim then 1 else 0 := by
  have ins : ∀ (x : QFrame) (q : List QFrame), (insertFrame x q).countP QFrame.isClaim =
      q.countP QFrame.isClaim + if kindOf x.frame = .claim then 1 else 0 := by
    intro x q
    rw [(insertFrame_perm x q).countP_eq, List.countP_cons]
    simp [QFrame.isClaim]
  have fil : ∀ (p : QFrame → Bool) (q : List QFrame), (q.filter p).countP QFrame.isClaim ≤ q.countP QFrame.isClaim :=
    fun p q => List.filter_sublist.countP_le
  unfold Link.place Link.claims
  dsimp only
  split
  · simp only [List.countP_append, ins]
    omega
  · split
    · simp only [List.countP_append]
      omega
    · split
      · rename_i y _
        have := fil (fun z => decide (z.id ≠ y.id)) l.queue
        simp only [List.countP_append, ins]
        omega
      · simp only [List.countP_append, ins]
        omega

theorem mergeInto_claims (sel : QFrame → Option (List Nat)) (put : List Nat → Frame) (h : ∀ qs, kindOf (put qs) ≠ .claim)
    (qs : List Nat) (l : List QFrame) :
    (mergeInto sel put qs l).1.countP QFrame.isClaim ≤ l.countP QFrame.isClaim := by
  induction l generalizing qs with
  | nil => exact Nat.le_refl _
  | cons x l ih =>
    unfold mergeInto
    split
    · simp only [List.countP_cons]
      exact Nat.add_le_add_right (ih _) _
    · simp only [List.countP_cons]
      refine Nat.add_le_add (ih _) ?_
      simp [QFrame.isClaim, h]

theorem Link.mergeOrPlace_claims (l : Link) (sel : QFrame → Option (List Nat)) (put : List Nat → Frame)
    (h : ∀ qs, kindOf (put qs) ≠ .claim) (qs : List Nat) : (l.mergeOrPlace sel put qs).claims ≤ l.claims := by
  unfold Link.mergeOrPlace
  refine foldl_induct (fun m : Link => m.claims ≤ l.claims) _ (fun a b k => ?_) _ _ ?_
  · have := a.place_claims (put b)
    rw [if_neg (h b)] at this
    exact this.trans k
  · exact Link.claims_mono (mergeInto_claims _ put h _ _) (mergeInto_claims _ put h _ _)

/-- A frame offered to the queue adds one CLAIM where it is one, and none otherwise. -/
theorem Link.enqueue_claims (l : Link) (f : Frame) :
    (l.enqueue f).claims ≤ l.claims + if kindOf f = .claim then 1 else 0 := by
  have swap : ∀ same : Frame → Bool, kindOf f ≠ .claim → (l.coalesceOrPlace same f).claims ≤ l.claims := by
    intro same h
    unfold Link.coalesceOrPlace
    dsimp only
    split
    · refine Link.claims_mono (map_claims _ ?_ _) (map_claims _ ?_ _) <;>
        (intro x hx; split at hx <;> simp_all [QFrame.isClaim])
    · have := l.place_claims f
      rwa [if_neg h] at this
  unfold Link.enqueue
  split <;> first
    | exact l.place_claims _
    | exact (l.mergeOrPlace_claims _ _ (fun _ => by simp [kindOf]) _).trans (Nat.le_add_right _ _)
    | exact (swap _ (by simp [kindOf])).trans (Nat.le_add_right _ _)

/-- A frame that comes back leaves no more CLAIMs. -/
theorem Link.returned_claims (l : Link) (id : Nat) : (l.returned id).claims ≤ l.claims := by
  have sup : ∀ k : FrameKind, k ≠ .claim → (l.supersede id k).claims ≤ l.claims := by
    intro k hk
    unfold Link.supersede
    split
    · rename_i y hy
      have hy := List.find?_some hy
      have hc : y.isClaim = false := by simp_all [QFrame.isClaim]
      unfold Link.yieldPlace
      refine (Link.promote_claims _).trans_le (Link.claims_mono ?_ (List.filter_sublist.countP_le))
      refine (map_claims _ ?_ _).trans (List.filter_sublist.countP_le)
      intro x hx
      split at hx
      · simp_all [QFrame.isClaim]
      · exact hx
    · exact Nat.le_refl _
  have clean : ∀ (qs : List Nat) (x y : QFrame), (if x.id = id then some x else x.withoutQuanta qs) = some y →
      y.isClaim = true → x.isClaim = true := by
    intro qs x y h hy
    split at h
    · cases h
      exact hy
    · unfold QFrame.withoutQuanta at h
      split at h
      · split at h <;> cases h
        simp [QFrame.isClaim, kindOf] at hy
      · cases h
        exact hy
  unfold Link.returned
  split
  · exact sup _ (by simp)
  · exact sup _ (by simp)
  · unfold Link.contestOnce
    exact (Link.promote_claims _).trans_le (Link.claims_mono (filterMap_claims _ (clean _) _) (filterMap_claims _ (clean _) _))
  · exact Nat.le_refl _

end Sys2Proof.Machine
end

