-- ==== Sys2Proof/Laws/Settle.lean ====
section
/-! SUPPORT. The end of a step: what it can add to the state in a calm state, and the setpoint it forms. -/

namespace Sys2Proof.Machine

/-! ## The setpoint -/

theorem modeLimit_eq (s : State) : s.limitOfTable52 = s.modeLimit := by
  unfold State.limitOfTable52 State.modeLimit
  cases hm : s.mc.mode <;> cases hs : s.mc.solo <;> simp

/-- P_set and the send value are formed exactly when they are what the part forms them as. -/
theorem setpointFormed_iff (s : State) :
    s.setpointFormed ↔ s.ci.pSet = s.formSetpoint ∧ s.ci.sendValue = sendValueOf s.conf.pMin s.formSetpoint := by
  have key : (if s.ci.conv = .fault ∨ s.ci.conv = .lost then 0
      else [s.accTerm, s.conf.pMax, s.mineCount * s.conf.qs10, s.limitOfTable52].foldl min s.capTerm) =
      s.formSetpoint := by
    unfold State.formSetpoint State.converterDown
    cases s.ci.conv <;> simp [List.foldl, modeLimit_eq, min_assoc]
  unfold State.setpointFormed
  rw [key]
  refine and_congr_right fun h => ?_
  rw [h]
  unfold sendValueOf
  have : (if 0 < s.formSetpoint ∧ s.formSetpoint < s.conf.pMin then 0 else s.formSetpoint) =
      if s.formSetpoint < s.conf.pMin then 0 else s.formSetpoint := by
    split <;> split <;> omega
  rw [this]

/-- The terms of the setpoint do not read the Converter Interface but for its state. -/
theorem formSetpoint_congr (s t : State) (h1 : t.cpi = s.cpi) (h2 : t.mc = s.mc) (h3 : t.map = s.map) (h4 : t.ss = s.ss)
    (h5 : t.ci.conv = s.ci.conv) : t.formSetpoint = s.formSetpoint := by
  unfold State.formSetpoint State.converterDown State.capTerm State.accTerm State.modeLimit State.mineCount
    State.homeMineCount State.ownHome State.own State.conf
  rw [h1, h2, h3, h4, h5]

/-- Where no quantum enters the drain list, the messages keep their marks. -/
@[simp] theorem State.forgoMarks_nil (s : State) : s.forgoMarks [] = s := by
  have h : (fun m : SetMsg => { m with marks := m.marks.filter fun q => !([] : List Nat).contains q }) = id := by
    funext m
    simp
  unfold State.forgoMarks
  rw [h, List.map_id]

/-- After `formAndSend` the setpoint is formed. -/
theorem Work.formAndSend_formed (w : Work) : w.formAndSend.toState.setpointFormed := by
  rw [setpointFormed_iff]
  have h := w.formAndSend_keeps
  have hc : w.formAndSend.toState.formSetpoint = w.toState.formSetpoint :=
    formSetpoint_congr _ _ (by simp) (by simp) (by simp) (by simp)
      (by unfold Work.formAndSend; dsimp only; split <;> rfl)
  have hp : w.formAndSend.toState.conf = w.toState.conf := by simp [State.conf]
  rw [hc, hp]
  constructor <;> (unfold Work.formAndSend; dsimp only; split <;> rfl)

/-- `formAndSend` changes P_set, the send value and the messages being sent, and asserts INHIBIT where a cause holds. -/
theorem Work.formAndSend_ci (w : Work) :
    w.formAndSend.ci = { w.ci with
      pSet := w.formAndSend.ci.pSet, sendValue := w.formAndSend.ci.sendValue, outbox := w.formAndSend.ci.outbox
      inhibit := w.ci.inhibit || w.toState.inhibitCause } := by
  unfold Work.formAndSend
  dsimp only
  split <;> rfl

/-! ## The Holdings Controller at the end of a step -/

/-- The invariant on CLAIM frames, told by their number. -/
theorem claimAlone_iff (s : State) : s.claimAlone ↔ s.lc.claims ≤ if s.settling = [] then 1 else 0 := Iff.rfl

/-- Two states of the Holdings Controller differ in the claim, the request, the sweep, the rotate pointer and the promises
at most. -/
def Holdings.sameBut (a b : Holdings) : Prop :=
  b = { a with
    claim := b.claim, request := b.request, sweep := b.sweep, sweepRun := b.sweepRun, rotate := b.rotate
    promises := b.promises }

theorem Holdings.sameBut_trans {a b c : Holdings} (h : a.sameBut b) (k : b.sameBut c) : a.sameBut c := by
  unfold Holdings.sameBut at *
  rw [k, h]

/-- What claiming and sweeping can change: the queue, and the claim, request and sweep of the Holdings Controller. -/
def Work.onlyClaims (a b : Work) : Prop := a.lc.sameBut b.lc ∧ a.hc.sameBut b.hc

theorem Work.onlyClaims_trans {a b c : Work} (h : a.onlyClaims b) (k : b.onlyClaims c) : a.onlyClaims c :=
  ⟨Link.sameBut_trans h.1 k.1, Holdings.sameBut_trans h.2 k.2⟩

theorem Work.sendRequest_onlyClaims (w : Work) (t : Nat) (d : Disposition) (c : Nat) (l : List Nat) :
    w.onlyClaims (w.sendRequest t d c l) := by
  unfold Work.sendRequest
  refine ⟨Work.enqueue_sameBut _ _, ?_⟩
  unfold Holdings.sameBut
  simp

theorem Work.considerClaiming_onlyClaims (w : Work) : w.onlyClaims w.considerClaiming := by
  unfold Work.considerClaiming
  dsimp only
  split
  · refine ⟨Work.enqueue_sameBut _ _, ?_⟩
    unfold Holdings.sameBut
    simp
  · exact ⟨rfl, rfl⟩

theorem Work.sweepMove_onlyClaims (w : Work) : w.onlyClaims w.sweepMove := by
  unfold Work.sweepMove
  dsimp only
  (repeat' split) <;> first
    | exact ⟨rfl, rfl⟩
    | (refine Work.onlyClaims_trans ?_ (Work.sendRequest_onlyClaims _ _ _ _ _)
       exact ⟨rfl, rfl⟩)

theorem Work.sweepRun_onlyClaims (w : Work) : w.onlyClaims w.sweepRun :=
  foldl_induct (fun v => w.onlyClaims v) _ (fun _ _ h => Work.onlyClaims_trans h (Work.sweepMove_onlyClaims _)) _ _
    ⟨rfl, rfl⟩

theorem Work.considerSweep_onlyClaims (w : Work) : w.onlyClaims w.considerSweep := by
  unfold Work.considerSweep
  dsimp only
  split <;> exact ⟨rfl, rfl⟩

theorem Work.sweepProgress_onlyClaims (w : Work) : w.onlyClaims w.sweepProgress := by
  unfold Work.sweepProgress
  split
  · exact Work.onlyClaims_trans (Work.considerSweep_onlyClaims _) (Work.sweepRun_onlyClaims _)
  · split <;> exact ⟨rfl, rfl⟩

/-- In the step of a fall of B_eff the sweep neither starts nor moves; it ends where the need is met (R8, R93). -/
theorem Work.sweepProgress_fell (w : Work) (h : w.bu.bEff < w.before.bu.bEff) :
    w.sweepProgress = if w.toState.need = 0 then w.endSweep else w := by
  simp [Work.sweepProgress, Work.budgetFell, h]

/-- In every other step it may start and moves on. -/
theorem Work.sweepProgress_stands (w : Work) (h : w.before.bu.bEff ≤ w.bu.bEff) :
    w.sweepProgress = w.considerSweep.sweepRun := by
  simp [Work.sweepProgress, Work.budgetFell, Nat.not_lt.mpr h]

/-- What the Holdings Controller can do at the end of a step. -/
theorem Work.holdingsProgress_onlyClaims (w : Work) : w.onlyClaims w.holdingsProgress := by
  unfold Work.holdingsProgress
  dsimp only
  refine Work.onlyClaims_trans ?_ (Work.onlyClaims_trans (Work.considerClaiming_onlyClaims _)
    (Work.sweepProgress_onlyClaims _))
  split <;> exact ⟨rfl, rfl⟩

/-! ## The end of a step in a calm state -/

theorem Work.lostCompletes_calm (w : Work) (h : w.toState.calm) : w.lostCompletes = w := by
  unfold Work.lostCompletes
  rw [if_neg h.2.2.2]

theorem Work.testSessionEnd_calm (w : Work) (h : w.toState.sessionEnding = false) : w.testSessionEnd = w := by
  unfold Work.testSessionEnd
  split
  · rfl
  · simp [h]

theorem Work.testDrainDone_calm (w : Work) (h : w.toState.calm) : w.testDrainDone = w := by
  unfold Work.testDrainDone
  rw [if_pos]
  simp [State.draining, h.1, h.2.1]

/-- In a calm state with no lost conflict to hand on, the end of a step is the Holdings Controller's claiming, the forming
of the setpoint, and the posting of the step's notices. -/
theorem Work.settle_calm (w : Work) (h : w.toState.calm) (hc : w.conflictLost = []) :
    w.settle = w.holdingsProgress.formAndSend.flushNotices := by
  have e : w.handConflict = w := by simp [Work.handConflict, hc]
  unfold Work.settle
  rw [w.lostCompletes_calm h, e, w.testSessionEnd_calm h.2.2.1, w.testDrainDone_calm h, w.testSessionEnd_calm h.2.2.1]

/-- With no notice and no firing gathered, the notices stay as they are. -/
theorem Work.flushNotices_quiet (w : Work) (h1 : w.sysNotices = []) (h2 : w.firings = []) : w.flushNotices.bk = w.bk := by
  have n : ∀ {α β : Type} (l : List α), (l.flatMap fun _ => ([] : List β)) = [] := fun l => by
    induction l <;> simp_all
  simp [Work.flushNotices, h1, h2, n]

/-- A calm step that has gathered nothing to post ends with the frame `endOf`. -/
theorem Work.finish_endOf (w : Work) (h : w.toState.calm) (hc : w.conflictLost = []) (h1 : w.sysNotices = [])
    (h2 : w.firings = []) : State.endOf w.toState w.finish := by
  have hp := w.holdingsProgress_onlyClaims
  have hb : w.holdingsProgress.formAndSend.flushNotices.bk = w.bk := by
    rw [Work.flushNotices_quiet _ (by simp [h1]) (by simp [h2])]
    simp
  have hl : w.holdingsProgress.formAndSend.flushNotices.lc = w.holdingsProgress.lc := by simp
  have hh : w.holdingsProgress.formAndSend.flushNotices.hc = w.holdingsProgress.hc := by simp
  have hi : w.holdingsProgress.formAndSend.flushNotices.ci = w.holdingsProgress.formAndSend.ci := by simp
  have hf : w.holdingsProgress.formAndSend.flushNotices.toState.setpointFormed := by
    have := w.holdingsProgress.formAndSend_formed
    rw [setpointFormed_iff] at this ⊢
    rw [formSetpoint_congr w.holdingsProgress.formAndSend.toState w.holdingsProgress.formAndSend.flushNotices.toState
      (by simp) (by simp) (by simp) (by simp) (by simp)]
    simpa [State.conf] using this
  unfold Work.finish
  rw [w.settle_calm h hc]
  refine ⟨?_, ?_, ?_, ?_, hf⟩
  · have e : ∀ t : State, t.now = w.now → t.io = w.io → t.cpi = w.cpi → t.mc = w.mc → t.bu = w.bu → t.map = w.map →
        t.ptu = w.ptu → t.ae = w.ae → t.ss = w.ss → t.bk = w.bk → t.pending = w.pending →
        t = { w.toState with lc := t.lc, hc := t.hc, ci := t.ci } := by
      rintro ⟨⟩ rfl rfl rfl rfl rfl rfl rfl rfl rfl rfl rfl
      rfl
    apply e <;> simp [hb]
  · rw [hl]
    exact hp.1
  · rw [hh]
    exact hp.2
  · rw [hi]
    have hs : w.holdingsProgress.toState.inhibitCause = w.toState.inhibitCause := by
      have := congrArg Holdings.stuck hp.2
      simp_all [State.inhibitCause]
    have := w.holdingsProgress.formAndSend_ci
    rw [hs] at this
    simpa using this

end Sys2Proof.Machine
end

