-- ==== Sys2Proof/Laws/Command.lean ====
section
/-! SUPPORT. The taking of a command at the Cabinet Port, and what no step changes. -/

namespace Sys2Proof.Machine

/-! ## Commands (R175, R176) -/

/-- Every meaning that goes on answers a next state. -/
@[simp] theorem goOn_eq (s : State) : goOn s = .next s := rfl

/-- The first failing check refuses the command, which then has no effect beyond its response. -/
theorem command_refused (s : State) (code : Nat) (checks : List (Bool × RefCode)) (act : State → State × Response)
    (c : RefCode) (h : firstRefusal checks = some c) : s.command code checks act = s.respond (.refused code c) := by
  unfold State.command
  rw [h]

/-- With no failing check the command acts and is answered. -/
theorem command_taken (s : State) (code : Nat) (checks : List (Bool × RefCode)) (act : State → State × Response)
    (h : firstRefusal checks = none) : s.command code checks act = (act s).1.respond (act s).2 := by
  unfold State.command
  rw [h]

@[simp] theorem firstRefusal_nil : firstRefusal [] = none := rfl

@[simp] theorem firstRefusal_cons (b : Bool) (c : RefCode) (l : List (Bool × RefCode)) :
    firstRefusal ((b, c) :: l) = if b then some c else firstRefusal l := rfl

@[simp] theorem payloadBytes_whole (bs : List Byte) : payloadBytes (.whole bs) = bs := rfl

@[simp] theorem payloadAllowed_whole (ok : Nat → Bool) (bs : List Byte) : payloadAllowed ok (.whole bs) = ok bs.length := rfl

/-- A payload that is cut short has no allowed length. -/
@[simp] theorem payloadAllowed_cut (ok : Nat → Bool) (n : Byte) (bs : List Byte) : payloadAllowed ok (.cut n bs) = false := rfl

/-- The length is allowed exactly of a whole payload whose length satisfies `ok` (R176, R186). -/
theorem payloadAllowed_iff (ok : Nat → Bool) (p : Payload) :
    payloadAllowed ok p = true ↔ ∃ bs, p = .whole bs ∧ ok bs.length = true := by
  cases p <;> simp

/-- The response of a refused command. -/
theorem respond_refused_answered (s : State) (code : Nat) (c : RefCode) :
    (s.respond (.refused code c)).answered s .refused (some c) [] := ⟨rfl, rfl⟩

/-- The response of an accepted command whose action left the clock and the Cabinet Port Interface as they were. -/
theorem respond_answered (s u : State) (r : Response) (h1 : u.now = s.now) (h2 : u.cpi = s.cpi) :
    (u.respond r).answered s r.cls r.refusal r.payload := by
  refine ⟨?_, ?_⟩
  · simp [h2]
  · simp [h1, Config.readyMs]

@[simp] theorem respond_detail (s : State) (r : Response) : (s.respond r).detail = some r.detail := rfl

/-! ## What no step changes -/

/-- The end of a step leaves the clock, the inputs, the Cabinet Port Interface and the waiting commands as they were. -/
@[simp] theorem finish_outer (w : Work) :
    w.finish.now = w.now ∧ w.finish.io = w.io ∧ w.finish.cpi = w.cpi ∧ w.finish.pending = w.pending := by
  simp [Work.finish]

@[simp] theorem begin_toState (s : State) : s.begin.toState = s := rfl

/-- The state ends its step with the setpoint formed. -/
theorem finish_formed (w : Work) : w.finish.setpointFormed := by
  unfold Work.finish Work.settle
  generalize w.lostCompletes.handConflict.testSessionEnd.testDrainDone.testSessionEnd.holdingsProgress = v
  have h := v.formAndSend_formed
  rw [setpointFormed_iff] at h ⊢
  rw [formSetpoint_congr v.formAndSend.toState v.formAndSend.flushNotices.toState (by simp) (by simp) (by simp) (by simp)
    (by simp)]
  simpa [State.conf] using h

/-! ## The clock -/

/-- A time in which every level told has come in: the rest of it is recessive. -/
@[simp] theorem readLine_nil (bit past e quiet : Nat) : readLine bit [] past e quiet = ⟨quiet + e, [], 0⟩ := rfl

/-- One whole bit time: a recessive level adds it, a dominant one returns the quiet time to 0 (R145). -/
theorem readLine_bit (bit : Nat) (hb : 0 < bit) (l : Level) (ls : List Level) (quiet : Nat) :
    readLine bit (l :: ls) 0 bit quiet =
      ⟨if l = .dominant then 0 else quiet + bit, ls, 0⟩ := by
  have h : bit ≠ 0 := by omega
  cases ls <;> simp [readLine, h]

@[simp] theorem pass_zero (s : State) : s.pass 0 = s := rfl

/-- What the passing of time changes: the clock, the step time, the quiet time and the levels of the line, and the phase
of an attempt. -/
theorem pass_eq (s : State) (e : Nat) :
    s.pass e = { s with
      now := s.now + (s.lc.clockUs.val + e) / 1000, ss := { s.ss with session := (s.pass e).ss.session }
      lc := { s.lc with
        quietUs := (s.pass e).lc.quietUs, clockUs := (s.pass e).lc.clockUs, line := (s.pass e).lc.line
        lineUs := (s.pass e).lc.lineUs, heldUs := (s.pass e).lc.heldUs, attempt := (s.pass e).lc.attempt } } := by
  by_cases h : e = 0
  · subst h
    have : s.lc.clockUs.val / 1000 = 0 := by omega
    simp [this]
  · simp [State.pass, h]

/-- The µs that pass are those the clock tells. -/
theorem pass_clock (s : State) (e : Nat) :
    (s.pass e).now * 1000 + (s.pass e).lc.clockUs.val = s.now * 1000 + s.lc.clockUs.val + e := by
  by_cases h : e = 0
  · simp [h]
  · simp only [State.pass, h, if_false, Fin.val_ofNat]
    omega

@[simp] theorem pass_keeps (s : State) (e : Nat) :
    (s.pass e).io = s.io ∧ (s.pass e).cpi = s.cpi ∧ (s.pass e).mc = s.mc ∧ (s.pass e).bu = s.bu ∧
    (s.pass e).map = s.map ∧ (s.pass e).ptu = s.ptu ∧ (s.pass e).ae = s.ae ∧ (s.pass e).hc = s.hc ∧
    (s.pass e).ci = s.ci ∧ (s.pass e).bk = s.bk ∧ (s.pass e).pending = s.pending ∧
    (s.pass e).lc.queue = s.lc.queue ∧ (s.pass e).lc.tx = s.lc.tx := by
  rw [pass_eq]
  simp

/-- The session after time has passed has the same phase and fields but for its step time. -/
theorem pass_session (s : State) (e : Nat) :
    (s.pass e).ss.session = s.ss.session.map fun x =>
      { x with stepTime := ((s.pass e).ss.session.map Session.stepTime).getD 0 } := by
  unfold State.pass
  split
  · cases s.ss.session <;> rfl
  · cases h : s.ss.session
    · rfl
    · simp only [Option.map_some, Option.getD_some]
      unfold Session.age
      split <;> rfl

/-- With nothing on the line and no level told, the quiet time grows by the time that passes (R145). -/
theorem pass_quiet (s : State) (e : Nat) (hs : s.started = true) (hb : s.mc.breakOn = false) (ha : s.lc.attempt = none)
    (hh : s.lc.heldUs = 0) (hl : s.lc.line = []) : (s.pass e).lc.quietUs = s.lc.quietUs + e := by
  by_cases h : e = 0
  · simp [h]
  · simp [State.pass, h, hs, hb, State.reading, Link.drivenUs, ha, hh, hl]

/-- A step of the clock by whole ms comes to the beginning of a ms. -/
@[simp] theorem advance_now (s : State) (d : Nat) : (s.advance d).now = s.now + d := by
  have h := pass_clock s (d * 1000 - s.lc.clockUs.val)
  have := s.lc.clockUs.isLt
  have := (s.pass (d * 1000 - s.lc.clockUs.val)).lc.clockUs.isLt
  unfold State.advance
  by_cases hd : d = 0
  · subst hd
    simp
  · omega

/-- What `advance` changes. -/
theorem advance_eq (s : State) (d : Nat) :
    s.advance d = { s with
      now := s.now + d, ss := { s.ss with session := (s.advance d).ss.session }
      lc := { s.lc with
        quietUs := (s.advance d).lc.quietUs, clockUs := (s.advance d).lc.clockUs, line := (s.advance d).lc.line
        lineUs := (s.advance d).lc.lineUs, heldUs := (s.advance d).lc.heldUs, attempt := (s.advance d).lc.attempt } } := by
  have h : (s.lc.clockUs.val + (d * 1000 - s.lc.clockUs.val)) / 1000 = d := by
    have := s.lc.clockUs.isLt
    omega
  have k := pass_eq s (d * 1000 - s.lc.clockUs.val)
  rwa [h] at k

@[simp] theorem advance_keeps (s : State) (d : Nat) :
    (s.advance d).io = s.io ∧ (s.advance d).cpi = s.cpi ∧ (s.advance d).mc = s.mc ∧ (s.advance d).bu = s.bu ∧
    (s.advance d).map = s.map ∧ (s.advance d).ptu = s.ptu ∧ (s.advance d).ae = s.ae ∧ (s.advance d).hc = s.hc ∧
    (s.advance d).ci = s.ci ∧ (s.advance d).bk = s.bk ∧ (s.advance d).pending = s.pending := by
  unfold State.advance
  simp

@[simp] theorem atTime_keeps (s : State) (t : Nat) :
    (s.atTime t).io = s.io ∧ (s.atTime t).cpi = s.cpi ∧ (s.atTime t).mc = s.mc ∧ (s.atTime t).bu = s.bu ∧
    (s.atTime t).map = s.map ∧ (s.atTime t).ptu = s.ptu ∧ (s.atTime t).ae = s.ae ∧ (s.atTime t).hc = s.hc ∧
    (s.atTime t).ci = s.ci ∧ (s.atTime t).bk = s.bk ∧ (s.atTime t).pending = s.pending ∧
    (s.atTime t).now = max s.now t := by
  unfold State.atTime
  simp
  omega

/-- The least of some numbers and a bound. -/
theorem foldl_min_spec (l : List Nat) (b : Nat) :
    l.foldl min b ≤ b ∧ (∀ m ∈ l, l.foldl min b ≤ m) ∧ (l.foldl min b = b ∨ l.foldl min b ∈ l) := by
  induction l generalizing b with
  | nil => simp
  | cons x xs ih =>
    obtain ⟨h1, h2, h3⟩ := ih (min b x)
    simp only [List.foldl_cons, List.mem_cons]
    refine ⟨by omega, ?_, ?_⟩
    · rintro m (rfl | hm)
      · omega
      · exact h2 m hm
    · rcases h3 with h3 | h3
      · rcases Nat.le_total b x with h | h <;> omega
      · exact .inr (.inr h3)

/-- How far an idle step goes: to the next ms of the clock, or to the earliest moment on the line before it. -/
theorem tick_spec (s : State) :
    0 < s.tick ∧ s.lc.clockUs.val + s.tick ≤ 1000 ∧ (∀ m ∈ s.lineMoments, 0 < m → s.tick ≤ m) ∧
    (s.lc.clockUs.val + s.tick = 1000 ∨ s.tick ∈ s.lineMoments) := by
  obtain ⟨h1, h2, h3⟩ := foldl_min_spec (s.lineMoments.filter fun m => decide (0 < m)) (1000 - s.lc.clockUs.val)
  have hc := s.lc.clockUs.isLt
  unfold State.tick
  refine ⟨?_, by omega, fun m hm h => h2 m (by simp [hm, h]), ?_⟩
  · rcases h3 with h | h
    · omega
    · simp at h
      omega
  · rcases h3 with h | h
    · omega
    · exact .inr (List.mem_filter.mp h).1

/-- The session after `advance` has the same phase and fields but for its step time. -/
theorem advance_session (s : State) (d : Nat) :
    (s.advance d).ss.session = s.ss.session.map fun x =>
      { x with stepTime := ((s.advance d).ss.session.map Session.stepTime).getD 0 } :=
  pass_session s _

/-! ## The response slot -/

@[simp] theorem slotAfterFetch_none : slotAfterFetch none = none := rfl

/-- A fetch empties the slot of a ready response, and of no other (R175). -/
theorem slotAfterFetch_some (x : Slot) : slotAfterFetch (some x) = if x.ready then none else some x := rfl

end Sys2Proof.Machine
end

