-- ==== Sys2Proof/Laws/Holdings.lean ====
section
/-! SUPPORT. One entry of the map after each operation of the Holdings Controller, the Budget Unit and the Peer Table Unit
that changes several entries at once. -/

namespace Sys2Proof.Machine

theorem entry_ge (s : State) (q : Nat) (h : s.map.length ≤ q) : s.entry q = .withdrawn := by
  simp [State.entry, List.getD, h]

/-- One entry after a fold that rewrites each listed entry by a function that a second application does not change. -/
theorem getD_foldl_rewrite {α : Type} (g : Nat → α → α) (hg : ∀ q a, g q (g q a) = g q a) (d d' : α) (qs : List Nat)
    (m : List α) (r : Nat) :
    (qs.foldl (fun m q => m.set q (g q (m.getD q d'))) m).getD r d =
      if r ∈ qs ∧ r < m.length then g r (m.getD r d) else m.getD r d := by
  induction qs generalizing m with
  | nil => simp
  | cons q qs ih =>
    rw [List.foldl_cons, ih, List.length_set, getD_set]
    by_cases h3 : r < m.length
    · have e : m.getD r d' = m.getD r d := by simp [List.getD, h3]
      by_cases h1 : r = q
      · subst h1
        rw [e]
        by_cases h2 : r ∈ qs <;> simp [h2, h3, hg]
      · by_cases h2 : r ∈ qs <;> simp [h1, h2, h3]
    · have : ¬(r = q ∧ q < m.length) := fun h => h3 (h.1 ▸ h.2)
      simp [h3, this]

/-- Completing a drain twice is completing it once. -/
theorem drained_idem (s : State) (q : Nat) (e : QEntry) : s.drained q (s.drained q e) = s.drained q e := by
  have hv : s.vacant q = .free ∨ s.vacant q = .withdrawn := by
    unfold State.vacant
    split <;> simp
  cases e with
  | draining r b =>
    cases hf : s.freesLocally <;> rcases hv with hv | hv <;> cases r <;> cases b <;> simp [State.drained, hf, hv]
  | _ => rfl

/-- One entry after drains complete (R29, R30). -/
theorem Work.entry_completeDrains (w : Work) (qs : List Nat) (q : Nat) :
    (w.completeDrains qs).toState.entry q =
      if q ∈ qs then w.toState.drained q (w.toState.entry q) else w.toState.entry q := by
  have key : (w.completeDrains qs).toState.entry q =
      (qs.foldl (fun m q => m.set q (w.toState.drained q (m.getD q .free))) w.map).getD q .withdrawn := by
    unfold State.entry Work.completeDrains
    dsimp only
    rw [foldl_keeps (fun w : Work => w.map) _ (fun a b => by simp) _ _]
  rw [key, getD_foldl_rewrite _ (fun q a => drained_idem _ q a)]
  by_cases hl : q < w.map.length
  · simp [hl, State.entry]
  · have := entry_ge w.toState q (Nat.le_of_not_lt hl)
    rw [State.entry] at this
    simp [hl, State.entry, State.drained]

/-- The drain list after drains complete. -/
theorem Work.drains_completeDrains (w : Work) (qs : List Nat) :
    (w.completeDrains qs).hc = { w.hc with drains := w.hc.drains.filter fun d => !qs.contains d.quantum } := by
  unfold Work.completeDrains
  dsimp only
  rw [foldl_keeps (fun w : Work => w.hc) _ (fun a b => by simp) _ _]

/-- One entry after quanta are freed locally (R30). -/
theorem Work.entry_freeLocally (w : Work) (qs : List Nat) (q : Nat) :
    (w.freeLocally qs).toState.entry q =
      if q ∈ qs ∧ (w.toState.entry q).isDraining = true then w.toState.vacant q else w.toState.entry q := by
  have v : (w.toState.vacant q).isDraining = false := by
    unfold State.vacant
    split <;> rfl
  suffices h : ∀ m : List QEntry, (qs.foldl (fun m q => if (m.getD q .free).isDraining then m.set q (w.toState.vacant q)
      else m) m).getD q .withdrawn = if q ∈ qs ∧ (m.getD q .withdrawn).isDraining = true then w.toState.vacant q
      else m.getD q .withdrawn from h w.map
  induction qs with
  | nil => simp
  | cons x qs ih =>
    intro m
    rw [List.foldl_cons, ih]
    by_cases hl : q < m.length
    · have e : m.getD q .free = m.getD q .withdrawn := by simp [List.getD, hl]
      by_cases h1 : q = x
      · subst h1
        rw [e]
        by_cases hd : (m.getD q .withdrawn).isDraining = true
        · simp only [hd, if_true, getD_set, hl, and_self, List.mem_cons, true_or]
          simp [v]
        · rw [if_neg hd, if_neg (fun h => hd h.2), if_neg (fun h => hd h.2)]
      · have : ∀ b : Bool, (if b then m.set x (w.toState.vacant x) else m).getD q .withdrawn = m.getD q .withdrawn := by
          intro b
          cases b
          · rfl
          · rw [if_pos rfl, getD_set, if_neg (fun h => h1 h.1)]
        rw [this]
        simp [h1]
    · have n : m.getD q .withdrawn = .withdrawn := by simp [List.getD, Nat.le_of_not_lt hl]
      have : ∀ b : Bool, (if b then m.set x (w.toState.vacant x) else m).getD q .withdrawn = .withdrawn := by
        intro b
        cases b
        · simpa using n
        · rw [if_pos rfl, getD_set, n]
          split
          · rename_i h
            exact absurd (h.1 ▸ h.2) hl
          · rfl
      rw [this, n]
      simp [QEntry.isDraining]

/-- A quantum leaves no entry of the map when it leaves the claim. -/
theorem Work.leaveClaim_map (w : Work) (q : Nat) : (w.leaveClaim q).map = w.map := by simp

/-- One entry after Pending quanta are given up (R22). -/
theorem Work.entry_giveUpPending (w : Work) (f : Bool) (qs : List Nat) (q : Nat) :
    (w.giveUpPending f qs).toState.entry q =
      if q ∈ qs ∧ w.toState.entry q = .pending then w.toState.vacant q else w.toState.entry q := by
  have fold : ∀ (st : State) (ps : List Nat) (v : Work),
      (ps.foldl (fun (w : Work) q => (w.setEntry q (st.vacant q)).leaveClaim q) v).map =
        ps.foldl (fun m q => m.set q (st.vacant q)) v.map := by
    intro st ps
    induction ps with
    | nil => intro v; rfl
    | cons p ps ih => intro v; rw [List.foldl_cons, ih]; simp
  have key : (w.giveUpPending f qs).map =
      (qs.filter fun q => w.toState.entry q == .pending).foldl (fun m q => m.set q (w.toState.vacant q)) w.map := by
    unfold Work.giveUpPending
    dsimp only
    split <;> simp [fold]
  have step : ∀ (ps : List Nat) (m : List QEntry),
      (ps.foldl (fun m q => m.set q (w.toState.vacant q)) m).getD q .withdrawn =
        if q ∈ ps ∧ q < m.length then w.toState.vacant q else m.getD q .withdrawn := fun ps m =>
    getD_foldl_rewrite (fun q _ => w.toState.vacant q) (fun _ _ => rfl) .withdrawn .free ps m q
  have e : (w.giveUpPending f qs).toState.entry q = (w.giveUpPending f qs).map.getD q .withdrawn := rfl
  rw [e, key, step]
  by_cases hp : w.toState.entry q = .pending
  · have hl : q < w.map.length := by
      by_contra h
      rw [entry_ge _ _ (Nat.le_of_not_lt h)] at hp
      cases hp
    have hm : w.map.getD q .withdrawn = .pending := hp
    rw [hm]
    simp [hp, hl]
  · have hm : w.map.getD q .withdrawn = w.toState.entry q := rfl
    rw [hm]
    simp [hp]

/-- One entry after B_eff has risen (R11). -/
theorem Work.entry_budgetRise (w : Work) (b q : Nat) :
    (w.budgetRise b).toState.entry q =
      if q < w.map.length ∧ w.toState.entry q = .withdrawn ∧ q < b then .free else w.toState.entry q := by
  by_cases hl : q < w.map.length
  · unfold Work.budgetRise
    rw [Work.entry_mapAll _ _ _ (by simpa using hl)]
    by_cases h : w.toState.entry q = .withdrawn <;> simp [hl, State.entry] at *
  · have h1 := entry_ge w.toState q (Nat.le_of_not_lt hl)
    have h2 := entry_ge (w.budgetRise b).toState q (by simpa [Work.budgetRise] using Nat.le_of_not_lt hl)
    rw [h1, h2]
    simp [hl]

/-- One entry after every Mine quantum with `p` starts to drain. -/
theorem Work.entry_drainMine (w : Work) (r : DrainReason) (p : Nat → Bool) (q : Nat) :
    (w.drainMine r p).toState.entry q =
      if w.toState.entry q = .mine ∧ p q = true then .draining r none else w.toState.entry q := by
  unfold Work.drainMine
  rw [Work.entry_startDrain]
  by_cases hm : w.toState.entry q = .mine
  · have hl : q < w.map.length := by
      by_contra h
      rw [entry_ge _ _ (Nat.le_of_not_lt h)] at hm
      cases hm
    have hg : w.map[q]? = some .mine := by
      have : w.map.getD q .withdrawn = .mine := hm
      simpa [List.getD, hl] using this
    simp [hm, State.mineWhere, hg]
  · simp [hm]

/-- One entry after the holdings of a station that has gone are forgotten (R35, R37). -/
theorem Work.entry_forgetHoldings (w : Work) (t : Nat) (k : Bool) (q : Nat) (h : q < w.map.length) :
    (w.forgetHoldings t k).toState.entry q = w.toState.forgetEntry t k q (w.toState.entry q) :=
  Work.entry_mapAll _ _ _ h

/-- The Pending quanta are those of the claim in settle, told over the entries of the map. -/
theorem State.pendingSettles_of {s : State} (h : s.settling.Nodup ∧ (∀ q ∈ s.settling, s.entry q = .pending) ∧
    ∀ q ∈ List.range s.map.length, s.entry q = .pending → q ∈ s.settling) : s.pendingSettles := by
  refine ⟨h.1, fun q => ⟨fun hq => h.2.2 q ?_ hq, h.2.1 q⟩⟩
  rw [List.mem_range]
  by_contra hl
  rw [entry_ge s q (Nat.le_of_not_lt hl)] at hq
  cases hq

/-- The budget is kept, told over the entries of the map. -/
theorem State.budgetKept_of {s : State} (h1 : s.bu.bEff ≤ s.conf.bCfg) (h2 : s.conf.bSafe ≤ s.conf.bCfg)
    (h : ∀ q ∈ List.range s.map.length, s.bu.bEff ≤ q → s.entry q ≠ .free ∧ s.entry q ≠ .pending ∧ s.entry q ≠ .mine) :
    s.budgetKept := by
  refine ⟨h1, h2, fun _ q hb => ?_⟩
  by_cases hl : q < s.map.length
  · exact h q (List.mem_range.2 hl) hb
  · rw [entry_ge s q (Nat.le_of_not_lt hl)]
    decide

end Sys2Proof.Machine
end

