-- ==== Sys2Proof/Laws/Receiver.lean ====
section
/-! SUPPORT. The receiver over whole characters: what it hears of levels one after the other, and of a character that comes
in where a start bit is due. -/

namespace Sys2Proof.Machine

theorem Receiver.hear_append (r : Receiver) (a b : List Level) : r.hear (a ++ b) = r.hear a ++ (r.after a).hear b := by
  induction a generalizing r with
  | nil => rfl
  | cons l ls ih => simp [Receiver.hear, Receiver.after, ih]

@[simp] theorem Receiver.after_append (r : Receiver) (a b : List Level) : r.after (a ++ b) = (r.after a).after b :=
  List.foldl_append ..

@[simp] theorem Receiver.after_cons (r : Receiver) (l : Level) (ls : List Level) :
    r.after (l :: ls) = (r.sample l).1.after ls := rfl

/-- The data bits of a byte read back as the byte. -/
theorem byteOfLevels_bits (b : Byte) :
    byteOfLevels ((List.range 8).map fun i => levelOf (b.getLsbD (7 - i))) = b := by
  revert b
  decide +kernel

/-- Before a dominant run of 10 bit times the decoder takes each bit time and the monitor tells nothing. -/
theorem Receiver.sample_short (r : Receiver) (l : Level) (h : r.level = .dominant → r.lasted ≤ 8) :
    r.sample l =
      ({ phase := (r.decode l).1, level := l, lasted := if l = r.level then r.lasted + 1 else 1 }, (r.decode l).2) := by
  unfold Receiver.sample Receiver.monitor Config.resumeBits Config.breakSeen
  cases l with
  | dominant =>
    cases hr : r.level with
    | dominant =>
      have := h hr
      simp only [if_true]
      rw [if_neg (by simp; omega), if_neg (by omega), List.append_nil]
    | recessive => simp
  | recessive =>
    cases hr : r.level with
    | dominant =>
      have := h hr
      simp only [reduceCtorEq, false_and, if_false]
      rw [if_pos (Or.inr (by omega)), List.append_nil]
    | recessive => simp

/-- Data bits are gathered, and nothing is heard meanwhile. -/
theorem Receiver.after_data (ls : List Level) (r : Receiver) (chars : List Byte) (ds : List Level)
    (hp : r.phase = .data chars ds) (hl : ds.length + ls.length ≤ 8) (hd : r.level = .dominant → r.lasted ≤ ds.length + 1) :
    r.hear ls = [] ∧ (r.after ls).phase = .data chars (ds ++ ls) ∧
      ((r.after ls).level = .dominant → (r.after ls).lasted ≤ ds.length + ls.length + 1) := by
  induction ls generalizing r ds with
  | nil => exact ⟨rfl, by simpa [Receiver.after] using hp, by simpa [Receiver.after] using hd⟩
  | cons l ls ih =>
    simp only [List.length_cons] at hl
    have hs := r.sample_short l fun h => by have := hd h; omega
    have hc : r.decode l = (.data chars (ds ++ [l]), []) := by
      unfold Receiver.decode
      rw [hp]
      exact if_pos (by omega)
    rw [hc] at hs
    obtain ⟨h1, h2, h3⟩ := ih (r.sample l).1 (ds ++ [l]) (by rw [hs]) (by simp; omega) fun h => by
      rw [hs] at h ⊢
      simp only [List.length_append, List.length_singleton] at *
      subst h
      split
      · have := hd (Eq.symm ‹_›)
        omega
      · omega
    refine ⟨?_, ?_, fun h => ?_⟩
    · simpa [Receiver.hear, hs] using h1
    · simpa using h2
    · have := h3 h
      simp only [Receiver.after_cons, List.length_append, List.length_cons, List.length_nil] at *
      omega

/-- A character that comes in where the receiver takes a start bit is gathered (R142). -/
theorem Receiver.hear_character (r : Receiver) (chars : List Byte) (b : Byte)
    (hc : r.decode .dominant = (.data chars [], [])) (hr : r.level = .recessive) :
    r.hear (charLevels b) = (gathered (chars ++ [b])).2 ∧
      (r.after (charLevels b)).phase = (gathered (chars ++ [b])).1 ∧ (r.after (charLevels b)).level = .recessive := by
  set bits := (List.range 8).map fun i => levelOf (b.getLsbD (7 - i)) with hbits
  have hb : byteOfLevels bits = b := byteOfLevels_bits b
  have h8 : bits.length = 8 := by simp [hbits]
  have hlev : charLevels b = [.dominant] ++ bits ++ [.recessive] := rfl
  have hs := r.sample_short .dominant fun h => by simp [hr] at h
  rw [hc, hr] at hs
  obtain ⟨h1, h2, h3⟩ := Receiver.after_data bits (r.sample .dominant).1 chars [] (by rw [hs]) (by simp [h8])
    (by rw [hs]; simp)
  rw [hlev, Receiver.hear_append, Receiver.hear_append, Receiver.after_append, Receiver.after_append]
  set u := (r.after [.dominant]).after bits with hu
  have hu' : u = (r.sample .dominant).1.after bits := rfl
  rw [← hu'] at h2 h3
  have hk : u.decode .recessive = gathered (chars ++ [b]) := by
    unfold Receiver.decode
    rw [h2]
    simp [h8, hb]
  have ht : u.sample .recessive =
      ({ phase := (gathered (chars ++ [b])).1, level := .recessive
         lasted := if Level.recessive = u.level then u.lasted + 1 else 1 }, (gathered (chars ++ [b])).2) := by
    unfold Receiver.sample Receiver.monitor Config.resumeBits
    rw [hk]
    cases hul : u.level with
    | recessive => simp
    | dominant =>
      have := h3 hul
      have h9 : u.lasted < 10 := by simp [h8] at this; omega
      simp [h9]
  have h0 : r.hear [.dominant] = [] := by simp [Receiver.hear, hs]
  have h1' : (r.after [.dominant]).hear bits = [] := h1
  refine ⟨?_, ?_, ?_⟩
  · rw [h0, h1']
    simp [Receiver.hear, ht]
  · change ((u.sample .recessive).1).phase = _
    rw [ht]
  · change ((u.sample .recessive).1).level = _
    rw [ht]

/-- Where a start bit is due within a frame, the receiver takes one. -/
theorem Receiver.decode_gap (r : Receiver) (chars : List Byte) (n : Nat) (hp : r.phase = .gap chars n) :
    r.decode .dominant = (.data chars [], []) := by
  unfold Receiver.decode
  rw [hp]
  rfl

/-- With no frame in progress, up to 8 bit times after a dominant one begin no frame, and nothing is heard. -/
theorem Receiver.after_idle (ls : List Level) (r : Receiver) (k : Nat) (hp : r.phase = .idle) (hl : k + ls.length ≤ 8)
    (hd : r.level = .dominant → r.lasted ≤ k + 1) (hr : r.level = .recessive → r.lasted ≤ k) :
    r.hear ls = [] ∧ (r.after ls).phase = .idle ∧
      ((r.after ls).level = .dominant → (r.after ls).lasted ≤ k + ls.length + 1) ∧
      ((r.after ls).level = .recessive → (r.after ls).lasted ≤ k + ls.length) := by
  induction ls generalizing r k with
  | nil => exact ⟨rfl, hp, hd, hr⟩
  | cons l ls ih =>
    simp only [List.length_cons] at hl
    have hs := r.sample_short l fun h => by have := hd h; omega
    have hc : r.decode l = (.idle, []) := by
      unfold Receiver.decode Config.resumeBits
      rw [hp]
      exact if_neg fun h => by have := hr h.2.1; omega
    rw [hc] at hs
    obtain ⟨h1, h2, h3, h4⟩ := ih (r.sample l).1 (k + 1) (by rw [hs]) (by omega)
      (fun h => by
        rw [hs] at h ⊢
        simp only at *
        subst h
        split
        · have := hd (Eq.symm ‹_›)
          omega
        · omega)
      (fun h => by
        rw [hs] at h ⊢
        simp only at *
        subst h
        split
        · have := hr (Eq.symm ‹_›)
          omega
        · omega)
    refine ⟨by simpa [Receiver.hear, hs] using h1, h2, fun h => ?_, fun h => ?_⟩
    · have := h3 h
      simp only [Receiver.after_cons, List.length_cons] at *
      omega
    · have := h4 h
      simp only [Receiver.after_cons, List.length_cons] at *
      omega

/-- A character before which the line has been recessive for less than 10 bit times, with no frame in progress, is not
taken, and none of its bits begins a frame (R142). -/
theorem Receiver.hear_passed (r : Receiver) (b : Byte) (hp : r.phase = .idle) (hr : r.level = .recessive)
    (hn : r.lasted < 10) :
    r.hear (charLevels b) = [] ∧ (r.after (charLevels b)).phase = .idle ∧ (r.after (charLevels b)).level = .recessive ∧
      (r.after (charLevels b)).lasted < 10 := by
  have hs := r.sample_short .dominant fun h => by simp [hr] at h
  have hc : r.decode .dominant = (.idle, []) := by
    unfold Receiver.decode Config.resumeBits
    rw [hp]
    exact if_neg fun h => by omega
  rw [hc, hr] at hs
  obtain ⟨h1, h2, h3, h4⟩ := Receiver.after_idle ((List.range 8).map fun i => levelOf (b.getLsbD (7 - i)))
    (r.sample .dominant).1 0 (by rw [hs]) (by simp) (by rw [hs]; simp) (by rw [hs]; simp)
  set u := (r.sample .dominant).1.after ((List.range 8).map fun i => levelOf (b.getLsbD (7 - i))) with hu
  simp only [List.length_map, List.length_range] at h3 h4
  have ht : u.sample .recessive =
      ({ phase := .idle, level := .recessive, lasted := if Level.recessive = u.level then u.lasted + 1 else 1 }, []) := by
    unfold Receiver.sample Receiver.monitor Receiver.decode Config.resumeBits
    rw [h2]
    cases hul : u.level with
    | recessive => simp
    | dominant =>
      have := h3 hul
      have h9 : u.lasted < 10 := by omega
      simp [h9]
  have hlev : charLevels b =
      .dominant :: (((List.range 8).map fun i => levelOf (b.getLsbD (7 - i))) ++ [.recessive]) := rfl
  have ha : r.after (charLevels b) = (u.sample .recessive).1 := by
    rw [hlev, Receiver.after_cons, Receiver.after_append]
    rfl
  refine ⟨?_, by rw [ha, ht], by rw [ha, ht], ?_⟩
  · rw [hlev, Receiver.hear, Receiver.hear_append, h1, ← hu, Receiver.hear, ht, hs]
    rfl
  · rw [ha, ht]
    dsimp only
    split
    · have := h4 (Eq.symm ‹_›)
      omega
    · omega

end Sys2Proof.Machine
end

