-- ==== Sys2Proof/Tests/Slice0.lean ====
section
/-! SUPPORT. Tests: ill-formed commands, one-step checks whose expected values are those of the spec's worked sequences,
and for each statement with hypotheses a state and operands that meet them together. -/

namespace Sys2Proof.Tests

-- one theorem at a time: each `decide +kernel` waits for the kernel, and waiting theorems hold a stack each
set_option Elab.async false


open Sys2Proof.Machine

/-! ## States of the tests -/

/-- The configuration of the worked sequences: N_st 16, H 2, B_cfg 48, B_safe 36, P_max 1500, P_min 200 (Table 53,
Table 71). -/
def cfg0 : Cfg :=
  { qs := 10, bCfg := 48, bSafe := 36, sSolo := 4, h := 2, nSt := 16, tEp := 1000, lSil := 3, lExp := 8, tQ := 1000
    tripHold := 10, policy := 1, d := 7, pMax := 1500, pMin := 200, attention := 12 }

/-- The CONFIGURE payload of that configuration, with the defaults left 0, for a B_safe and an L_exp. -/
def configureBytes (bSafe lExp : Byte) : List Byte :=
  [10, 48, bSafe, 4, 2, 16, 0, 0, 3, lExp, 0x03, 0xE8, 0, 1, 7, 0x05, 0xDC, 0, 200, 12]

/-- Its checks in order, at station 4. -/
def checksOf (bSafe lExp : Byte) : List (Nat × Bool) :=
  (readCfg (configureBytes bSafe lExp)).rangeChecks ++ (readCfg (configureBytes bSafe lExp)).crossChecks 4

/-- Entry of station 5 in a given state. -/
def peer5 (x : PeerState) : Peer :=
  { state := x, bid := none, lastSeq := 0, summary := none, heardAt := some 4000, unanswered := 0, fpSeen := false
    lastRefusal := none }

/-- Station 4, configured and in mode `m` with an empty map, 5000 ms after the reset. -/
def row (m : Mode) : State :=
  { State.reset with
    now := 5000
    cpi := { cfg := some cfg0, fingerprint := some 0x1234, stn := 4, slot := none }
    mc := { ModeCtl.reset with mode := m }
    lc := { Link.reset with tx := txOf m }
    bu := { offers := [], seen := false, bEff := 48, ownSeq := 255 }
    map := startMap 48
    ptu := { entries := (freshTable 16 4).set 5 (peer5 .live), lineHeard := some 4000, lineCleared := 0 }
    hc := Holdings.reset 4
    ci := { Converter.reset with conv := .running, inhibit := false, causeLost := false, silenceAt := some 5400, refreshAt := 5100 }
    bk := { State.reset.bk with startAt := 1000 } }

/-- Station 4 strapped, before CONFIGURE. -/
def unconfigured4 : State := { State.reset with cpi := { State.reset.cpi with stn := 4 } }

/-- Quanta 8, 9, 10 and 38 are Mine, 35 is Pending and settles until 5040, 36 drains for station 5 and 12 is Held by it. -/
def holding (m : Mode) : State :=
  { row m with
    map := ((((((startMap 48).set 8 .mine).set 9 .mine).set 10 .mine).set 38 .mine).set 35 .pending).set 36
      (.draining .yield (some 5)) |>.set 12 (.held 5 false)
    hc := { Holdings.reset 4 with
      target := 5, claim := some (.settling [35] 5040)
      drains := [{ quantum := 36, entered := 4900, timeoutAt := 6900, stuck := false, mark := none }] } }

/-- Quantum 12 is Held by station 5 with the promise-to-me mark, and station 5's entry is in state `x`. -/
def heldBy5 (x : PeerState) (m : Mode) : State :=
  { row m with
    map := (startMap 48).set 12 (.held 5 true)
    ptu := { (row m).ptu with entries := (freshTable 16 4).set 5 (peer5 x) } }

/-- That state with the promise recorded and a request to station 5 awaiting its answer. -/
def promised : State :=
  { heldBy5 .live .active with
    hc := { Holdings.reset 4 with
      promises := [⟨5, [12], 6000⟩], request := some ⟨5, .surplus, 2, [], some 4950, false, false⟩ } }

/-- The same, with an answer of station 5 heard in a mode that ignores it. -/
def answeredLate : State :=
  { promised with hc := { promised.hc with request := some ⟨5, .surplus, 2, [], some 4950, false, true⟩ } }

/-- A BULK step that ends at 15 s of duration and at the deadline. -/
def step0 : PlanStep :=
  { kind := .bulk, cap := 1500, endEnergy := 0, endDuration := 15, endAcceptance := 0, endAtDeadline := true }

/-- A session at its only step, admitted at 2000 ms with a deadline of 60 s, with 2000 of 3000 energy units to go. -/
def session0 (ph : SessPhase) : Session :=
  { phase := ph, tag := 99, eReq := 3000, pAcc := 1500, deadline := 60, admittedAt := 2000, runOut := false
    critical := false, stepIndex := 1, entered := true, stepTime := 1000, joules := 36000000, stepMark := 0
    delivered := 1000, stepEnergy := 1000, eRem := 2000, stepsDone := 0, lastEnd := none, plan := [step0] }

def withSession (ph : SessPhase) (s : State) : State := { s with ss := { s.ss with session := some (session0 ph) } }
def withOffers (os : List Offer) (s : State) : State := { s with bu := { s.bu with offers := os, seen := true, bEff := 40 } }
def withSlot (x : Option Slot) : State := { row .active with cpi := { (row .active).cpi with slot := x } }
def slot0 (ready : Bool) : Slot := ⟨⟨.accepted, none, 0, [7]⟩, ready, 5001⟩
def notice (n : Nat) : Notice := ⟨n, 0, 5, [1, 2, 3], true, 4000, false⟩
def tripLevel (b : Bool) (s : State) : State := { s with io := { s.io with trip := b } }
def breakLevel (s : State) : State := { s with mc := { s.mc with breakOn := true } }
def duplicated (s : State) : State := { s with mc := { s.mc with duplicate := true } }
def converterAt (c : ConvState) (s : State) : State := { s with ci := { s.ci with conv := c } }
def rxState (run n : Nat) : State := { row .active with lc := { (row .active).lc with rxRun := run, rxErrors := n } }
def tripHoldTo (t : Nat) : State := { row .tripped with mc := { (row .tripped).mc with tripHoldAt := some t } }
def listeningTo (t : Nat) : State := { row .listening with mc := { (row .listening).mc with listenAt := some t } }
def stuckTo (t : Nat) (s : State) : State := { s with hc := { s.hc with stuck := true, quiesceAt := some t } }

/-- Frame `f` alone in the queue under stamp 3, with an attempt in progress. -/
def queued (f : Frame) (retry : Nat) (a : Option Attempt) (m : Mode) : State :=
  { holding m with lc := { (holding m).lc with queue := [⟨3, f, retry⟩], nextId := 4, attempt := a } }

/-- A CLAIM for 12 and 47 on the line. -/
def claimQueued : State :=
  { row .active with
    lc := { (row .active).lc with
      queue := [⟨3, .claim [12, 47], 0⟩], nextId := 4, attempt := some (.frame 3 1 false) }
    hc := { (row .active).hc with target := 2, claim := some (.queued [12, 47]) } }

def lostTo (t : Nat) : State :=
  { holding .active with ci := { (holding .active).ci with conv := .lost, causeLost := true, lostQuiesce := .running t } }
def echoesSince (t : Nat) : State :=
  { holding .active with mc := { (holding .active).mc with echoSince := some t, errSince := true } }
def fifteenErrors : State :=
  let s := queued .leave 2 (some (.frame 3 1 false)) .active
  { s with lc := { s.lc with txErrors := 15 } }
def sending400 : State := { row .active with ci := { (row .active).ci with outbox := [⟨400, false, []⟩] } }
def epochTo (t : Nat) : State := { holding .active with ae := { (holding .active).ae with epochAt := some t, seq := 255 } }

/-- CHARGING at an epoch expiry due at 5000 ms, with nothing held. -/
def claiming : State := withSession .charging { row .active with ae := { (row .active).ae with epochAt := some 5000 } }

/-- The same with every quantum below 48 Held by station 5 but for the own home quanta 8 and 9, which are Held by it too or
Mine, under sweep policy `p`. -/
def asking (home : QEntry) (p : Nat) : State :=
  let e := if home = .mine then .mine else .held 5 false
  { claiming with
    cpi := { claiming.cpi with cfg := some { cfg0 with policy := p } }
    map := (((List.replicate 48 (.held 5 false)).set 8 e).set 9 e) ++ List.replicate 80 .withdrawn }

/-- Station 4 with a target of 5 and no sweep run for it: 47 is Free and every other quantum below 48 Held by station 5, so
that a fall of B_eff to 40 leaves nothing eligible. -/
def fallTo40 : State :=
  let s := asking .free 1
  { s with
    map := s.map.set 47 .free
    hc := { s.hc with target := 5, needOpen := true } }

/-- Quantum 36 alone is Draining, for station 5. -/
def draining36 (m : Mode) : State :=
  { row m with
    map := (startMap 48).set 36 (.draining .yield (some 5))
    hc := { Holdings.reset 4 with drains := [⟨36, 4900, 6900, false, none⟩] } }

/-- Quantum 35 alone is Pending. -/
def settling35 (m : Mode) : State :=
  { row m with map := (startMap 48).set 35 .pending, hc := { Holdings.reset 4 with claim := some (.settling [35] 5040) } }

/-- The RELEASE of the last quantum of an ENDING session is on the line. -/
def lastRelease : State :=
  withSession (.ending .undocked .charging) { draining36 .active with
    lc := { (row .active).lc with
      queue := [⟨3, .release (some 5) [36], 0⟩], nextId := 4, attempt := some (.frame 3 1 false) } }

/-- The LEAVE of an isolate drain, or of a restart, is on the line at its last retry. -/
def leaveLine (restart : Bool) (m : Mode) : State :=
  { row m with
    mc := { (row m).mc with leaving := true, isolateReq := !restart, restarting := restart }
    lc := { (row m).lc with queue := [⟨3, .leave, 3⟩], nextId := 4, attempt := some (.frame 3 1 false) } }

def restarting (s : State) : State := { s with mc := { s.mc with restarting := true } }

/-- A booked SUSPEND on the silence of station 5. -/
def silent5 : Booking :=
  { state := .armed, trigger := .peerSilent (some 5), action := .suspend, repeats := false, urgent := true, tags := [7, 8, 9]
    mark := false }

/-- It stands as booking `i`, with station 5 Live. -/
def booked (i : Nat) : State :=
  withSession .charging { heldBy5 .live .active with
    bk := { (row .active).bk with table := (List.replicate 12 none).set i (some silent5) } }

/-- MUTED with its probe on the line for `us` µs. -/
def probing (us : Nat) : State :=
  { row .muted with lc := { (row .muted).lc with attempt := some (.probe (row .muted).joinFrame us false) } }
/-- The line has been quiet for 12 bit times of 8 us. -/
def quiet (s : State) : State := { s with lc := { s.lc with quietUs := 96 } }

/-- Other stations drive these levels from now on. -/
def told (ls : List Level) (s : State) : State := { s with lc := { s.lc with line := ls, lineUs := 0 } }

/-- The state of a step's outcome. -/
def after (o : Host.Outcome State Fault Refusal) (s : State) : State :=
  match o with
  | .next t => t
  | _ => s

/-! ## Hypotheses met -/

theorem test_hyps_wrong_payload_length_is_refused_format :
    (∀ p ∈ [Payload.whole [0], .cut 200 [], .cut 255 [1, 2, 3]], ∃ (c : Instr) (n : Nat),
     (c, n) ∈ [(Instr.identify p, 0), (Instr.configure p, 20), (Instr.start p, 0), (Instr.status p, 0),
         (Instr.clearFlags p, 0), (Instr.vehicleUpdate p, 5), (Instr.undock p, 0), (Instr.abortSession p, 0),
         (Instr.suspend p, 0), (Instr.resume p, 0), (Instr.budgetOffer p, 2), (Instr.isolate p, 0), (Instr.restart p,
         0), (Instr.book p, 10), (Instr.unbook p, 1), (Instr.clearAction p, 1), (Instr.fetchNotice p, 0),
         (Instr.readPeer p, 1), (Instr.readQuanta p, 1), (Instr.readSession p, 0), (Instr.readResult p, 0)] ∧
         (∀ bytes, p = .whole bytes → bytes.length ≠ n)) ∧
    (∀ p ∈ [Payload.whole (List.replicate 10 0), .whole (List.replicate 92 0), .cut 21 (List.replicate 11 0)],
     ∀ bytes, p = .whole bytes → bytes.length < 11 ∨ 91 < bytes.length) ∧
    (∀ p ∈ [Payload.whole [0], .cut 1 []], ∀ bytes, p = .whole bytes → bytes.length ≠ 0) :=
  ⟨fun p h => ⟨.undock p, 0, by simp, by simp at h; rcases h with rfl | rfl | rfl <;> simp⟩, by simp, by simp⟩

theorem test_hyps_commands_outside_their_modes_are_refused_state :
    (∃ (p : List Byte) (c : Instr) (n : Nat) (s : State),
     (c, n) ∈ [(Instr.vehicleUpdate (.whole p), 5), (Instr.undock (.whole p), 0), (Instr.abortSession (.whole p), 0), (Instr.suspend (.whole p), 0),
         (Instr.resume (.whole p), 0), (Instr.isolate (.whole p), 0), (Instr.restart (.whole p), 0)] ∧ p.length = n ∧ s.started = false) ∧
    (∃ (p : List Byte) (c : Instr) (n : Nat) (s : State),
     (c, n) ∈ [(Instr.status (.whole p), 0), (Instr.clearFlags (.whole p), 0), (Instr.book (.whole p), 10), (Instr.unbook (.whole p), 1),
         (Instr.clearAction (.whole p), 1), (Instr.readPeer (.whole p), 1), (Instr.readQuanta (.whole p), 1), (Instr.readSession (.whole p), 0),
         (Instr.readResult (.whole p), 0)] ∧ p.length = n ∧ s.mc.mode = .unconfigured) ∧
    (∃ (p : List Byte) (s : State),
     11 ≤ p.length ∧ p.length ≤ 91 ∧ s.started = false) ∧
    (∃ (p : List Byte) (s : State),
     11 ≤ p.length ∧ p.length ≤ 91 ∧ s.started = false) ∧
    (∃ (p : List Byte) (c : Instr) (s : State),
     ((c = .configure (.whole p) ∧ p.length = 20 ∧ s.mc.mode ≠ .unconfigured) ∨ (c = .start (.whole p) ∧ p.length = 0 ∧
         s.mc.mode ≠ .configured) ∨
      (c = .budgetOffer (.whole p) ∧ p.length = 2 ∧ s.working = false))) ∧
    (∃ (p : List Byte) (c : Instr) (s : State),
     ((c = .configure (.whole p) ∧ p.length = 20 ∧ s.mc.mode ≠ .unconfigured) ∨ (c = .start (.whole p) ∧ p.length = 0 ∧
         s.mc.mode ≠ .configured) ∨
      (c = .budgetOffer (.whole p) ∧ p.length = 2 ∧ s.working = false))) ∧
    (∃ (s : State),
     s.mc.mode ≠ .listening ∧ s.mc.mode ≠ .offline ∧ s.mc.mode ≠ .tripped) :=
  ⟨⟨[], .undock (.whole []), 0, row .configured, by decide +kernel⟩,
   ⟨[], .status (.whole []), 0, State.reset, by decide +kernel⟩,
   ⟨List.replicate 11 0, row .configured, by decide +kernel⟩,
   ⟨List.replicate 91 0, row .configured, by decide +kernel⟩,
   ⟨[], .start (.whole []), row .active, by decide +kernel⟩,
   ⟨[44, 30], .budgetOffer (.whole [44, 30]), row .listening, by decide +kernel⟩,
   ⟨row .active, by decide +kernel⟩⟩

theorem test_hyps_read_commands_report_the_state :
    (∃ (s : State),
     s.mc.mode ≠ .unconfigured) ∧
    (∃ (s : State),
     s.mc.mode ≠ .unconfigured) ∧
    (∃ (s : State),
     s.mc.mode ≠ .unconfigured) ∧
    (∃ (b : Byte) (s : State),
     s.mc.mode ≠ .unconfigured ∧ b.toNat < s.conf.nSt) ∧
    (∃ (b : Byte) (s : State),
     s.mc.mode ≠ .unconfigured ∧ b.toNat < s.conf.nSt) ∧
    (∃ (b : Byte) (s : State),
     s.mc.mode ≠ .unconfigured ∧ b.toNat < 128 ∧ s.map.length = 128) ∧
    (∃ (b : Byte) (c : Instr) (s : State),
     s.mc.mode ≠ .unconfigured ∧ ((c = .readPeer (.whole [b]) ∧ s.conf.nSt ≤ b.toNat) ∨ (c = .readQuanta (.whole [b]) ∧
         128 ≤ b.toNat))) ∧
    (∃ (b : Byte) (c : Instr) (s : State),
     s.mc.mode ≠ .unconfigured ∧ ((c = .readPeer (.whole [b]) ∧ s.conf.nSt ≤ b.toNat) ∨ (c = .readQuanta (.whole [b]) ∧
         128 ≤ b.toNat))) :=
  ⟨⟨row .configured, by decide +kernel⟩,
   ⟨row .configured, by decide +kernel⟩,
   ⟨row .configured, by decide +kernel⟩,
   ⟨4, row .active, by decide +kernel⟩,
   ⟨15, row .active, by decide +kernel⟩,
   ⟨127, row .active, by decide +kernel⟩,
   ⟨16, .readPeer (.whole [16]), row .active, by decide +kernel⟩,
   ⟨128, .readQuanta (.whole [128]), row .active, by decide +kernel⟩⟩

theorem test_hyps_configure_stores_the_checked_record :
    (∃ (p : List Byte) (c : Cfg) (s : State),
     (p.length = 20 ∧ s.mc.mode = .unconfigured ∧ (1 ≤ c.qs ∧ c.qs ≤ 63 ∧ 1 ≤ c.bCfg ∧ c.bCfg ≤ 128 ∧ 1 ≤ c.bSafe ∧
         c.bSafe ≤ 128 ∧ c.sSolo ≤ 128 ∧ c.h ≤ 4 ∧
      2 ≤ c.nSt ∧ c.nSt ≤ 32 ∧ 500 ≤ c.tEp ∧ c.tEp ≤ 4000 ∧ c.tEp % 250 = 0 ∧ 2 ≤ c.lSil ∧ c.lSil ≤ 8 ∧ 4 ≤ c.lExp ∧
      c.lExp ≤ 32 ∧ 500 ≤ c.tQ ∧ c.tQ ≤ 2000 ∧ c.tQ % 100 = 0 ∧ 5 ≤ c.tripHold ∧ c.tripHold ≤ 60 ∧ c.policy ≤ 3 ∧
      1 ≤ c.d ∧ c.d ≤ 63 ∧ 1 ≤ c.pMax ∧ c.pMax ≤ 6000 ∧ c.pMin ≤ c.pMax ∧ 1 ≤ c.attention ∧ c.attention ≤ 16) ∧
          (s.own < c.nSt ∧ c.nSt * c.h ≤ c.bSafe ∧ c.bSafe ≤ c.bCfg ∧ c.sSolo ≤ c.bCfg ∧
      2000 + c.tQ ≤ (c.lExp - c.lSil) * c.tEp)) ∧ (c = {
          qs := at1 p 0, bCfg := at1 p 1, bSafe := at1 p 2, sSolo := at1 p 3, h := at1 p 4, nSt := at1 p 5
          tEp := if at2 p 6 = 0 then 1000 else at2 p 6, lSil := at1 p 8, lExp := at1 p 9, tQ := at2 p 10
          tripHold := if at1 p 12 = 0 then 10 else at1 p 12, policy := at1 p 13, d := at1 p 14
          pMax := at2 p 15, pMin := at2 p 17, attention := at1 p 19 })) :=
  ⟨configureBytes 36 8, _, unconfigured4, by decide +kernel, rfl⟩

theorem test_hyps_configure_refuses_the_first_failed_check :
    (∃ (p : List Byte) (c : Cfg) (n : Nat) (before after : List (Nat × Bool)) (s : State),
     (p.length = 20 ∧ s.mc.mode = .unconfigured ∧ ([ (1, decide (1 ≤ c.qs ∧ c.qs ≤ 63)), (2, decide (1 ≤ c.bCfg ∧
         c.bCfg ≤ 128))
      , (3, decide (1 ≤ c.bSafe ∧ c.bSafe ≤ 128)), (4, decide (c.sSolo ≤ 128)), (5, decide (c.h ≤ 4))
      , (6, decide (2 ≤ c.nSt ∧ c.nSt ≤ 32)), (7, decide (500 ≤ c.tEp ∧ c.tEp ≤ 4000 ∧ c.tEp % 250 = 0))
      , (8, decide (2 ≤ c.lSil ∧ c.lSil ≤ 8)), (9, decide (4 ≤ c.lExp ∧ c.lExp ≤ 32))
      , (10, decide (500 ≤ c.tQ ∧ c.tQ ≤ 2000 ∧ c.tQ % 100 = 0)), (11, decide (5 ≤ c.tripHold ∧ c.tripHold ≤ 60))
      , (12, decide (c.policy ≤ 3)), (13, decide (1 ≤ c.d ∧ c.d ≤ 63)), (14, decide (1 ≤ c.pMax ∧ c.pMax ≤ 6000))
      , (15, decide (c.pMin ≤ c.pMax)), (16, decide (1 ≤ c.attention ∧ c.attention ≤ 16))
      , (17, decide (s.own < c.nSt)), (3, decide (c.nSt * c.h ≤ c.bSafe)), (3, decide (c.bSafe ≤ c.bCfg))
      , (4, decide (c.sSolo ≤ c.bCfg)), (9, decide (2000 + c.tQ ≤ (c.lExp - c.lSil) * c.tEp)) ] =
      before ++ (n, false) :: after) ∧ (∀ x ∈ before, x.2 = true)) ∧ (c = {
          qs := at1 p 0, bCfg := at1 p 1, bSafe := at1 p 2, sSolo := at1 p 3, h := at1 p 4, nSt := at1 p 5
          tEp := if at2 p 6 = 0 then 1000 else at2 p 6, lSil := at1 p 8, lExp := at1 p 9, tQ := at2 p 10
          tripHold := if at1 p 12 = 0 then 10 else at1 p 12, policy := at1 p 13, d := at1 p 14
          pMax := at2 p 15, pMin := at2 p 17, attention := at1 p 19 })) ∧
    (∃ (p : List Byte) (c : Cfg) (n : Nat) (before after : List (Nat × Bool)) (s : State),
     (p.length = 20 ∧ s.mc.mode = .unconfigured ∧ ([ (1, decide (1 ≤ c.qs ∧ c.qs ≤ 63)), (2, decide (1 ≤ c.bCfg ∧
         c.bCfg ≤ 128))
      , (3, decide (1 ≤ c.bSafe ∧ c.bSafe ≤ 128)), (4, decide (c.sSolo ≤ 128)), (5, decide (c.h ≤ 4))
      , (6, decide (2 ≤ c.nSt ∧ c.nSt ≤ 32)), (7, decide (500 ≤ c.tEp ∧ c.tEp ≤ 4000 ∧ c.tEp % 250 = 0))
      , (8, decide (2 ≤ c.lSil ∧ c.lSil ≤ 8)), (9, decide (4 ≤ c.lExp ∧ c.lExp ≤ 32))
      , (10, decide (500 ≤ c.tQ ∧ c.tQ ≤ 2000 ∧ c.tQ % 100 = 0)), (11, decide (5 ≤ c.tripHold ∧ c.tripHold ≤ 60))
      , (12, decide (c.policy ≤ 3)), (13, decide (1 ≤ c.d ∧ c.d ≤ 63)), (14, decide (1 ≤ c.pMax ∧ c.pMax ≤ 6000))
      , (15, decide (c.pMin ≤ c.pMax)), (16, decide (1 ≤ c.attention ∧ c.attention ≤ 16))
      , (17, decide (s.own < c.nSt)), (3, decide (c.nSt * c.h ≤ c.bSafe)), (3, decide (c.bSafe ≤ c.bCfg))
      , (4, decide (c.sSolo ≤ c.bCfg)), (9, decide (2000 + c.tQ ≤ (c.lExp - c.lSil) * c.tEp)) ] =
      before ++ (n, false) :: after) ∧ (∀ x ∈ before, x.2 = true)) ∧ (c = {
          qs := at1 p 0, bCfg := at1 p 1, bSafe := at1 p 2, sSolo := at1 p 3, h := at1 p 4, nSt := at1 p 5
          tEp := if at2 p 6 = 0 then 1000 else at2 p 6, lSil := at1 p 8, lExp := at1 p 9, tQ := at2 p 10
          tripHold := if at1 p 12 = 0 then 10 else at1 p 12, policy := at1 p 13, d := at1 p 14
          pMax := at2 p 15, pMin := at2 p 17, attention := at1 p 19 })) ∧
    (∃ (p : List Byte) (c : Cfg) (n : Nat) (before after : List (Nat × Bool)) (s : State),
     (p.length = 20 ∧ s.mc.mode = .unconfigured ∧ ([ (1, decide (1 ≤ c.qs ∧ c.qs ≤ 63)), (2, decide (1 ≤ c.bCfg ∧
         c.bCfg ≤ 128))
      , (3, decide (1 ≤ c.bSafe ∧ c.bSafe ≤ 128)), (4, decide (c.sSolo ≤ 128)), (5, decide (c.h ≤ 4))
      , (6, decide (2 ≤ c.nSt ∧ c.nSt ≤ 32)), (7, decide (500 ≤ c.tEp ∧ c.tEp ≤ 4000 ∧ c.tEp % 250 = 0))
      , (8, decide (2 ≤ c.lSil ∧ c.lSil ≤ 8)), (9, decide (4 ≤ c.lExp ∧ c.lExp ≤ 32))
      , (10, decide (500 ≤ c.tQ ∧ c.tQ ≤ 2000 ∧ c.tQ % 100 = 0)), (11, decide (5 ≤ c.tripHold ∧ c.tripHold ≤ 60))
      , (12, decide (c.policy ≤ 3)), (13, decide (1 ≤ c.d ∧ c.d ≤ 63)), (14, decide (1 ≤ c.pMax ∧ c.pMax ≤ 6000))
      , (15, decide (c.pMin ≤ c.pMax)), (16, decide (1 ≤ c.attention ∧ c.attention ≤ 16))
      , (17, decide (s.own < c.nSt)), (3, decide (c.nSt * c.h ≤ c.bSafe)), (3, decide (c.bSafe ≤ c.bCfg))
      , (4, decide (c.sSolo ≤ c.bCfg)), (9, decide (2000 + c.tQ ≤ (c.lExp - c.lSil) * c.tEp)) ] =
      before ++ (n, false) :: after) ∧ (∀ x ∈ before, x.2 = true)) ∧ (c = {
          qs := at1 p 0, bCfg := at1 p 1, bSafe := at1 p 2, sSolo := at1 p 3, h := at1 p 4, nSt := at1 p 5
          tEp := if at2 p 6 = 0 then 1000 else at2 p 6, lSil := at1 p 8, lExp := at1 p 9, tQ := at2 p 10
          tripHold := if at1 p 12 = 0 then 10 else at1 p 12, policy := at1 p 13, d := at1 p 14
          pMax := at2 p 15, pMin := at2 p 17, attention := at1 p 19 })) :=
  ⟨⟨configureBytes 30 5, _, 3, (checksOf 30 5).take 17, (checksOf 30 5).drop 18, unconfigured4, by decide +kernel,
      rfl⟩,
   ⟨configureBytes 36 5, _, 9, (checksOf 36 5).take 20, (checksOf 36 5).drop 21, unconfigured4, by decide +kernel,
       rfl⟩,
   ⟨configureBytes 129 8, _, 3, (checksOf 129 8).take 2, (checksOf 129 8).drop 3, unconfigured4, by decide +kernel,
       rfl⟩⟩

theorem test_hyps_start_enters_listening :
    (∃ (s : State),
     s.mc.mode = .configured ∧ s.io.trip = false) ∧
    (∃ (s : State),
     s.mc.mode = .configured ∧ s.io.trip = true) :=
  ⟨⟨row .configured, by decide +kernel⟩,
   ⟨tripLevel true (row .configured), by decide +kernel⟩⟩

theorem test_hyps_book_unbook_and_clear_flags_change_their_record :
    (∃ (s : State),
     s.mc.mode ≠ .unconfigured) ∧
    (∃ (n : Byte) (s : State),
     s.mc.mode ≠ .unconfigured ∧ n.toNat < 12) ∧
    (∃ (n : Byte) (s : State),
     s.mc.mode ≠ .unconfigured ∧ 12 ≤ n.toNat) ∧
    (∃ (n kind hi lo act rep urg : Byte) (trig : Trigger) (a : Action) (s : State),
     s.mc.mode ≠ .unconfigured ∧ n.toNat < 12 ∧
         readTrigger s.conf.nSt s.own kind.toNat (hi.toNat * 256 + lo.toNat) = some trig ∧
         actionOf act.toNat = some a ∧ rep.toNat ≤ 1 ∧ urg.toNat ≤ 1) ∧
    (∃ (n kind hi lo act rep urg : Byte) (trig : Trigger) (a : Action) (s : State),
     s.mc.mode ≠ .unconfigured ∧ n.toNat < 12 ∧
         readTrigger s.conf.nSt s.own kind.toNat (hi.toNat * 256 + lo.toNat) = some trig ∧
         actionOf act.toNat = some a ∧ rep.toNat ≤ 1 ∧ urg.toNat ≤ 1) ∧
    (∃ (p : List Byte) (s : State),
     s.mc.mode ≠ .unconfigured ∧ p.length = 10 ∧ (12 ≤ at1 p 0 ∨ 7 < at1 p 1 ∨ 3 < at1 p 4 ∨ 1 < at1 p 5 ∨
         1 < at1 p 6)) ∧
    (∃ (p : List Byte) (s : State),
     s.mc.mode ≠ .unconfigured ∧ p.length = 10 ∧ (12 ≤ at1 p 0 ∨ 7 < at1 p 1 ∨ 3 < at1 p 4 ∨ 1 < at1 p 5 ∨
         1 < at1 p 6)) ∧
    (∃ (p : List Byte) (s : State),
     s.mc.mode ≠ .unconfigured ∧ p.length = 10 ∧ ((at1 p 1 = 0 ∧ at2 p 2 ≠ 0xFFFF ∧ (s.conf.nSt ≤ at2 p 2 ∨
         at2 p 2 = s.own)) ∨ (at1 p 1 = 1 ∧ (at2 p 2 = 0 ∨ 128 < at2 p 2)) ∨
      (at1 p 1 = 3 ∧ (at2 p 2 = 0 ∨ 8 < at2 p 2)) ∨ (at1 p 1 = 4 ∧ at2 p 2 = 0) ∨ (at1 p 1 = 7 ∧ (at2 p 2 < 4 ∨
          6 < at2 p 2)))) ∧
    (∃ (p : List Byte) (s : State),
     s.mc.mode ≠ .unconfigured ∧ p.length = 10 ∧ ((at1 p 1 = 0 ∧ at2 p 2 ≠ 0xFFFF ∧ (s.conf.nSt ≤ at2 p 2 ∨
         at2 p 2 = s.own)) ∨ (at1 p 1 = 1 ∧ (at2 p 2 = 0 ∨ 128 < at2 p 2)) ∨
      (at1 p 1 = 3 ∧ (at2 p 2 = 0 ∨ 8 < at2 p 2)) ∨ (at1 p 1 = 4 ∧ at2 p 2 = 0) ∨ (at1 p 1 = 7 ∧ (at2 p 2 < 4 ∨
          6 < at2 p 2)))) ∧
    (∃ (p : List Byte) (s : State),
     s.mc.mode ≠ .unconfigured ∧ p.length = 10 ∧ ((at1 p 1 = 0 ∧ at2 p 2 ≠ 0xFFFF ∧ (s.conf.nSt ≤ at2 p 2 ∨
         at2 p 2 = s.own)) ∨ (at1 p 1 = 1 ∧ (at2 p 2 = 0 ∨ 128 < at2 p 2)) ∨
      (at1 p 1 = 3 ∧ (at2 p 2 = 0 ∨ 8 < at2 p 2)) ∨ (at1 p 1 = 4 ∧ at2 p 2 = 0) ∨ (at1 p 1 = 7 ∧ (at2 p 2 < 4 ∨
          6 < at2 p 2)))) ∧
    (∃ (p : List Byte) (s : State),
     s.mc.mode ≠ .unconfigured ∧ p.length = 10 ∧ ((at1 p 1 = 0 ∧ at2 p 2 ≠ 0xFFFF ∧ (s.conf.nSt ≤ at2 p 2 ∨
         at2 p 2 = s.own)) ∨ (at1 p 1 = 1 ∧ (at2 p 2 = 0 ∨ 128 < at2 p 2)) ∨
      (at1 p 1 = 3 ∧ (at2 p 2 = 0 ∨ 8 < at2 p 2)) ∨ (at1 p 1 = 4 ∧ at2 p 2 = 0) ∨ (at1 p 1 = 7 ∧ (at2 p 2 < 4 ∨
          6 < at2 p 2)))) ∧
    (∃ (p : List Byte) (s : State),
     s.mc.mode ≠ .unconfigured ∧ p.length = 10 ∧ ((at1 p 1 = 0 ∧ at2 p 2 ≠ 0xFFFF ∧ (s.conf.nSt ≤ at2 p 2 ∨
         at2 p 2 = s.own)) ∨ (at1 p 1 = 1 ∧ (at2 p 2 = 0 ∨ 128 < at2 p 2)) ∨
      (at1 p 1 = 3 ∧ (at2 p 2 = 0 ∨ 8 < at2 p 2)) ∨ (at1 p 1 = 4 ∧ at2 p 2 = 0) ∨ (at1 p 1 = 7 ∧ (at2 p 2 < 4 ∨
          6 < at2 p 2)))) ∧
    (∃ (p : List Byte) (s : State),
     s.mc.mode ≠ .unconfigured ∧ p.length = 10 ∧ ((at1 p 1 = 0 ∧ at2 p 2 ≠ 0xFFFF ∧ (s.conf.nSt ≤ at2 p 2 ∨
         at2 p 2 = s.own)) ∨ (at1 p 1 = 1 ∧ (at2 p 2 = 0 ∨ 128 < at2 p 2)) ∨
      (at1 p 1 = 3 ∧ (at2 p 2 = 0 ∨ 8 < at2 p 2)) ∨ (at1 p 1 = 4 ∧ at2 p 2 = 0) ∨ (at1 p 1 = 7 ∧ (at2 p 2 < 4 ∨
          6 < at2 p 2)))) :=
  ⟨⟨row .configured, by decide +kernel⟩,
   ⟨11, row .active, by decide +kernel⟩,
   ⟨12, row .active, by decide +kernel⟩,
   ⟨11, 4, 0, 5, 3, 1, 1, .energyAt 5, .suspend, row .active, by decide +kernel⟩,
   ⟨0, 0, 255, 255, 0, 0, 0, .peerSilent none, .notify, row .active, by decide +kernel⟩,
   ⟨[12, 0, 0, 0, 0, 0, 0, 0, 0, 0], row .active, by decide +kernel⟩,
   ⟨[0, 8, 0, 0, 0, 0, 0, 0, 0, 0], row .active, by decide +kernel⟩,
   ⟨[0, 0, 0, 4, 0, 0, 0, 0, 0, 0], row .active, by decide +kernel⟩,
   ⟨[0, 0, 0, 16, 0, 0, 0, 0, 0, 0], row .active, by decide +kernel⟩,
   ⟨[0, 1, 0, 129, 0, 0, 0, 0, 0, 0], row .active, by decide +kernel⟩,
   ⟨[0, 3, 0, 9, 0, 0, 0, 0, 0, 0], row .active, by decide +kernel⟩,
   ⟨[0, 4, 0, 0, 0, 0, 0, 0, 0, 0], row .active, by decide +kernel⟩,
   ⟨[0, 7, 0, 3, 0, 0, 0, 0, 0, 0], row .active, by decide +kernel⟩⟩

theorem test_hyps_fetch_notice_takes_the_oldest_notice :
    (∃ (s : State),
     s.bk.notices = []) ∧
    (∃ (n : Notice) (rest : List Notice) (s : State),
     s.bk.notices = n :: rest) :=
  ⟨⟨row .active, by decide +kernel⟩,
   ⟨notice 1, List.replicate 8 (notice 2),
       { row .active with bk := { (row .active).bk with notices := notice 1 :: List.replicate 8 (notice 2) } },
       by decide +kernel⟩⟩

theorem test_hyps_clear_action_ends_the_marks_named :
    (∃ (v : Byte) (s : State),
     s.mc.mode ≠ .unconfigured ∧ 1 ≤ v.toNat ∧ v.toNat ≤ 3 ∧ s.calm) ∧
    (∃ (v : Byte) (s : State),
     s.mc.mode ≠ .unconfigured ∧ 1 ≤ v.toNat ∧ v.toNat ≤ 3 ∧ s.calm) ∧
    (∃ (v : Byte) (s : State),
     s.mc.mode ≠ .unconfigured ∧ (v.toNat = 0 ∨ 3 < v.toNat)) ∧
    (∃ (v : Byte) (s : State),
     s.mc.mode ≠ .unconfigured ∧ (v.toNat = 0 ∨ 3 < v.toNat)) :=
  ⟨⟨1, row .active, by decide +kernel⟩,
   ⟨3, row .active, by decide +kernel⟩,
   ⟨0, row .active, by decide +kernel⟩,
   ⟨4, row .active, by decide +kernel⟩⟩

theorem test_hyps_transactions_move_the_response_slot :
    (∃ (x : Slot) (s : State),
     s.cpi.slot = some x ∧ x.ready = false) ∧
    (∃ (s : State),
     s.cpi.slot = none) ∧
    (∃ (x : Slot) (s : State),
     s.cpi.slot = some x ∧ x.ready = false) ∧
    (∃ (x : Slot) (s : State),
     s.cpi.slot = some x ∧ x.ready = true) ∧
    (∃ (code : Byte) (p : Payload),
     code.toNat ∉ commandCodes ∧ (∀ bytes, p = .whole bytes → bytes.length ≤ 255) ∧
       ∀ announced bytes, p = .cut announced bytes → bytes.length < announced.toNat) ∧
    (∃ (code : Byte) (p : Payload),
     code.toNat ∉ commandCodes ∧ (∀ bytes, p = .whole bytes → bytes.length ≤ 255) ∧
       ∀ announced bytes, p = .cut announced bytes → bytes.length < announced.toNat) ∧
    (∃ (bytes : List Byte),
     (bytes = [] ∨ (bytes.head? ≠ some 1 ∧ bytes.head? ≠ some 2) ∨ (bytes.head? = some 1 ∧ bytes.length < 3))) ∧
    (∃ (bytes : List Byte),
     (bytes = [] ∨ (bytes.head? ≠ some 1 ∧ bytes.head? ≠ some 2) ∨ (bytes.head? = some 1 ∧ bytes.length < 3))) ∧
    (∃ (bytes : List Byte),
     (bytes = [] ∨ (bytes.head? ≠ some 1 ∧ bytes.head? ≠ some 2) ∨ (bytes.head? = some 1 ∧ bytes.length < 3))) :=
  ⟨⟨slot0 false, withSlot (some (slot0 false)), by decide +kernel⟩,
   ⟨row .active, by decide +kernel⟩,
   ⟨slot0 false, withSlot (some (slot0 false)), by decide +kernel⟩,
   ⟨slot0 true, withSlot (some (slot0 true)), by decide +kernel⟩,
   ⟨6, .whole (List.replicate 255 0), by decide +kernel, fun _ h => by cases h; decide +kernel, fun _ _ h => by cases h⟩,
   ⟨0, .cut 1 [], by decide +kernel, fun _ h => by (cases h), fun _ _ h => by cases h; decide⟩,
   ⟨[], by decide +kernel⟩,
   ⟨[3], by decide +kernel⟩,
   ⟨[1, 4], by decide +kernel⟩⟩

theorem test_hyps_admit_creates_the_session_record :
    (∃ (p : List Byte) (k : Nat) (s : State),
     s.started = true ∧ s.ss.session = none ∧ p.length = 11 + 10 * k ∧ k = at1 p 10 ∧ 1 ≤ k ∧ k ≤ 8 ∧
         planMalformed p = false ∧ 0 < at2 p 2) ∧
    (∃ (p : List Byte) (k : Nat) (s : State),
     s.started = true ∧ s.ss.session = none ∧ p.length = 11 + 10 * k ∧ k = at1 p 10 ∧ 1 ≤ k ∧ k ≤ 8 ∧
         planMalformed p = false ∧ 0 < at2 p 2) ∧
    (∃ (p : List Byte) (s : State),
     11 ≤ p.length ∧ p.length ≤ 91 ∧ s.started = true ∧ s.ss.session.isSome = true) ∧
    (∃ (p : List Byte) (s : State),
     11 ≤ p.length ∧ p.length ≤ 91 ∧ s.started = true ∧ s.ss.session.isSome = true) ∧
    (∃ (p : List Byte) (s : State),
     11 ≤ p.length ∧ p.length ≤ 91 ∧ s.started = true ∧ s.ss.session = none ∧ p.length ≠ 11 + 10 * at1 p 10) ∧
    (∃ (p : List Byte) (s : State),
     11 ≤ p.length ∧ p.length ≤ 91 ∧ s.started = true ∧ s.ss.session = none ∧ p.length ≠ 11 + 10 * at1 p 10) ∧
    (∃ (p : List Byte) (s : State),
     11 ≤ p.length ∧ p.length ≤ 91 ∧ s.started = true ∧ s.ss.session = none ∧ p.length ≠ 11 + 10 * at1 p 10) ∧
    (∃ (p : List Byte) (k : Nat) (s : State),
     s.started = true ∧ s.ss.session = none ∧ p.length = 11 + 10 * k ∧ k = at1 p 10 ∧ k ≤ 8 ∧ (k = 0 ∨ (∃ i < k,
         4 < at1 p (11 + 10 * i) ∨ (at1 p (11 + 10 * i) = 3 ∧ at2 p (16 + 10 * i) = 0) ∨
        (at1 p (11 + 10 * i) ≤ 2 ∧ at2 p (14 + 10 * i) = 0 ∧ at2 p (16 + 10 * i) = 0 ∧ at2 p (18 + 10 * i) = 0 ∧
          (p.getD (20 + 10 * i) 0 = 0 ∨ (at1 p 6 = 0 ∧ at1 p 7 = 0 ∧ at1 p 8 = 0)))))) ∧
    (∃ (p : List Byte) (k : Nat) (s : State),
     s.started = true ∧ s.ss.session = none ∧ p.length = 11 + 10 * k ∧ k = at1 p 10 ∧ k ≤ 8 ∧ (k = 0 ∨ (∃ i < k,
         4 < at1 p (11 + 10 * i) ∨ (at1 p (11 + 10 * i) = 3 ∧ at2 p (16 + 10 * i) = 0) ∨
        (at1 p (11 + 10 * i) ≤ 2 ∧ at2 p (14 + 10 * i) = 0 ∧ at2 p (16 + 10 * i) = 0 ∧ at2 p (18 + 10 * i) = 0 ∧
          (p.getD (20 + 10 * i) 0 = 0 ∨ (at1 p 6 = 0 ∧ at1 p 7 = 0 ∧ at1 p 8 = 0)))))) ∧
    (∃ (p : List Byte) (k : Nat) (s : State),
     s.started = true ∧ s.ss.session = none ∧ p.length = 11 + 10 * k ∧ k = at1 p 10 ∧ k ≤ 8 ∧ (k = 0 ∨ (∃ i < k,
         4 < at1 p (11 + 10 * i) ∨ (at1 p (11 + 10 * i) = 3 ∧ at2 p (16 + 10 * i) = 0) ∨
        (at1 p (11 + 10 * i) ≤ 2 ∧ at2 p (14 + 10 * i) = 0 ∧ at2 p (16 + 10 * i) = 0 ∧ at2 p (18 + 10 * i) = 0 ∧
          (p.getD (20 + 10 * i) 0 = 0 ∨ (at1 p 6 = 0 ∧ at1 p 7 = 0 ∧ at1 p 8 = 0)))))) ∧
    (∃ (p : List Byte) (k : Nat) (s : State),
     s.started = true ∧ s.ss.session = none ∧ p.length = 11 + 10 * k ∧ k = at1 p 10 ∧ planMalformed p = false ∧
         at2 p 2 = 0) :=
  ⟨⟨[0, 99, 0, 1, 5, 220, 0, 0, 60, 1, 1] ++ (List.replicate 1 [0, 5, 220, 0, 9, 0, 0, 0, 0, 0]).flatten, 1,
      row .offline, by decide +kernel⟩,
   ⟨[0, 99, 0, 1, 5, 220, 0, 0, 60, 1, 8] ++ (List.replicate 8 [0, 5, 220, 0, 9, 0, 0, 0, 0, 0]).flatten, 8,
       row .active, by decide +kernel⟩,
   ⟨List.replicate 11 0, withSession .complete (row .active), by decide +kernel⟩,
   ⟨List.replicate 91 0, withSession .charging (row .active), by decide +kernel⟩,
   ⟨List.replicate 12 0, row .active, by decide +kernel⟩,
   ⟨List.replicate 11 1, row .active, by decide +kernel⟩,
   ⟨List.replicate 91 9, row .active, by decide +kernel⟩,
   ⟨List.replicate 11 0, 0, row .active, by decide +kernel⟩,
   ⟨[0, 99, 1, 1, 5, 220, 0, 0, 60, 1, 1] ++ [5, 5, 220, 0, 9, 0, 0, 0, 0, 0], 1, row .active, by decide +kernel⟩,
   ⟨[0, 99, 1, 1, 5, 220, 0, 0, 0, 1, 1] ++ [2, 5, 220, 0, 0, 0, 0, 0, 0, 1], 1, row .active, by decide +kernel⟩,
   ⟨[0, 99, 0, 0, 5, 220, 0, 0, 60, 1, 1] ++ [0, 5, 220, 0, 9, 0, 0, 0, 0, 0], 1, row .active, by decide +kernel⟩⟩

theorem test_hyps_vehicle_update_replaces_its_fields :
    (∃ (m e1 e0 : Byte) (x : Session) (s : State),
     s.started = true ∧ s.inUse = true ∧ s.ss.session = some x ∧ (m.getLsbD 0 = true ∨ m.getLsbD 1 = true) ∧
         (m.getLsbD 1 = true → 0 < e1.toNat * 256 + e0.toNat) ∧ s.calm) ∧
    (∃ (m e1 e0 : Byte) (x : Session) (s : State),
     s.started = true ∧ s.inUse = true ∧ s.ss.session = some x ∧ (m.getLsbD 0 = true ∨ m.getLsbD 1 = true) ∧
         (m.getLsbD 1 = true → 0 < e1.toNat * 256 + e0.toNat) ∧ s.calm) ∧
    (∃ (m : Byte) (s : State),
     s.started = true ∧ s.inUse = true ∧ m.getLsbD 0 = false ∧ m.getLsbD 1 = false) ∧
    (∃ (m : Byte) (s : State),
     s.started = true ∧ s.inUse = true ∧ m.getLsbD 1 = true) ∧
    (∃ (m : Byte) (s : State),
     s.started = true ∧ s.inUse = true ∧ m.getLsbD 1 = true) ∧
    (∃ (s : State),
     s.started = true ∧ (s.sessState = .empty ∨ s.sessState = .complete ∨ s.sessState = .ending)) ∧
    (∃ (s : State),
     s.started = true ∧ (s.sessState = .empty ∨ s.sessState = .complete ∨ s.sessState = .ending)) ∧
    (∃ (s : State),
     s.started = true ∧ (s.sessState = .empty ∨ s.sessState = .complete ∨ s.sessState = .ending)) :=
  ⟨⟨3, 0, 1, session0 .charging, withSession .charging (row .active), by decide +kernel⟩,
   ⟨1, 0, 0, session0 (.suspended .trip), withSession (.suspended .trip) (row .tripped), by decide +kernel⟩,
   ⟨4, withSession .charging (row .active), by decide +kernel⟩,
   ⟨2, withSession .charging (row .active), by decide +kernel⟩,
   ⟨3, withSession .charging (row .active), by decide +kernel⟩,
   ⟨row .active, by decide +kernel⟩,
   ⟨withSession .complete (row .active), by decide +kernel⟩,
   ⟨withSession (.ending .undocked .charging) (row .active), by decide +kernel⟩⟩

theorem test_hyps_undock_and_abort_drain_every_holding :
    (∃ (c : Instr) (x : Session) (s : State),
     ((c = .undock (.whole []) ∨ c = .abortSession (.whole [])) ∧ s.started = true ∧ s.ss.session = some x ∧ s.calm) ∧
         s.pendingSettles) ∧
    (∃ (c : Instr) (x : Session) (s : State),
     ((c = .undock (.whole []) ∨ c = .abortSession (.whole [])) ∧ s.started = true ∧ s.ss.session = some x ∧ s.calm) ∧
         s.pendingSettles) ∧
    (∃ (c : Instr) (s : State),
     (c = .undock (.whole []) ∨ c = .abortSession (.whole [])) ∧ s.started = true ∧ s.sessionEnding = true) ∧
    (∃ (c : Instr) (s : State),
     (c = .undock (.whole []) ∨ c = .abortSession (.whole [])) ∧ s.started = true ∧ s.ss.session = none) :=
  ⟨⟨.undock (.whole []), session0 .charging, withSession .charging (holding .active), by decide +kernel,
      State.pendingSettles_of (by decide +kernel)⟩,
   ⟨.abortSession (.whole []), session0 .complete, withSession .complete (holding .isolated), by decide +kernel,
       State.pendingSettles_of (by decide +kernel)⟩,
   ⟨.undock (.whole []), withSession (.ending .aborted .charging) (row .active), by decide +kernel⟩,
   ⟨.abortSession (.whole []), row .active, by decide +kernel⟩⟩

theorem test_hyps_suspend_stops_the_session :
    (∃ (x : Session) (s : State),
     s.started = true ∧ s.ss.session = some x ∧ s.inUse = true ∧ s.calm) ∧
    (∃ (s : State),
     s.started = true ∧ s.inUse = false) :=
  ⟨⟨session0 .charging, withSession .charging (row .active), by decide +kernel⟩,
   ⟨withSession .complete (row .active), by decide +kernel⟩⟩

theorem test_hyps_resume_returns_the_session_to_charging :
    (∃ (x : Session) (st : PlanStep) (s : State),
     s.started = true ∧ s.ss.session = some x ∧ s.sessState = .suspended ∧ s.ci.conv ≠ .fault ∧ s.ci.conv ≠ .lost ∧
         s.mc.mode ≠ .tripped ∧ s.mc.mode ≠ .offline ∧ s.calm ∧ x.step = some st ∧ (st.endAcceptance = 0 ∨
         st.endAcceptance ≤ x.pAcc) ∧ (st.endAtDeadline = false ∨ x.runOut = false) ∧ (st.kind ≠ .halt ∨
         x.entered = true) ∧ 0 < x.eRem) ∧
    (∃ (x : Session) (s : State),
     s.started = true ∧ s.ss.session = some x ∧ s.sessState = .suspended ∧ s.ci.conv ≠ .fault ∧ s.ci.conv ≠ .lost ∧
         s.mc.mode ≠ .tripped ∧ s.mc.mode ≠ .offline ∧ s.calm ∧ s.bookingsNotify ∧ x.eRem = 0) ∧
    (∃ (s : State),
     s.started = true ∧ s.sessState = .suspended ∧ (s.ci.conv = .fault ∨ s.ci.conv = .lost ∨ s.mc.mode = .tripped ∨
         s.mc.mode = .offline ∨ s.mc.isolateReq = true)) ∧
    (∃ (s : State),
     s.started = true ∧ s.sessState = .suspended ∧ (s.ci.conv = .fault ∨ s.ci.conv = .lost ∨ s.mc.mode = .tripped ∨
         s.mc.mode = .offline ∨ s.mc.isolateReq = true)) ∧
    (∃ (s : State),
     s.started = true ∧ s.sessState ≠ .suspended) ∧
    (∃ (s : State),
     s.started = true ∧ s.sessState ≠ .suspended) ∧
    (∃ (x : Session) (st : PlanStep) (s : State),
     s.started = true ∧ s.ss.session = some x ∧ s.sessState = .suspended ∧ s.ci.conv ≠ .fault ∧ s.ci.conv ≠ .lost ∧
         s.mc.mode ≠ .tripped ∧ s.mc.mode ≠ .offline ∧ s.calm ∧ s.bookingsNotify ∧ x.step = some st ∧
         st.kind ≠ .halt ∧ ((0 < st.endAcceptance ∧ x.pAcc < st.endAcceptance) ∨ (st.endAtDeadline = true ∧
         x.runOut = true))) :=
  ⟨⟨session0 (.suspended .command), step0, withSession (.suspended .command) (row .active), by decide +kernel⟩,
   ⟨{ session0 (.suspended .command) with eRem := 0 },
       { row .active with ss := { (row .active).ss with session := some { session0 (.suspended .command) with eRem := 0 } } }, by decide +kernel⟩,
   ⟨withSession (.suspended .trip) (row .tripped), by decide +kernel⟩,
   ⟨withSession (.suspended .converter) (converterAt .fault (row .active)), by decide +kernel⟩,
   ⟨row .active, by decide +kernel⟩,
   ⟨withSession .charging (row .active), by decide +kernel⟩,
   ⟨{ session0 (.suspended .command) with runOut := true }, step0,
       { row .active with ss := { (row .active).ss with session := some { session0 (.suspended .command) with runOut := true } } }, by decide +kernel⟩⟩

theorem test_hyps_budget_offer_queues_its_frame :
    (∃ (h : Byte) (s : State),
     s.working = true ∧ 1 ≤ h.toNat ∧ h.toNat ≤ 60 ∧ s.calm ∧ s.stamped) ∧
    (∃ (h : Byte) (s : State),
     s.working = true ∧ 1 ≤ h.toNat ∧ h.toNat ≤ 60 ∧ s.calm ∧ s.stamped) ∧
    (∃ (h : Byte) (s : State),
     s.working = true ∧ (h.toNat = 0 ∨ 60 < h.toNat)) ∧
    (∃ (h : Byte) (s : State),
     s.working = true ∧ (h.toNat = 0 ∨ 60 < h.toNat)) :=
  ⟨⟨1, row .muted, by decide +kernel⟩,
   ⟨60, row .active, by decide +kernel⟩,
   ⟨0, row .active, by decide +kernel⟩,
   ⟨61, row .active, by decide +kernel⟩⟩

theorem test_hyps_isolate_begins_the_isolate_drain :
    (∃ (c : Instr) (s : State),
     ((c = .isolate (.whole []) ∨ c = .offlineAsserted) ∧ s.working = true ∧ s.mc.isolateReq = false ∧
         s.mc.restarting = false ∧ s.mc.leaving = false ∧ s.sessionEnding = false ∧ (¬(s.ci.conv = .lost ∧
         s.ci.lostQuiesce = .expired))) ∧ s.pendingSettles) ∧
    (∃ (c : Instr) (s : State),
     ((c = .isolate (.whole []) ∨ c = .offlineAsserted) ∧ s.working = true ∧ s.mc.isolateReq = false ∧
         s.mc.restarting = false ∧ s.mc.leaving = false ∧ s.sessionEnding = false ∧ (¬(s.ci.conv = .lost ∧
         s.ci.lostQuiesce = .expired))) ∧ s.pendingSettles) ∧
    (∃ (s : State),
     (s.mc.mode = .listening ∨ s.mc.mode = .tripped) ∧ s.calm) ∧
    (∃ (s : State),
     (s.mc.mode = .listening ∨ s.mc.mode = .tripped) ∧ s.calm) ∧
    (∃ (s : State),
     s.started = true ∧ (s.mc.mode = .offline ∨ s.mc.isolateReq = true)) ∧
    (∃ (s : State),
     (s.working = false ∨ s.mc.isolateReq = true)) :=
  ⟨⟨.isolate (.whole []), holding .active, by decide +kernel, State.pendingSettles_of (by decide +kernel)⟩,
   ⟨.offlineAsserted, row .muted, by decide +kernel, State.pendingSettles_of (by decide +kernel)⟩,
   ⟨row .listening, by decide +kernel⟩,
   ⟨row .tripped, by decide +kernel⟩,
   ⟨row .offline, by decide +kernel⟩,
   ⟨row .listening, by decide +kernel⟩⟩

theorem test_hyps_rejoin_enters_active :
    (∃ (s : State),
     s.mc.mode = .offline ∧ s.mc.duplicate = false ∧ s.mc.restarting = false ∧ s.sessionEnding = false ∧
         (¬(s.ci.conv = .lost ∧ s.ci.lostQuiesce = .expired)) ∧ s.pendingCount = 0 ∧ s.sweepPermitted) ∧
    (∃ (s : State),
     (s.mc.mode = .listening ∨ s.mc.mode = .tripped) ∧ s.mc.duplicate = false) ∧
    (∃ (s : State),
     (s.mc.mode = .listening ∨ s.mc.mode = .tripped) ∧ s.mc.duplicate = false) ∧
    (∃ (level : Bool) (s : State),
     (s.mc.mode = .listening ∨ s.mc.mode = .offline ∨ s.mc.mode = .tripped) ∧ (s.mc.duplicate = true ∨
         level = true)) ∧
    (∃ (level : Bool) (s : State),
     (s.mc.mode = .listening ∨ s.mc.mode = .offline ∨ s.mc.mode = .tripped) ∧ (s.mc.duplicate = true ∨
         level = true)) :=
  ⟨⟨row .offline, by decide +kernel⟩,
   ⟨row .listening, by decide +kernel⟩,
   ⟨row .tripped, by decide +kernel⟩,
   ⟨true, row .offline, by decide +kernel⟩,
   ⟨false, duplicated (row .offline), by decide +kernel⟩⟩

theorem test_hyps_restart_reaches_its_clearing_point :
    (∃ (s : State),
     (s.mc.mode = .listening ∧ s.io.trip = false ∨ s.mc.mode = .tripped) ∧ s.mc.restarting = false) ∧
    (∃ (s : State),
     (s.mc.mode = .listening ∧ s.io.trip = false ∨ s.mc.mode = .tripped) ∧ s.mc.restarting = false) ∧
    (∃ (s : State),
     ((s.working = true ∨ s.mc.mode = .offline) ∧ s.mc.restarting = false ∧ 0 < s.mineCount + s.drainingCount ∧
         s.mc.leaving = false ∧ (¬(s.ci.conv = .lost ∧ s.ci.lostQuiesce = .expired))) ∧ s.pendingSettles) ∧
    (∃ (s : State),
     ((s.working = true ∨ s.mc.mode = .offline) ∧ s.mc.restarting = false ∧ 0 < s.mineCount + s.drainingCount ∧
         s.mc.leaving = false ∧ (¬(s.ci.conv = .lost ∧ s.ci.lostQuiesce = .expired))) ∧ s.pendingSettles) ∧
    (∃ (s : State),
     ((s.working = true ∨ s.mc.mode = .offline) ∧ s.mc.restarting = false ∧ 0 < s.mineCount + s.drainingCount ∧
         s.mc.leaving = false ∧ (¬(s.ci.conv = .lost ∧ s.ci.lostQuiesce = .expired))) ∧ s.pendingSettles) ∧
    (∃ (s : State),
     ((s.working = true ∨ s.mc.mode = .offline) ∧ s.mc.restarting = false ∧ s.mineCount = 0 ∧ s.drainingCount = 0 ∧
         s.noClaimAwaiting = true ∧ s.mc.leaving = false ∧ s.lc.tx = .on ∧ s.pendingCount ≤ 8 ∧
         s.lc.queue.length < 7 ∧ s.lc.waiting = []) ∧ s.pendingSettles) ∧
    (∃ (s : State),
     ((s.working = true ∨ s.mc.mode = .offline) ∧ s.mc.restarting = false ∧ s.mineCount = 0 ∧ s.drainingCount = 0 ∧
         s.noClaimAwaiting = true ∧ s.mc.leaving = false ∧ s.lc.tx = .on ∧ s.pendingCount ≤ 8 ∧
         s.lc.queue.length < 7 ∧ s.lc.waiting = []) ∧ s.pendingSettles) ∧
    (∃ (s : State),
     ((s.working = true ∨ s.mc.mode = .offline) ∧ s.mc.restarting = false ∧ s.mineCount = 0 ∧ s.drainingCount = 0 ∧
         s.noClaimAwaiting = true ∧ s.mc.leaving = false ∧ s.lc.tx ≠ .on ∧ s.io.trip = false) ∧ s.pendingSettles) ∧
    (∃ (s : State),
     ((s.working = true ∨ s.mc.mode = .offline) ∧ s.mc.restarting = false ∧ s.mineCount = 0 ∧ s.drainingCount = 0 ∧
         s.noClaimAwaiting = true ∧ s.mc.leaving = false ∧ s.lc.tx ≠ .on ∧ s.io.trip = false) ∧ s.pendingSettles) :=
  ⟨⟨row .listening, by decide +kernel⟩,
   ⟨row .tripped, by decide +kernel⟩,
   ⟨holding .active, by decide +kernel, State.pendingSettles_of (by decide +kernel)⟩,
   ⟨holding .offline, by decide +kernel, State.pendingSettles_of (by decide +kernel)⟩,
   ⟨draining36 .active, by decide +kernel, State.pendingSettles_of (by decide +kernel)⟩,
   ⟨row .active, by decide +kernel, State.pendingSettles_of (by decide +kernel)⟩,
   ⟨settling35 .isolated, by decide +kernel, State.pendingSettles_of (by decide +kernel)⟩,
   ⟨row .offline, by decide +kernel, State.pendingSettles_of (by decide +kernel)⟩,
   ⟨settling35 .muted, by decide +kernel, State.pendingSettles_of (by decide +kernel)⟩⟩

theorem test_hyps_claim_heard_takes_free_quanta :
    (∃ (sender : BitVec 5) (p : List Byte) (x : Peer) (s : State),
     s.hears sender.toNat x ∧ s.calm ∧ x.state ≠ .mismatched ∧ 1 ≤ p.length ∧ p.length ≤ 8 ∧ s.stamped) ∧
    (∃ (sender : BitVec 5) (p : List Byte) (x : Peer) (s : State),
     s.hears sender.toNat x ∧ s.calm ∧ x.state ≠ .mismatched ∧ 1 ≤ p.length ∧ p.length ≤ 8 ∧ s.stamped) ∧
    (∃ (sender : BitVec 5) (p : List Byte) (x : Peer) (s : State),
     s.hears sender.toNat x ∧ s.calm ∧ x.state = .mismatched ∧ 1 ≤ p.length ∧ p.length ≤ 8) ∧
    (∃ (sender : BitVec 5) (p : List Byte) (s : State),
     s.started = true ∧ (s.mc.mode = .tripped ∨ s.conf.nSt ≤ sender.toNat) ∧ sender.toNat ≠ s.own ∧ 1 ≤ p.length ∧
         p.length ≤ 8 ∧ s.calm) ∧
    (∃ (sender : BitVec 5) (p : List Byte) (s : State),
     s.started = true ∧ (s.mc.mode = .tripped ∨ s.conf.nSt ≤ sender.toNat) ∧ sender.toNat ≠ s.own ∧ 1 ≤ p.length ∧
         p.length ≤ 8 ∧ s.calm) ∧
    (∃ (sender : BitVec 5) (p : List Byte) (s : State),
     s.started = true ∧ (s.mc.mode = .tripped ∨ s.conf.nSt ≤ sender.toNat) ∧ sender.toNat ≠ s.own ∧ 1 ≤ p.length ∧
         p.length ≤ 8 ∧ s.calm) :=
  ⟨⟨5, [8, 12, 13, 14, 47, 48, 127, 200], peer5 .live, holding .active, by decide +kernel⟩,
   ⟨5, [8], peer5 .expelled, heldBy5 .expelled .listening, by decide +kernel⟩,
   ⟨5, [8, 12, 200], peer5 .mismatched, heldBy5 .mismatched .active, by decide +kernel⟩,
   ⟨5, [8, 12], row .tripped, by decide +kernel⟩,
   ⟨16, [8], holding .active, by decide +kernel⟩,
   ⟨31, [8], row .listening, by decide +kernel⟩⟩

theorem test_hyps_contest_heard_applies_the_conflict_rule :
    (∃ (sender : BitVec 5) (p : List Byte) (x : Peer) (s : State),
     (s.hears sender.toNat x ∧ s.calm ∧ x.state ≠ .mismatched ∧ 1 ≤ p.length ∧ p.length ≤ 8 ∧ s.shaped ∧ s.stamped) ∧
         s.pendingSettles) ∧
    (∃ (sender : BitVec 5) (p : List Byte) (x : Peer) (s : State),
     s.hears sender.toNat x ∧ s.calm ∧ x.state = .mismatched ∧ 1 ≤ p.length ∧ p.length ≤ 8) ∧
    (∃ (sender : BitVec 5) (p : List Byte) (s : State),
     s.started = true ∧ (s.mc.mode = .tripped ∨ s.conf.nSt ≤ sender.toNat) ∧ sender.toNat ≠ s.own ∧ 1 ≤ p.length ∧
         p.length ≤ 8 ∧ s.calm) ∧
    (∃ (sender : BitVec 5) (p : List Byte) (s : State),
     s.started = true ∧ (s.mc.mode = .tripped ∨ s.conf.nSt ≤ sender.toNat) ∧ sender.toNat ≠ s.own ∧ 1 ≤ p.length ∧
         p.length ≤ 8 ∧ s.calm) ∧
    (∃ (sender : BitVec 5) (p : List Byte) (s : State),
     s.started = true ∧ (s.mc.mode = .tripped ∨ s.conf.nSt ≤ sender.toNat) ∧ sender.toNat ≠ s.own ∧ 1 ≤ p.length ∧
         p.length ≤ 8 ∧ s.calm) :=
  ⟨⟨5, [8, 10, 12, 35, 47, 48, 127, 200], peer5 .live, holding .active, by decide +kernel,
      State.pendingSettles_of (by decide +kernel)⟩,
   ⟨5, [8, 12, 200], peer5 .mismatched, heldBy5 .mismatched .active, by decide +kernel⟩,
   ⟨5, [8, 12], row .tripped, by decide +kernel⟩,
   ⟨16, [8], holding .active, by decide +kernel⟩,
   ⟨31, [8], row .listening, by decide +kernel⟩⟩

theorem test_hyps_release_heard_frees_or_passes_quanta :
    (∃ (sender : BitVec 5) (b : Byte) (p : List Byte) (x : Peer) (v : Option Nat) (s : State),
     s.hears sender.toNat x ∧ s.calm ∧ x.state ≠ .mismatched ∧ 1 ≤ p.length ∧ p.length ≤ 8 ∧ s.map.length = 128 ∧
         (v = (if b.toNat = 255 ∨ s.conf.nSt ≤ b.toNat ∨ b.toNat = sender.toNat then none
         else if b.toNat = s.own ∨ s.peerIs b.toNat .live = true ∨
             s.peerIs b.toNat .silent = true then some b.toNat else none))) ∧
    (∃ (sender : BitVec 5) (b : Byte) (p : List Byte) (x : Peer) (v : Option Nat) (s : State),
     s.hears sender.toNat x ∧ s.calm ∧ x.state ≠ .mismatched ∧ 1 ≤ p.length ∧ p.length ≤ 8 ∧ s.map.length = 128 ∧
         (v = (if b.toNat = 255 ∨ s.conf.nSt ≤ b.toNat ∨ b.toNat = sender.toNat then none
         else if b.toNat = s.own ∨ s.peerIs b.toNat .live = true ∨
             s.peerIs b.toNat .silent = true then some b.toNat else none))) ∧
    (∃ (sender : BitVec 5) (b : Byte) (p : List Byte) (x : Peer) (v : Option Nat) (s : State),
     s.hears sender.toNat x ∧ s.calm ∧ x.state ≠ .mismatched ∧ 1 ≤ p.length ∧ p.length ≤ 8 ∧ s.map.length = 128 ∧
         (v = (if b.toNat = 255 ∨ s.conf.nSt ≤ b.toNat ∨ b.toNat = sender.toNat then none
         else if b.toNat = s.own ∨ s.peerIs b.toNat .live = true ∨
             s.peerIs b.toNat .silent = true then some b.toNat else none))) ∧
    (∃ (sender : BitVec 5) (p : List Byte) (x : Peer) (s : State),
     s.hears sender.toNat x ∧ s.calm ∧ x.state = .mismatched ∧ 1 ≤ p.length ∧ p.length ≤ 8) ∧
    (∃ (sender : BitVec 5) (p : List Byte) (s : State),
     s.started = true ∧ (s.mc.mode = .tripped ∨ s.conf.nSt ≤ sender.toNat) ∧ sender.toNat ≠ s.own ∧ 1 ≤ p.length ∧
         p.length ≤ 8 ∧ s.calm) ∧
    (∃ (sender : BitVec 5) (p : List Byte) (s : State),
     s.started = true ∧ (s.mc.mode = .tripped ∨ s.conf.nSt ≤ sender.toNat) ∧ sender.toNat ≠ s.own ∧ 1 ≤ p.length ∧
         p.length ≤ 8 ∧ s.calm) :=
  ⟨⟨5, 4, [12], peer5 .live, some 4, heldBy5 .live .active, by decide +kernel⟩,
   ⟨5, 255, [12], peer5 .live, none, heldBy5 .live .active, by decide +kernel⟩,
   ⟨5, 15, [12, 11], peer5 .live, none, heldBy5 .live .offline, by decide +kernel⟩,
   ⟨5, [12], peer5 .mismatched, heldBy5 .mismatched .active, by decide +kernel⟩,
   ⟨5, [12], row .tripped, by decide +kernel⟩,
   ⟨16, [12], heldBy5 .live .active, by decide +kernel⟩⟩

theorem test_hyps_report_heard_records_bid_and_holdings :
    (∃ (sender : BitVec 5) (p : List Byte) (x : Peer) (s : State),
     (s.hears sender.toNat x ∧ s.calm ∧ p.length = 26 ∧ s.cpi.fingerprint = some (BitVec.ofNat 16 (at2 p 24)) ∧
         s.shaped) ∧ s.pendingSettles) ∧
    (∃ (sender : BitVec 5) (p : List Byte) (x : Peer) (s : State),
     s.hears sender.toNat x ∧ s.calm ∧ p.length = 26 ∧ s.cpi.fingerprint ≠ some (BitVec.ofNat 16 (at2 p 24))) :=
  ⟨⟨5, [9, 1, 5, 15, 2, 1, 0, 99, 0, 12] ++ List.replicate 14 0 ++ [0x12, 0x34], peer5 .live, holding .active,
      by decide +kernel, State.pendingSettles_of (by decide +kernel)⟩,
   ⟨5, [9, 1, 5, 15, 2, 1, 0, 99, 0, 12] ++ List.replicate 14 0 ++ [0x12, 0x35], peer5 .live, holding .active,
       by decide +kernel⟩⟩

theorem test_hyps_join_and_leave_heard_move_the_entry :
    (∃ (sender : BitVec 5) (p : List Byte) (x : Peer) (s : State),
     s.hears sender.toNat x ∧ s.calm ∧ p.length = 4) ∧
    (∃ (sender : BitVec 5) (x : Peer) (s : State),
     s.hears sender.toNat x ∧ s.calm) :=
  ⟨⟨5, [0x12, 0x34, 16, 2], peer5 .left, heldBy5 .left .active, by decide +kernel⟩,
   ⟨5, peer5 .live, heldBy5 .live .active, by decide +kernel⟩⟩

theorem test_hyps_budget_heard_takes_the_offer :
    (∃ (sender : BitVec 5) (value seq hold : Byte) (x : Peer) (o : Offer) (s : State),
     (s.hears sender.toNat x ∧ s.calm ∧ x.state ≠ .mismatched ∧ s.shaped) ∧ (o = {
        source := sender.toNat, value := min s.conf.bCfg value.toNat, seq := seq.toNat
        expiry := s.now - s.bk.startAt + max 1 (min 60 hold.toNat) * 1000 })) ∧
    (∃ (sender : BitVec 5) (value seq hold : Byte) (x : Peer) (o : Offer) (s : State),
     (s.hears sender.toNat x ∧ s.calm ∧ x.state ≠ .mismatched ∧ s.shaped) ∧ (o = {
        source := sender.toNat, value := min s.conf.bCfg value.toNat, seq := seq.toNat
        expiry := s.now - s.bk.startAt + max 1 (min 60 hold.toNat) * 1000 })) ∧
    (∃ (sender : BitVec 5) (source : Byte) (x : Peer) (s : State),
     s.hears sender.toNat x ∧ s.calm ∧ (x.state = .mismatched ∨ source.toNat ≠ sender.toNat)) :=
  ⟨⟨5, 40, 17, 30, peer5 .live, _, fallTo40, by decide +kernel, rfl⟩,
   ⟨5, 38, 18, 0, peer5 .live, _, withOffers [⟨5, 40, 17, 30000⟩] (row .active), by decide +kernel, rfl⟩,
   ⟨5, 6, peer5 .live, row .active, by decide +kernel⟩⟩

theorem test_hyps_yield_request_heard_is_answered :
    (∃ (sender : BitVec 5) (c : Byte) (x : Peer) (granted : List Nat) (s : State),
     (s.hears sender.toNat x ∧ s.calm ∧ (x.state = .live ∨ x.state = .silent ∨ x.state = .expelled) ∧
         (s.mc.mode = .active ∨ s.mc.mode = .isolated) ∧ 1 ≤ c.toNat ∧ c.toNat ≤ 8 ∧ s.own < 32 ∧ s.shaped ∧
         s.stamped) ∧ (granted = (((List.range 128).filter fun q => s.entry q == .mine && !s.ownHome q).reverse).take
        (min c.toNat (s.heldCount - s.recordTarget -
          ((List.range 128).filter fun q => match s.entry q with
            | .draining .yield (some _) => true
            | .draining .conflict (some _) => true
            | _ => false).length)))) ∧
    (∃ (sender : BitVec 5) (c : Byte) (x : Peer) (granted : List Nat) (s : State),
     (s.hears sender.toNat x ∧ s.calm ∧ (x.state = .live ∨ x.state = .silent ∨ x.state = .expelled) ∧
         (s.mc.mode = .active ∨ s.mc.mode = .isolated) ∧ 1 ≤ c.toNat ∧ c.toNat ≤ 8 ∧ s.own < 32 ∧ s.shaped ∧
         s.stamped) ∧ (granted = (((List.range 128).filter fun q => s.entry q == .mine && !s.ownHome q).reverse).take
        (min c.toNat (s.heldCount - s.recordTarget -
          ((List.range 128).filter fun q => match s.entry q with
            | .draining .yield (some _) => true
            | .draining .conflict (some _) => true
            | _ => false).length)))) ∧
    (∃ (sender : BitVec 5) (c : Byte) (x : Peer) (granted : List Nat) (s : State),
     (s.hears sender.toNat x ∧ s.calm ∧ (x.state = .live ∨ x.state = .silent ∨ x.state = .expelled) ∧
         (s.mc.mode = .active ∨ s.mc.mode = .isolated) ∧ 1 ≤ c.toNat ∧ c.toNat ≤ 8 ∧ s.own < 32 ∧ s.shaped ∧
         s.stamped) ∧ (granted = (((List.range 128).filter fun q => s.entry q == .mine && !s.ownHome q).reverse).take
        (min c.toNat (s.heldCount - s.recordTarget -
          ((List.range 128).filter fun q => match s.entry q with
            | .draining .yield (some _) => true
            | .draining .conflict (some _) => true
            | _ => false).length)))) ∧
    (∃ (sender : BitVec 5) (c : Byte) (p : List Byte) (x : Peer) (s : State),
     (s.hears sender.toNat x ∧ s.calm ∧ (x.state = .live ∨ x.state = .silent ∨ x.state = .expelled) ∧
         (s.mc.mode = .active ∨ s.mc.mode = .isolated) ∧ 1 ≤ c.toNat ∧ c.toNat ≤ 8 ∧ p.length = c.toNat ∧
         s.own < 32 ∧ s.shaped ∧ s.stamped) ∧ s.pendingSettles) ∧
    (∃ (sender : BitVec 5) (g c : Byte) (x : Peer) (s : State),
     s.hears sender.toNat x ∧ s.calm ∧ 1 ≤ c.toNat ∧ c.toNat ≤ 8 ∧ (g.toNat ≠ s.own ∨ s.mc.mode = .listening ∨
         s.mc.mode = .muted ∨ s.mc.mode = .offline)) ∧
    (∃ (sender : BitVec 5) (g c : Byte) (x : Peer) (s : State),
     s.hears sender.toNat x ∧ s.calm ∧ 1 ≤ c.toNat ∧ c.toNat ≤ 8 ∧ (g.toNat ≠ s.own ∨ s.mc.mode = .listening ∨
         s.mc.mode = .muted ∨ s.mc.mode = .offline)) :=
  ⟨⟨5, 8, peer5 .silent, _, heldBy5 .silent .active, by decide +kernel, rfl⟩,
   ⟨5, 8, peer5 .live, _, holding .active, by decide +kernel, rfl⟩,
   ⟨5, 1, peer5 .live, _, holding .isolated, by decide +kernel, rfl⟩,
   ⟨5, 2, [10, 11], peer5 .live, holding .active, by decide +kernel, State.pendingSettles_of (by decide +kernel)⟩,
   ⟨5, 5, 1, peer5 .live, holding .active, by decide +kernel⟩,
   ⟨5, 4, 8, peer5 .live, row .muted, by decide +kernel⟩⟩

theorem test_hyps_yield_answer_heard_marks_the_promise :
    (∃ (sender : BitVec 5) (n : Byte) (p : List Byte) (x : Peer) (s : State),
     s.hears sender.toNat x ∧ s.calm ∧ n.toNat ≤ 8 ∧ p.length = n.toNat ∧ s.own < 32 ∧ s.working = true) ∧
    (∃ (sender : BitVec 5) (n : Byte) (p : List Byte) (x : Peer) (s : State),
     s.hears sender.toNat x ∧ s.calm ∧ n.toNat ≤ 8 ∧ p.length = n.toNat ∧ s.own < 32 ∧ s.working = true) ∧
    (∃ (sender : BitVec 5) (n : Byte) (p : List Byte) (x : Peer) (s : State),
     s.hears sender.toNat x ∧ s.calm ∧ n.toNat ≤ 8 ∧ p.length = n.toNat ∧ s.own < 32 ∧ s.working = false) :=
  ⟨⟨5, 1, [12], peer5 .live, heldBy5 .live .active, by decide +kernel⟩,
   ⟨5, 0, [], peer5 .live, heldBy5 .live .muted, by decide +kernel⟩,
   ⟨5, 8, List.replicate 8 12, peer5 .live, heldBy5 .live .offline, by decide +kernel⟩⟩

theorem test_hyps_duplicate_frame_withdraws_the_station :
    (∃ (s : State),
     (s.takesFrames = true ∧ s.mc.duplicate = false ∧ s.mc.restarting = false ∧ s.sessionEnding = false ∧
         (¬(s.ci.conv = .lost ∧ s.ci.lostQuiesce = .expired))) ∧ s.pendingSettles) ∧
    (∃ (s : State),
     s.started = true ∧ s.calm ∧ (s.takesFrames = false ∨ s.mc.duplicate = true)) ∧
    (∃ (s : State),
     s.started = true ∧ s.calm ∧ (s.takesFrames = false ∨ s.mc.duplicate = true)) :=
  ⟨⟨holding .active, by decide +kernel, State.pendingSettles_of (by decide +kernel)⟩,
   ⟨duplicated (row .offline), by decide +kernel⟩,
   ⟨row .tripped, by decide +kernel⟩⟩

theorem test_hyps_receive_errors_are_counted :
    (∃ (c : Instr) (s : State),
     (c = .receiveError ∨ c = .dominantRun) ∧ s.started = true ∧ s.calm) ∧
    (∃ (c : Instr) (s : State),
     (c = .receiveError ∨ c = .dominantRun) ∧ s.started = true ∧ s.calm) ∧
    (∃ (c : Instr) (s : State),
     (c = .receiveError ∨ c = .dominantRun) ∧ s.started = false) :=
  ⟨⟨.receiveError, rxState 7 65535, by decide +kernel⟩,
   ⟨.dominantRun, rxState 6 0, by decide +kernel⟩,
   ⟨.receiveError, row .configured, by decide +kernel⟩⟩

theorem test_hyps_trip_wipes_the_station :
    (∃ (c : Instr) (s : State),
     ((c = .tripAsserted ∧ s.io.trip = false) ∨ c = .breakDetected) ∧ s.takesFrames = true ∧
         s.mc.restarting = false) ∧
    (∃ (c : Instr) (s : State),
     ((c = .tripAsserted ∧ s.io.trip = false) ∨ c = .breakDetected) ∧ s.takesFrames = true ∧
         s.mc.restarting = false) ∧
    (∃ (s : State),
     s.started = false ∧ s.io.trip = false) ∧
    (∃ (s : State),
     s.started = false) ∧
    (∃ (s : State),
     s.mc.mode = .tripped ∧ s.io.trip = false ∧ s.sessionEnding = false ∧ (¬(s.ci.conv = .lost ∧
         s.ci.lostQuiesce = .expired))) ∧
    (∃ (c : Instr) (s : State),
     ((c = .tripAsserted ∧ s.io.trip = false) ∨ c = .breakDetected) ∧ s.takesFrames = true ∧ s.mc.restarting = true) ∧
    (∃ (c : Instr) (s : State),
     ((c = .tripAsserted ∧ s.io.trip = false) ∨ c = .breakDetected) ∧ s.takesFrames = true ∧ s.mc.restarting = true) ∧
    (∃ (s : State),
     s.mc.mode = .tripped) :=
  ⟨⟨.tripAsserted, holding .active, by decide +kernel⟩,
   ⟨.breakDetected, holding .isolated, by decide +kernel⟩,
   ⟨row .configured, by decide +kernel⟩,
   ⟨State.reset, by decide +kernel⟩,
   ⟨row .tripped, by decide +kernel⟩,
   ⟨.tripAsserted, restarting (holding .active), by decide +kernel⟩,
   ⟨.breakDetected, restarting (row .offline), by decide +kernel⟩,
   ⟨row .tripped, by decide +kernel⟩⟩

theorem test_hyps_trip_and_mute_hold_timers_run_and_expire :
    (∃ (s : State),
     s.io.trip = true) ∧
    (∃ (s : State),
     s.started = true ∧ s.mc.breakOn = true) ∧
    (∃ (T : Nat) (a s : State),
     (s.mc.mode = .tripped ∧ s.mc.tripHoldAt = some T ∧ s.io.trip = false ∧ s.calm) ∧ a = s.atTime T) ∧
    (∃ (T : Nat) (s : State),
     s.mc.mode = .muted ∧ s.lc.muteAt = some T) :=
  ⟨⟨tripLevel true (row .tripped), by decide +kernel⟩,
   ⟨breakLevel (row .tripped), by decide +kernel⟩,
   ⟨6000, _, tripHoldTo 6000, by decide +kernel, rfl⟩,
   ⟨6000, { row .muted with lc := { (row .muted).lc with muteAt := some 6000 } }, by decide +kernel⟩⟩

theorem test_hyps_attempt_start_puts_the_head_on_the_line :
    (∃ (x : QFrame) (rest : List QFrame) (a s : State),
     (s.lc.attempt = none ∧ s.lc.tx = .on ∧ s.lc.queue = x :: rest) ∧ a = s.pass s.gapWait ∧
         12 ≤ a.lc.quietUs / (s.conf.d + 1)) ∧
    (∃ (x : QFrame) (rest : List QFrame) (a s : State),
     (s.lc.attempt = none ∧ s.lc.tx = .on ∧ s.lc.queue = x :: rest) ∧ a = s.pass s.gapWait ∧
         12 ≤ a.lc.quietUs / (s.conf.d + 1)) ∧
    (∃ (a s : State),
     (s.lc.attempt = none ∧ s.lc.tx = .probe ∧ s.lc.probeDue = true) ∧ a = s.pass s.gapWait ∧
         12 ≤ a.lc.quietUs / (s.conf.d + 1)) ∧
    (∃ (a s : State),
     a = s.pass s.gapWait ∧ (a.lc.quietUs / (s.conf.d + 1) < 12 ∨ s.lc.attempt ≠ none ∨ s.lc.tx = .off ∨
         (s.lc.tx = .on ∧ s.lc.queue = []) ∨ (s.lc.tx = .probe ∧ s.lc.probeDue = false))) ∧
    (∃ (a s : State),
     a = s.pass s.gapWait ∧ (a.lc.quietUs / (s.conf.d + 1) < 12 ∨ s.lc.attempt ≠ none ∨ s.lc.tx = .off ∨
         (s.lc.tx = .on ∧ s.lc.queue = []) ∨ (s.lc.tx = .probe ∧ s.lc.probeDue = false))) ∧
    (∃ (a s : State),
     a = s.pass s.gapWait ∧ (a.lc.quietUs / (s.conf.d + 1) < 12 ∨ s.lc.attempt ≠ none ∨ s.lc.tx = .off ∨
         (s.lc.tx = .on ∧ s.lc.queue = []) ∨ (s.lc.tx = .probe ∧ s.lc.probeDue = false))) ∧
    (∃ (a s : State),
     a = s.pass s.gapWait ∧ (a.lc.quietUs / (s.conf.d + 1) < 12 ∨ s.lc.attempt ≠ none ∨ s.lc.tx = .off ∨
         (s.lc.tx = .on ∧ s.lc.queue = []) ∨ (s.lc.tx = .probe ∧ s.lc.probeDue = false))) ∧
    (∃ (a s : State),
     a = s.pass s.gapWait ∧ (a.lc.quietUs / (s.conf.d + 1) < 12 ∨ s.lc.attempt ≠ none ∨ s.lc.tx = .off ∨
         (s.lc.tx = .on ∧ s.lc.queue = []) ∨ (s.lc.tx = .probe ∧ s.lc.probeDue = false))) ∧
    (∃ (a s : State),
     (s.started = true ∧ s.mc.breakOn = false ∧ s.lc.attempt = none ∧ s.lc.heldUs = 0 ∧ s.lc.line = []) ∧
         a = s.pass s.gapWait) ∧
    (∃ (l : Level) (rest : List Level) (s : State),
     s.started = true ∧ s.mc.breakOn = false ∧ s.lc.attempt = none ∧ s.lc.heldUs = 0 ∧ s.lc.line = l :: rest ∧
         s.lc.lineUs = 0) ∧
    (∃ (l : Level) (rest : List Level) (s : State),
     s.started = true ∧ s.mc.breakOn = false ∧ s.lc.attempt = none ∧ s.lc.heldUs = 0 ∧ s.lc.line = l :: rest ∧
         s.lc.lineUs = 0) :=
  ⟨⟨⟨3, .leave, 3⟩, [], _, quiet (queued .leave 3 none .active), by decide +kernel, rfl, by decide +kernel⟩,
   ⟨⟨3, .leave, 3⟩, [], _, queued .leave 3 none .active, by decide +kernel, rfl, by decide +kernel⟩,
   ⟨_, quiet { row .muted with lc := { (row .muted).lc with probeDue := true } }, by decide +kernel, rfl,
       by decide +kernel⟩,
   ⟨_, quiet (row .active), rfl, by decide +kernel⟩,
   ⟨_, quiet (row .muted), rfl, by decide +kernel⟩,
   ⟨_, quiet (row .listening), rfl, by decide +kernel⟩,
   ⟨_, quiet (probing 1), rfl, by decide +kernel⟩,
   ⟨_, told (frameLevels 5 .leave) (queued .leave 3 none .active), rfl, by decide +kernel⟩,
   ⟨_, quiet (row .active), by decide +kernel, rfl⟩,
   ⟨.recessive, [], told [.recessive] (row .active), by decide +kernel⟩,
   ⟨.dominant, (frameLevels 5 .leave).tail, told (frameLevels 5 .leave) (row .active), by decide +kernel⟩⟩

theorem test_hyps_good_echo_applies_the_own_frame :
    (∃ (qs old : List Nat) (id us : Nat) (last : Bool) (x : QFrame) (s : State),
     s.lc.attempt = some (.frame id us last) ∧ s.lc.queue.find? (fun y => y.id == id) = some x ∧
         s.takesFrames = true ∧ s.calm ∧ s.stamped ∧ x.frame = .claim qs ∧ s.hc.claim = some (.queued old)) ∧
    (∃ (v : Option Nat) (qs : List Nat) (id us : Nat) (last : Bool) (x : QFrame) (s : State),
     s.lc.attempt = some (.frame id us last) ∧ s.lc.queue.find? (fun y => y.id == id) = some x ∧
         s.takesFrames = true ∧ s.calm ∧ s.stamped ∧ x.frame = .release v qs ∧ s.shaped) ∧
    (∃ (v : Option Nat) (qs : List Nat) (why : EndReason) (left : SessState) (y : Session) (id us : Nat) (last : Bool) (x : QFrame) (s : State),
     s.lc.attempt = some (.frame id us last) ∧ s.lc.queue.find? (fun y => y.id == id) = some x ∧
         s.takesFrames = true ∧ s.mc.isolateReq = false ∧ s.mc.restarting = false ∧ (¬(s.ci.conv = .lost ∧
         s.ci.lostQuiesce = .expired)) ∧ x.frame = .release v qs ∧ s.shaped ∧ s.ss.session = some y ∧
         y.phase = .ending why left ∧ s.mineCount = 0 ∧ s.pendingCount = 0 ∧ s.noClaimAwaiting = true ∧ (∀ q,
         q < 128 → (s.entry q).isDraining = true → q ∈ qs ∧ q < s.conf.bCfg)) ∧
    (∃ (value seq hold : Nat) (o : Offer) (id us : Nat) (last : Bool) (x : QFrame) (s : State),
     (s.lc.attempt = some (.frame id us last) ∧ s.lc.queue.find? (fun y => y.id == id) = some x ∧
         s.takesFrames = true ∧ s.calm ∧ s.stamped ∧ x.frame = .budget s.own value seq hold ∧ s.shaped ∧
         s.own < s.conf.nSt ∧ s.peerIs s.own .mismatched = false) ∧ (o = {
        source := s.own, value := min s.conf.bCfg value, seq := seq
        expiry := s.now - s.bk.startAt + max 1 (min 60 hold) * 1000 })) ∧
    (∃ (value seq hold : Nat) (o : Offer) (id us : Nat) (last : Bool) (x : QFrame) (s : State),
     (s.lc.attempt = some (.frame id us last) ∧ s.lc.queue.find? (fun y => y.id == id) = some x ∧
         s.takesFrames = true ∧ s.calm ∧ s.stamped ∧ x.frame = .budget s.own value seq hold ∧ s.shaped ∧
         s.own < s.conf.nSt ∧ s.peerIs s.own .mismatched = false) ∧ (o = {
        source := s.own, value := min s.conf.bCfg value, seq := seq
        expiry := s.now - s.bk.startAt + max 1 (min 60 hold) * 1000 })) ∧
    (∃ (value seq hold : Nat) (o : Offer) (id us : Nat) (last : Bool) (x : QFrame) (s : State),
     (s.lc.attempt = some (.frame id us last) ∧ s.lc.queue.find? (fun y => y.id == id) = some x ∧
         s.takesFrames = true ∧ s.calm ∧ s.stamped ∧ x.frame = .budget s.own value seq hold ∧ s.shaped ∧
         s.own < s.conf.nSt ∧ s.peerIs s.own .mismatched = false) ∧ (o = {
        source := s.own, value := min s.conf.bCfg value, seq := seq
        expiry := s.now - s.bk.startAt + max 1 (min 60 hold) * 1000 })) ∧
    (∃ (id us : Nat) (last : Bool) (x : QFrame) (s : State),
     s.lc.attempt = some (.frame id us last) ∧ s.lc.queue.find? (fun y => y.id == id) = some x ∧
         s.takesFrames = true ∧ s.calm ∧ s.stamped ∧ kindOf x.frame ≠ .claim ∧ kindOf x.frame ≠ .release ∧
         kindOf x.frame ≠ .budget) ∧
    (∃ (join : Frame) (us : Nat) (s : State),
     s.lc.attempt = some (.probe join us false) ∧ s.mc.mode = .muted ∧ s.calm) :=
  ⟨⟨[12, 47], [12, 47], 3, 1, false, ⟨3, .claim [12, 47], 0⟩, claimQueued, by decide +kernel⟩,
   ⟨some 5, [36], 3, 1, false, ⟨3, .release (some 5) [36], 0⟩,
       queued (.release (some 5) [36]) 0 (some (.frame 3 1 false)) .active, by decide +kernel⟩,
   ⟨some 5, [36], .undocked, .charging, session0 (.ending .undocked .charging), 3, 1, false, ⟨3,
       .release (some 5) [36], 0⟩, lastRelease, by decide +kernel⟩,
   ⟨40, 8, 30, _, 3, 1, false, ⟨3, .budget 4 40 8 30, 0⟩,
       queued (.budget 4 40 8 30) 0 (some (.frame 3 1 false)) .active, by decide +kernel, rfl⟩,
   ⟨40, 8, 30, _, 3, 1, false, ⟨3, .budget 4 40 8 30, 0⟩, withOffers [⟨4, 44, 7,
       9000⟩] (queued (.budget 4 40 8 30) 0 (some (.frame 3 1 false)) .active), by decide +kernel, rfl⟩,
   ⟨40, 8, 30, _, 3, 1, false, ⟨3, .budget 4 40 8 30, 0⟩, withOffers [⟨3, 44, 2, 25000⟩, ⟨6, 46, 9, 66000⟩, ⟨9, 41,
       9, 66000⟩, ⟨11, 42, 200, 18000⟩] (queued (.budget 4 40 8 30) 0 (some (.frame 3 1 false)) .active),
       by decide +kernel, rfl⟩,
   ⟨3, 1, false, ⟨3, .yieldReq 5 2 .surplus [], 0⟩,
       queued (.yieldReq 5 2 .surplus []) 0 (some (.frame 3 1 false)) .active, by decide +kernel⟩,
   ⟨(row .muted).joinFrame, 1, probing 1, by decide +kernel⟩⟩

theorem test_hyps_failed_attempts_are_retried_or_dropped :
    (∃ (id us : Nat) (x : QFrame) (s : State),
     us ≤ 9 * (s.conf.d + 1) ∧ s.lc.attempt = some (.frame id us false) ∧ s.lc.queue.find? (fun y => y.id == id) = some x ∧
         s.calm ∧ s.stamped) ∧
    (∃ (id us : Nat) (x : QFrame) (s : State),
     us ≤ 9 * (s.conf.d + 1) ∧ s.lc.attempt = some (.frame id us false) ∧ s.lc.queue.find? (fun y => y.id == id) = some x ∧
         s.calm ∧ s.stamped) ∧
    (∃ (id us : Nat) (x : QFrame) (s : State),
     s.lc.attempt = some (.frame id us false) ∧ s.lc.queue.find? (fun y => y.id == id) = some x ∧
         (s.mc.mode = .active ∨ s.mc.mode = .isolated) ∧ s.lc.txErrors < 15 ∧ x.retry < 3 ∧ s.calm ∧ s.stamped) ∧
    (∃ (id us : Nat) (x : QFrame) (s : State),
     s.lc.attempt = some (.frame id us false) ∧ s.lc.queue.find? (fun y => y.id == id) = some x ∧
         (s.mc.mode = .active ∨ s.mc.mode = .isolated) ∧ s.lc.txErrors < 15 ∧ x.retry = 3 ∧ s.calm ∧ s.stamped ∧
         s.shaped) ∧
    (∃ (join : Frame) (us : Nat) (s : State),
     us ≤ 9 * (s.conf.d + 1) ∧ s.lc.attempt = some (.probe join us false) ∧ s.calm) ∧
    (∃ (join : Frame) (us : Nat) (s : State),
     us ≤ 9 * (s.conf.d + 1) ∧ s.lc.attempt = some (.probe join us false) ∧ s.calm) ∧
    (∃ (join : Frame) (us : Nat) (s : State),
     s.lc.attempt = some (.probe join us false) ∧ s.mc.mode = .muted ∧ s.calm) ∧
    (∃ (c : Instr) (id us : Nat) (last : Bool) (x : QFrame) (s : State),
     (c = .goodEcho ∨ c = .transmitError ∧ x.retry = 3) ∧ s.lc.attempt = some (.frame id us last) ∧
         s.lc.queue.find? (fun y => y.id == id) = some x ∧ x.frame = .leave ∧ (∀ y ∈ s.lc.queue ++ s.lc.waiting,
         y.frame = .leave → y.id = id) ∧ s.mc.leaving = true ∧ s.holdsNothing = true ∧ s.hc.claim = none ∧
         s.sessionEnding = false ∧ s.stamped ∧ s.working = true ∧ s.mc.isolateReq = true ∧ s.mc.restarting = false) ∧
    (∃ (c : Instr) (id us : Nat) (last : Bool) (x : QFrame) (s : State),
     (c = .goodEcho ∨ c = .transmitError ∧ x.retry = 3) ∧ s.lc.attempt = some (.frame id us last) ∧
         s.lc.queue.find? (fun y => y.id == id) = some x ∧ x.frame = .leave ∧ (∀ y ∈ s.lc.queue ++ s.lc.waiting,
         y.frame = .leave → y.id = id) ∧ s.mc.leaving = true ∧ s.holdsNothing = true ∧ s.hc.claim = none ∧
         s.sessionEnding = false ∧ s.stamped ∧ s.working = true ∧ s.mc.isolateReq = true ∧ s.mc.restarting = false) ∧
    (∃ (c : Instr) (id us : Nat) (last : Bool) (x : QFrame) (s : State),
     (c = .goodEcho ∨ c = .transmitError ∧ x.retry = 3) ∧ s.lc.attempt = some (.frame id us last) ∧
         s.lc.queue.find? (fun y => y.id == id) = some x ∧ x.frame = .leave ∧ (∀ y ∈ s.lc.queue ++ s.lc.waiting,
         y.frame = .leave → y.id = id) ∧ s.mc.leaving = true ∧ s.holdsNothing = true ∧ s.hc.claim = none ∧
         s.sessionEnding = false ∧ s.stamped ∧ (s.working = true ∨ s.mc.mode = .offline) ∧ s.mc.restarting = true ∧
         s.io.trip = false) ∧
    (∃ (c : Instr) (id us : Nat) (last : Bool) (x : QFrame) (s : State),
     (c = .goodEcho ∨ c = .transmitError ∧ x.retry = 3) ∧ s.lc.attempt = some (.frame id us last) ∧
         s.lc.queue.find? (fun y => y.id == id) = some x ∧ x.frame = .leave ∧ (∀ y ∈ s.lc.queue ++ s.lc.waiting,
         y.frame = .leave → y.id = id) ∧ s.mc.leaving = true ∧ s.holdsNothing = true ∧ s.hc.claim = none ∧
         s.sessionEnding = false ∧ s.stamped ∧ (s.working = true ∨ s.mc.mode = .offline) ∧ s.mc.restarting = true ∧
         s.io.trip = false) ∧
    (∃ (id us : Nat) (last : Bool) (s : State),
     9 * (s.conf.d + 1) < us ∧ s.lc.attempt = some (.frame id us last)) :=
  ⟨⟨3, 72, ⟨3, .leave, 3⟩, queued .leave 3 (some (.frame 3 72 false)) .active, by decide +kernel⟩,
   ⟨3, 0, ⟨3, .leave, 0⟩, queued .leave 0 (some (.frame 3 0 false)) .active, by decide +kernel⟩,
   ⟨3, 1, ⟨3, .leave, 2⟩, queued .leave 2 (some (.frame 3 1 false)) .active, by decide +kernel⟩,
   ⟨3, 1, ⟨3, .release none [36], 3⟩, queued (.release none [36]) 3 (some (.frame 3 1 false)) .isolated,
       by decide +kernel⟩,
   ⟨(row .muted).joinFrame, 0, probing 0, by decide +kernel⟩,
   ⟨(row .muted).joinFrame, 72, probing 72, by decide +kernel⟩,
   ⟨(row .muted).joinFrame, 73, probing 73, by decide +kernel⟩,
   ⟨.goodEcho, 3, 1, false, ⟨3, .leave, 3⟩, leaveLine false .active, by decide +kernel⟩,
   ⟨.transmitError, 3, 1, false, ⟨3, .leave, 3⟩, leaveLine false .muted, by decide +kernel⟩,
   ⟨.goodEcho, 3, 1, false, ⟨3, .leave, 3⟩, leaveLine true .offline, by decide +kernel⟩,
   ⟨.transmitError, 3, 1, false, ⟨3, .leave, 3⟩, leaveLine true .isolated, by decide +kernel⟩,
   ⟨3, 73, false, queued .leave 0 (some (.frame 3 73 false)) .active, by decide +kernel⟩⟩

theorem test_hyps_offer_expiry_removes_the_offer :
    (∃ (src : BitVec 5) (o : Offer) (a s : State),
     (s.bu.offers.find? (fun y => y.source == src.toNat) = some o ∧ s.calm ∧ s.map.length = 128) ∧
         a = s.atTime (s.bk.startAt + o.expiry)) :=
  ⟨5, ⟨5, 40, 17, 30000⟩, _, withOffers [⟨5, 40, 17, 30000⟩] (row .active), by decide +kernel, rfl⟩

theorem test_hyps_settle_expiry_makes_pending_mine :
    (∃ (qs : List Nat) (T : Nat) (a s : State),
     (s.hc.claim = some (.settling qs T) ∧ s.calm) ∧ a = s.atTime T) ∧
    (∃ (qs : List Nat) (T : Nat) (a s : State),
     (s.hc.claim = some (.settling qs T) ∧ s.calm) ∧ a = s.atTime T) ∧
    (∃ (qs : List Nat) (T : Nat) (a s : State),
     (s.hc.claim = some (.settling qs T) ∧ s.calm ∧ s.mc.mode = .isolated ∧ s.ci.conv = .lost) ∧ a = s.atTime T) :=
  ⟨⟨[35], 5040, _, holding .active, by decide +kernel, rfl⟩,
   ⟨[35], 5040, _, holding .isolated, by decide +kernel, rfl⟩,
   ⟨[35], 5040, _, converterAt .lost (holding .isolated), by decide +kernel, rfl⟩⟩

theorem test_hyps_listening_expiry_ends_the_listening :
    (∃ (T : Nat) (a s : State),
     (s.mc.mode = .listening ∧ s.mc.listenAt = some T ∧ s.mc.restarting = false ∧ s.sessionEnding = false ∧
         (¬(s.ci.conv = .lost ∧ s.ci.lostQuiesce = .expired))) ∧ a = s.atTime T) ∧
    (∃ (T : Nat) (a s : State),
     (s.mc.mode = .listening ∧ s.mc.listenAt = some T ∧ s.mc.restarting = false ∧ s.sessionEnding = false ∧
         (¬(s.ci.conv = .lost ∧ s.ci.lostQuiesce = .expired))) ∧ a = s.atTime T) :=
  ⟨⟨6000, _, listeningTo 6000, by decide +kernel, rfl⟩,
   ⟨6000, _, listeningTo 6000, by decide +kernel, rfl⟩⟩

theorem test_hyps_peer_limits_age_the_entry :
    (∃ (u : BitVec 5) (x : Peer) (h : Nat) (a s : State),
     (s.takesFrames = true ∧ s.ptu.entries[u.toNat]? = some x ∧ x.state = .live ∧ x.heardAt = some h ∧ s.calm) ∧
         a = s.atTime (h + s.conf.lSil * s.conf.tEp)) ∧
    (∃ (u : BitVec 5) (x : Peer) (h : Nat) (a s : State),
     (s.takesFrames = true ∧ s.ptu.entries[u.toNat]? = some x ∧ x.state = .silent ∧ x.heardAt = some h ∧ s.calm) ∧
         a = s.atTime (h + s.conf.lExp * s.conf.tEp)) ∧
    (∃ (u : BitVec 5) (x : Peer) (h i : Nat) (b : Booking) (a s : State),
     (s.takesFrames = true ∧ s.ptu.entries[u.toNat]? = some x ∧ x.state = .live ∧ x.heardAt = some h ∧ s.calm ∧
         i < 12 ∧ s.bk.table[i]? = some (some b) ∧ b.trigger = .peerSilent (some u.toNat) ∧ b.state = .armed ∧
         ((s.bk.table.zipIdx.all fun z => z.2 == i || z.1.all fun y =>
        y.trigger != .peerSilent (some u.toNat) && y.trigger != .peerSilent none) = true)) ∧
            a = s.atTime (h + s.conf.lSil * s.conf.tEp)) ∧
    (∃ (u : BitVec 5) (x : Peer) (h i : Nat) (b : Booking) (a s : State),
     (s.takesFrames = true ∧ s.ptu.entries[u.toNat]? = some x ∧ x.state = .live ∧ x.heardAt = some h ∧ s.calm ∧
         i < 12 ∧ s.bk.table[i]? = some (some b) ∧ b.trigger = .peerSilent (some u.toNat) ∧ b.state = .armed ∧
         ((s.bk.table.zipIdx.all fun z => z.2 == i || z.1.all fun y =>
        y.trigger != .peerSilent (some u.toNat) && y.trigger != .peerSilent none) = true)) ∧
            a = s.atTime (h + s.conf.lSil * s.conf.tEp)) :=
  ⟨⟨5, peer5 .live, 4000, _, heldBy5 .live .active, by decide +kernel, rfl⟩,
   ⟨5, peer5 .silent, 4000, _, heldBy5 .silent .active, by decide +kernel, rfl⟩,
   ⟨5, peer5 .live, 4000, 0, silent5, _, booked 0, by decide +kernel, rfl⟩,
   ⟨5, peer5 .live, 4000, 11, silent5, _, booked 11, by decide +kernel, rfl⟩⟩

theorem test_hyps_epoch_expiry_reports_and_divides :
    (∃ (T : Nat) (a s : State),
     (s.ae.epochAt = some T ∧ s.calm ∧ s.map.length = 128 ∧ s.stamped ∧ s.bookingsNotify) ∧ s.pendingSettles ∧
         a = s.atTime T) ∧
    (∃ (T : Nat) (e : List Nat) (a s : State),
     (s.ae.epochAt = some T ∧ s.calm ∧ s.map.length = 128 ∧ s.stamped ∧ s.bookingsNotify ∧ s.freeToClaim ∧ e ≠ []) ∧
         s.pendingSettles ∧ a = s.atTime T ∧
         (e = (List.range 128).filter fun q => s.entry q == .free && decide (q < s.bu.bEff) &&
          match s.conf.homeStation q with
          | none => true
          | some v => v == s.own || s.peerIs v .absent || s.peerIs v .left)) ∧
    (∃ (T : Nat) (u : BitVec 5) (hs : List Nat) (a s : State),
     (s.ae.epochAt = some T ∧ s.calm ∧ s.map.length = 128 ∧ s.stamped ∧ s.bookingsNotify ∧ s.freeToAsk ∧
         u.toNat < s.conf.nSt ∧ s.peerIs u.toNat .live = true) ∧ (s.noHomeAskedBelow u.toNat ∧ hs ≠ []) ∧
         s.pendingSettles ∧ a = s.atTime T ∧ (hs = (List.range 128).filter fun q =>
        (s.entry q).heldBy u.toNat && decide (q < s.bu.bEff ∧ s.conf.homeStation q = some s.own))) ∧
    (∃ (T : Nat) (u : BitVec 5) (a s : State),
     (s.ae.epochAt = some T ∧ s.calm ∧ s.map.length = 128 ∧ s.stamped ∧ s.bookingsNotify ∧ s.freeToAsk ∧
         s.noHomeAskedBelow s.conf.nSt ∧ policyOf s.conf.policy ≠ .rotate) ∧ (u.toNat < s.conf.nSt ∧
         u.toNat ≠ s.own ∧ s.peerIs u.toNat .live = true) ∧ s.pendingSettles ∧ a = s.atTime T) ∧
    (∃ (T i : Nat) (u : BitVec 5) (a s : State),
     (s.ae.epochAt = some T ∧ s.calm ∧ s.map.length = 128 ∧ s.stamped ∧ s.bookingsNotify ∧ s.freeToAsk ∧
         s.noHomeAskedBelow s.conf.nSt ∧ policyOf s.conf.policy = .rotate) ∧ (i < s.conf.nSt ∧
         u.toNat = (s.hc.rotate + 1 + i) % s.conf.nSt ∧ u.toNat ≠ s.own ∧ s.peerIs u.toNat .live = true ∧
         s.bidFloorOf u.toNat < s.heldCountOf u.toNat ∧ (∀ j, j < i → (s.hc.rotate + 1 + j) % s.conf.nSt = s.own ∨
         s.peerIs ((s.hc.rotate + 1 + j) % s.conf.nSt) .live = false ∨
        s.heldCountOf ((s.hc.rotate + 1 + j) % s.conf.nSt) ≤ s.bidFloorOf ((s.hc.rotate + 1 + j) % s.conf.nSt))) ∧
            s.pendingSettles ∧ a = s.atTime T) :=
  ⟨⟨5000, _, epochTo 5000, by decide +kernel, State.pendingSettles_of (by decide +kernel), rfl⟩,
   ⟨5000, _, _, claiming, by decide +kernel, State.pendingSettles_of (by decide +kernel), rfl, rfl⟩,
   ⟨5000, 5, _, _, asking .free 1, by decide +kernel, by decide +kernel, State.pendingSettles_of (by decide +kernel),
       rfl, rfl⟩,
   ⟨5000, 5, _, asking .mine 1, by decide +kernel, by decide +kernel, State.pendingSettles_of (by decide +kernel),
       rfl⟩,
   ⟨5000, 0, 5, _, asking .mine 3, by decide +kernel, by decide +kernel, State.pendingSettles_of (by decide +kernel),
       rfl⟩⟩

theorem test_hyps_drain_timers_stick_and_complete :
    (∃ (T : Nat) (a s : State),
     (s.ci.conv ≠ .lost ∧ ((s.hc.drains.filter fun d => !d.stuck).map Drain.timeoutAt).min? = some T ∧ s.calm) ∧
         a = s.atTime T) ∧
    (∃ (T : Nat) (a s : State),
     (s.hc.quiesceAt = some T ∧ s.calm ∧ s.drainsAreDraining ∧ s.stamped) ∧ a = s.atTime T) ∧
    (∃ (T : Nat) (a s : State),
     (s.hc.quiesceAt = some T ∧ s.calm ∧ s.drainsAreDraining ∧ s.stamped) ∧ a = s.atTime T) ∧
    (∃ (T : Nat) (a s : State),
     (s.ci.lostQuiesce = .running T ∧ s.calm ∧ s.drainsAreDraining ∧ s.stamped) ∧ a = s.atTime T) :=
  ⟨⟨6900, _, holding .active, by decide +kernel, rfl⟩,
   ⟨6000, _, stuckTo 6000 (holding .active), by decide +kernel, rfl⟩,
   ⟨6000, _, stuckTo 6000 (holding .muted), by decide +kernel, rfl⟩,
   ⟨6000, _, lostTo 6000, by decide +kernel, rfl⟩⟩

theorem test_hyps_promise_and_answer_timers_end_their_record :
    (∃ (m : Promise) (rest : List Promise) (a s : State),
     (s.hc.promises = m :: rest ∧ s.calm) ∧ a = s.atTime m.expiry) ∧
    (∃ (k : Request) (T : Nat) (y : Peer) (a s : State),
     (s.hc.request = some k ∧ k.echoAt = some T ∧ s.ptu.entries[k.target]? = some y ∧ s.calm) ∧
         a = s.atTime (T + 100)) ∧
    (∃ (k : Request) (T : Nat) (y : Peer) (a s : State),
     (s.hc.request = some k ∧ k.echoAt = some T ∧ s.ptu.entries[k.target]? = some y ∧ s.calm) ∧
         a = s.atTime (T + 100)) :=
  ⟨⟨⟨5, [12], 6000⟩, [], _, promised, by decide +kernel, rfl⟩,
   ⟨⟨5, .surplus, 2, [], some 4950, false, true⟩, 4950, peer5 .live, _, answeredLate, by decide +kernel, rfl⟩,
   ⟨⟨5, .surplus, 2, [], some 4950, false, false⟩, 4950, peer5 .live, _, promised, by decide +kernel, rfl⟩⟩

theorem test_hyps_isolation_and_muting_drain_foreign_quanta :
    (∃ (T : Nat) (a s : State),
     (s.mc.mode = .active ∧ s.mc.solo = false ∧
         T = s.ptu.lineHeard.getD s.ptu.lineCleared + s.conf.lSil * s.conf.tEp ∧ s.calm) ∧ s.pendingSettles ∧
         a = s.atTime T) ∧
    (∃ (c : Instr) (T us : Nat) (a s : State),
     (s.stamped ∧ (s.mc.mode = .active ∨ s.mc.mode = .isolated) ∧ s.calm) ∧ ((c = .echoSilenceLimit ∧
         s.mc.errSince = true ∧ s.mc.echoSince = some T ∧ a = s.atTime (T + s.conf.lSil * s.conf.tEp)) ∨
      (c = .transmitError ∧ a = s ∧ s.lc.txErrors = 15 ∧ ∃ x ∈ s.lc.queue, x.retry < 3 ∧ (kindOf x.frame ≠ .release) ∧
        s.lc.attempt = some (.frame x.id us false))) ∧ s.pendingSettles) ∧
    (∃ (c : Instr) (T us : Nat) (a s : State),
     (s.stamped ∧ (s.mc.mode = .active ∨ s.mc.mode = .isolated) ∧ s.calm) ∧ ((c = .echoSilenceLimit ∧
         s.mc.errSince = true ∧ s.mc.echoSince = some T ∧ a = s.atTime (T + s.conf.lSil * s.conf.tEp)) ∨
      (c = .transmitError ∧ a = s ∧ s.lc.txErrors = 15 ∧ ∃ x ∈ s.lc.queue, x.retry < 3 ∧ (kindOf x.frame ≠ .release) ∧
        s.lc.attempt = some (.frame x.id us false))) ∧ s.pendingSettles) :=
  ⟨⟨7000, _, holding .active, by decide +kernel, State.pendingSettles_of (by decide +kernel), rfl⟩,
   ⟨.echoSilenceLimit, 4100, 0, _, echoesSince 4100, by decide +kernel, .inl ⟨rfl, by decide +kernel,
       by decide +kernel, rfl⟩, State.pendingSettles_of (by decide +kernel)⟩,
   ⟨.transmitError, 0, 1, _, fifteenErrors, by decide +kernel, .inr ⟨rfl, rfl, by decide +kernel⟩,
       State.pendingSettles_of (by decide +kernel)⟩⟩

theorem test_hyps_deadline_and_duration_end_the_step :
    (∃ (T : Nat) (x : Session) (a s : State),
     (a.ss.session = some x ∧ 0 < x.deadline ∧ x.runOut = false ∧ T = x.admittedAt + x.deadline * 1000 ∧ s.calm ∧
         s.bookingsNotify) ∧ a = s.atTime T) ∧
    (∃ (d : Nat) (x : Session) (st : PlanStep) (a s : State),
     (a.ss.session = some x ∧ x.phase = .charging ∧ x.entered = true ∧ x.step = some st ∧ 0 < st.endDuration ∧
         st.endDuration ≤ 65535 ∧ s.durationLeft = some d ∧ s.calm ∧ s.bookingsNotify) ∧ a = s.advance d) :=
  ⟨⟨62000, { (session0 .charging) with stepTime := 58000 }, _, withSession .charging (row .active),
      by decide +kernel, rfl⟩,
   ⟨14000, { (session0 .charging) with stepTime := 15000 }, step0, _, withSession .charging (row .active),
       by decide +kernel, rfl⟩⟩

theorem test_hyps_setpoint_messages_and_discarded_reports :
    (∃ (a s : State),
     a = s.atTime s.ci.refreshAt) ∧
    (∃ (m : SetMsg) (rest : List SetMsg) (s : State),
     s.ci.outbox = m :: rest) ∧
    (∃ (s : State),
     s.started = true) ∧
    (∃ (s : State),
     s.started = false) :=
  ⟨⟨_, row .active, rfl⟩,
   ⟨⟨400, false, []⟩, [], sending400, by decide +kernel⟩,
   ⟨row .active, by decide +kernel⟩,
   ⟨row .configured, by decide +kernel⟩⟩

theorem test_hyps_meter_report_feeds_session_drains_and_converter :
    (∃ (p1 p0 cs : Byte) (st : ConvState) (s : State),
     s.started = true ∧ convOf cs.toNat = some st ∧ 10 * (p1.toNat * 256 + p0.toNat) ≤ 11 * s.conf.pMax ∧
         s.mc.isolateReq = false ∧ s.mc.restarting = false ∧ s.sessionEnding = false) ∧
    (∃ (p1 p0 cs : Byte) (st : ConvState) (s : State),
     s.started = true ∧ convOf cs.toNat = some st ∧ 10 * (p1.toNat * 256 + p0.toNat) ≤ 11 * s.conf.pMax ∧
         s.mc.isolateReq = false ∧ s.mc.restarting = false ∧ s.sessionEnding = false) ∧
    (∃ (p1 p0 cs : Byte) (s : State),
     s.started = true ∧ (3 < cs.toNat ∨ 11 * s.conf.pMax < 10 * (p1.toNat * 256 + p0.toNat))) ∧
    (∃ (p1 p0 cs : Byte) (s : State),
     s.started = true ∧ (3 < cs.toNat ∨ 11 * s.conf.pMax < 10 * (p1.toNat * 256 + p0.toNat))) ∧
    (∃ (s : State),
     s.started = false) :=
  ⟨⟨6, 114, 3, .fault, withSession .charging (holding .active), by decide +kernel⟩,
   ⟨0, 5, 0, .ready, withSession .charging (holding .active), by decide +kernel⟩,
   ⟨6, 115, 3, row .active, by decide +kernel⟩,
   ⟨0, 0, 4, row .active, by decide +kernel⟩,
   ⟨row .configured, by decide +kernel⟩⟩

theorem test_hyps_meter_silence_makes_the_converter_lost :
    (∃ (T : Nat) (a s : State),
     (s.ci.conv ≠ .lost ∧ s.ci.silenceAt = some T ∧ s.calm) ∧ a = s.atTime T) :=
  ⟨5400, _, withSession .charging (holding .active), by decide +kernel, rfl⟩

/-! ## Hypotheses of the statements over every state -/

/-- The step answers a next state. -/
def completes (o : Host.Outcome State Fault Refusal) : Bool :=
  match o with
  | .next _ => true
  | _ => false

theorem next_after {o : Host.Outcome State Fault Refusal} (s : State) (h : completes o = true) : o = .next (after o s) := by
  cases o <;> simp_all [completes, after]

/-- A vehicle leaves while quanta are held. -/
def leaving : State := { holding .active with
  ss := { (holding .active).ss with session := some (session0 (.suspended .command)) }, pending := [.undock (.whole []), .status (.whole [])] }

theorem test_hyps_step_takes_the_front_command :
    ∃ (c : Instr) (rest : List Instr) (s : State), s.pending = c :: rest :=
  ⟨.undock (.whole []), [.status (.whole [])], leaving, rfl⟩

theorem test_hyps_idle_step :
    (∃ s : State, s.pending = [] ∧ s.dueEvent = none ∧ ∀ m ∈ s.lineMoments, m = 0) ∧
    (∃ (m : Nat) (s : State), s.pending = [] ∧ s.dueEvent = none ∧ m ∈ s.lineMoments ∧ 0 < m) ∧
    (∃ s : State, s.pending = [] ∧ s.dueEvent = some .setpointRefresh) :=
  ⟨⟨row .active, by decide +kernel⟩, ⟨96, queued .leave 3 none .active, by decide +kernel⟩,
    ⟨{ row .active with now := 5100 }, by decide +kernel⟩⟩

theorem test_hyps_step_keeps_the_setpoint_formed : ∃ s t : State, s.setpointFormed ∧ step s = .next t :=
  ⟨leaving, _, by decide +kernel, next_after leaving (by decide +kernel)⟩

theorem test_hyps_step_keeps_the_budget_kept : ∃ s t : State, s.budgetKept ∧ step s = .next t :=
  ⟨leaving, _, State.budgetKept_of (by decide +kernel) (by decide +kernel) (by decide +kernel),
    next_after leaving (by decide +kernel)⟩

theorem test_hyps_step_keeps_the_lists_in_their_places : ∃ s t : State, s.shaped ∧ s.stamped ∧ step s = .next t :=
  ⟨leaving, _, by decide +kernel, by decide +kernel, next_after leaving (by decide +kernel)⟩

theorem test_hyps_step_keeps_the_modes_consistent :
    ∃ s t : State, (s.transmitterFollows ∧ s.duplicateIsOut ∧ s.inhibitFollows ∧ s.mc.duplicate = true) ∧
      step s = .next t :=
  ⟨{ duplicated (row .offline) with pending := [.status (.whole [])] }, _, by decide +kernel,
    next_after leaving (by decide +kernel)⟩

theorem test_hyps_step_keeps_the_holdings_consistent :
    ∃ s t : State, (s.drainsAreDraining ∧ s.claimAlone ∧ s.sweepPermitted) ∧ s.pendingSettles ∧ step s = .next t :=
  ⟨leaving, _, by decide +kernel, State.pendingSettles_of (by decide +kernel), next_after leaving (by decide +kernel)⟩

theorem test_hyps_frame_round_trip :
    ∀ f ∈ [Frame.contest [0, 127], .yieldAns 4 1 [], .release (some 254) [36], .yieldReq 12 1 .surplus [],
      .yieldReq 12 2 .home [8, 255], .claim [35], .budget 0 40 255 60, .report 0 3 64 128 128 4 65535 [0, 127] 0x1234,
      .join 0x1234 16 2, .leave], f.wf := by
  simp [Frame.wf, bytesFit]
  decide +kernel

/-! ## Operands that spell another row -/

theorem test_too_long_payload_is_ill_formed : Instr.wellFormed (.status (.whole (List.replicate 256 0))) = false := by decide +kernel
theorem test_longest_payload_is_well_formed : Instr.wellFormed (.status (.whole (List.replicate 255 0))) = true := by decide +kernel
theorem test_cut_payload_lacks_bytes : Instr.wellFormed (.status (.cut 2 [0, 0])) = false := by decide
theorem test_known_code_is_no_unknown_command : Instr.wellFormed (.unknownCommand 0x43 (.whole [])) = false := by decide
theorem test_fetch_is_no_invalid_transaction : Instr.wellFormed (.invalidTransaction [2]) = false := by decide
theorem test_command_is_no_invalid_transaction : Instr.wellFormed (.invalidTransaction [1, 0x43, 0]) = false := by decide
theorem test_claim_of_nothing_is_ill_formed : Instr.wellFormed (.claim 5 []) = false := by decide
theorem test_contest_of_nine_is_ill_formed : Instr.wellFormed (.contest 5 (List.replicate 9 1)) = false := by decide
theorem test_release_of_nothing_is_ill_formed : Instr.wellFormed (.release 5 [255]) = false := by decide
theorem test_yield_ans_count_is_checked : Instr.wellFormed (.yieldAns 5 [4, 2, 0, 12]) = false := by decide
theorem test_yield_req_count_is_checked : Instr.wellFormed (.yieldReq 5 [4, 2, 1, 12]) = false := by decide
theorem test_short_budget_is_ill_formed : Instr.wellFormed (.budget 5 [5, 40, 1]) = false := by decide
theorem test_short_join_is_ill_formed : Instr.wellFormed (.join 5 [0, 0, 16]) = false := by decide
theorem test_short_report_is_ill_formed : Instr.wellFormed (.report 5 (List.replicate 25 0)) = false := by decide
theorem test_leave_with_payload_is_ill_formed : Instr.wellFormed (.leave 5 [0]) = false := by decide
theorem test_meter_report_opens_b2 : Instr.wellFormed (.meterReport [0xB1, 0, 0, 0, 0, 0, 0] 0) = false := by decide

theorem test_known_code_is_refused_as_unknown : exec (.unknownCommand 0x43 (.whole [])) (row .active) =
    .refused (.illFormed "UNKNOWN_COMMAND") := by rfl
theorem test_fetch_is_refused_as_invalid : exec (.invalidTransaction [2, 0]) (row .active) =
    .refused (.illFormed "INVALID_TRANSACTION") := by rfl

/-! ## The worked sequences -/

/-- A session at a step of `kind` and `cap`, with a remaining energy, and D_s = `d` at 5000 ms. -/
def bidState (kind : StepKind) (cap eRem d pAcc : Nat) (critical : Bool) : State :=
  let x : Session := { session0 .charging with
    eRem := eRem, deadline := d, admittedAt := 5000, pAcc := pAcc, critical := critical
    plan := [{ step0 with kind := kind, cap := cap }] }
  { row .active with ss := { (row .active).ss with session := some x } }

/-- Table 23, every row: slack, P_req, want, floor, tier, weight. -/
theorem test_bids_of_table_23 :
    (bidState .bulk 1500 100 0 1200 true).deriveBid = ⟨3, 64, 12, 2, none, none, false⟩ ∧
    (bidState .bulk 1500 4000 660 1500 false).deriveBid = ⟨2, 24, 15, 2, some 600, some 2400, false⟩ ∧
    (bidState .bulk 1500 3000 2460 1500 false).deriveBid = ⟨1, 5, 15, 2, some 2400, some 450, false⟩ ∧
    (bidState .bulk 1500 2000 1260 1500 false).deriveBid = ⟨1, 6, 15, 2, some 1200, some 600, false⟩ ∧
    (bidState .bulk 1500 100 0 1500 false).deriveBid = ⟨1, 2, 15, 2, none, none, false⟩ ∧
    (bidState .topup 800 100 0 1500 false).deriveBid = ⟨0, 1, 8, 0, none, none, false⟩ := by decide +kernel

/-- The participants of Table 25. -/
def caseParts : List Part :=
  [⟨2, 3, 64, 12, 2, 0⟩, ⟨4, 1, 5, 15, 2, 0⟩, ⟨5, 2, 24, 15, 2, 0⟩, ⟨7, 1, 6, 15, 2, 0⟩, ⟨9, 1, 2, 15, 2, 0⟩, ⟨12, 0, 1, 8, 0, 0⟩]

/-- Table 28: the targets, the spare count, FLOOR_SHORT and INEXACT. -/
theorem test_targets_of_table_28 :
    ([2, 4, 5, 7, 9, 12].map (grantOf (divide caseParts 40).1), (divide caseParts 40).2) =
      ([12, 5, 15, 5, 3, 0], 0, false, true) := by decide +kernel

/-- Table 30: first-fit floors. -/
theorem test_floors_of_table_30 :
    let z := divide [⟨2, 3, 64, 12, 4, 0⟩, ⟨5, 2, 24, 15, 4, 0⟩, ⟨4, 1, 2, 2, 2, 0⟩, ⟨7, 1, 2, 1, 1, 0⟩] 9
    ([2, 5, 4, 7].map (grantOf z.1), z.2) = ([4, 4, 0, 1], 0, true, false) := by decide +kernel

theorem test_hyps_shares_keep_within_the_budget :
    ∃ ps : List Part, (ps.map Part.station).Nodup ∧
      ∀ p ∈ ps, p.tier ≤ 3 ∧ 1 ≤ p.weight ∧ p.floor ≤ p.want ∧ p.grant = 0 :=
  ⟨caseParts, by decide +kernel⟩

/-- Both parts of the statement on the bid, the second at the slack clamp (D_s 60) and without a deadline. -/
theorem test_hyps_bid_follows_the_stages :
    (∃ s : State, ∀ x ∈ s.ss.session, x.phase ≠ .charging) ∧
    ∀ dS ∈ [0, 60, 61], ∃ (s : State) (x : Session) (st : PlanStep),
      s.ss.session = some x ∧ x.phase = .charging ∧ x.step = some st ∧ dS = s.deadlineLeft x ∧ 0 < s.conf.qs10 :=
  ⟨⟨State.reset, by decide +kernel⟩, fun dS h => ⟨bidState .bulk 1500 100 dS 1500 false, _, { step0 with cap := 1500 }, rfl,
    rfl, rfl, by revert dS; decide +kernel⟩⟩

/-- R131: quantum 8 enters the drain list while a message of an earlier entry of it is being sent: its mark is the completion
of its own message. -/
theorem test_mark_is_of_its_own_message :
    let s := withSession .charging (holding .active)
    let t := after (exec (.undock (.whole [])) { s with ci := { s.ci with outbox := [⟨400, false, [8]⟩] } }) s
    let u := after (exec .setpointMessageSent t) s
    let v := after (exec .setpointMessageSent u) s
    [t, u, v].map (fun x => (x.hc.drains.find? fun d => d.quantum == 8).bind Drain.mark) = [none, none, some 2] := by
  decide +kernel

/-- R51: an answer heard in OFFLINE keeps the timeout from counting the request unanswered. -/
theorem test_answer_in_offline_is_not_unanswered :
    let s := { promised with mc := { promised.mc with mode := .offline } }
    let t := after (exec (.yieldAns 5 [4, 0, 1]) s) s
    (t.hc.request.isSome, (after (exec .answerTimeout t) s).unansweredBy 5,
      (after (exec .answerTimeout promised) s).unansweredBy 5) = (true, 0, promised.unansweredBy 5 + 1) := by decide +kernel

/-- Table 8 at 9 s: the full list, and 45 from station 5 in place of 14 replaces the 46 of source 6. -/
theorem test_budget_replaces_the_highest_offer :
    (after (exec (.budget 5 [5, 45, 1, 30])
      (withOffers [⟨0, 40, 17, 30000⟩, ⟨3, 44, 2, 25000⟩, ⟨6, 46, 9, 66000⟩, ⟨11, 42, 200, 18000⟩] (row .active)))
      State.reset).bu.offers =
    [⟨0, 40, 17, 30000⟩, ⟨3, 44, 2, 25000⟩, ⟨5, 45, 1, 34000⟩, ⟨11, 42, 200, 18000⟩] := by decide +kernel

/-- Table 8 at 12 s: (16 - 17) mod 256 is not newer. -/
theorem test_older_budget_is_not_taken :
    (after (exec (.budget 5 [5, 38, 16, 30]) (withOffers [⟨5, 40, 17, 30000⟩] (row .active))) State.reset).bu =
      (withOffers [⟨5, 40, 17, 30000⟩] (row .active)).bu := by decide +kernel

/-- Table 12 at 120 ms: a CLAIM for a Mine quantum leaves it and queues a CONTEST. -/
theorem test_claim_for_a_mine_quantum_is_contested :
    let t := after (exec (.claim 5 [38]) (holding .active)) State.reset
    t.entry 38 = .mine ∧ t.lc.queue.map QFrame.frame = [.contest [38]] := by decide +kernel

/-- R86: the quanta one CONTEST takes enter the drain list in ascending order, behind the entry that stood there. -/
theorem test_lost_quanta_drain_in_ascending_order :
    let t := after (exec (.contest 0 [38, 10]) (holding .active)) State.reset
    t.hc.drains.map Drain.quantum = [36, 10, 38] ∧ t.entry 10 = .draining .conflict (some 0) := by decide +kernel

/-- Table 12 at 122 ms: a CONTEST makes a Pending quantum Held, and the claim ends. -/
theorem test_contest_takes_a_pending_quantum :
    let t := after (exec (.contest 5 [35]) (holding .active)) State.reset
    t.entry 35 = .held 5 false ∧ t.settling = [] := by decide +kernel

/-- Table 46: the session before the first report shown. -/
def beforeStepEnd : State :=
  let x : Session := { session0 .charging with
    joules := 71995000, delivered := 1999, stepEnergy := 1999, eReq := 5000, eRem := 3001, deadline := 0
    plan := [⟨.bulk, 1500, 2000, 0, 0, false⟩, ⟨.taper, 1500, 2500, 0, 0, false⟩] }
  { row .active with ss := { (row .active).ss with session := some x } }

/-- Table 46, report 1: 15 000 J end step 1 by ENERGY and enter step 2 at mark 72 010 000. -/
theorem test_report_ends_the_step_of_table_46 :
    let t := after (exec (.meterReport [0xB2, 1, 144, 0x3A, 0x98, 1, 0] 0) beforeStepEnd) State.reset
    t.ss.session.map (fun x => (x.joules, x.delivered, x.stepIndex)) = some (72010000, 2000, 2) ∧
      t.ss.session.map (fun x => (x.stepMark, x.stepEnergy)) = some (72010000, 0) ∧
      t.ss.session.map Session.lastEnd = some (some .energy) := by decide +kernel

/-- The class, refusal code and detail of the pending response. -/
def answer (o : Host.Outcome State Fault Refusal) : Option (RespClass × Option RefCode × Byte) :=
  (after o State.reset).cpi.slot.map fun x => (x.response.cls, x.response.refusal, x.response.detail)

/-- Table 71, steps 3 and 4. -/
theorem test_configure_is_refused_with_its_check :
    answer (exec (.configure (.whole (configureBytes 30 5))) unconfigured4) = some (.refused, some .configCheck, 3) ∧
    answer (exec (.configure (.whole (configureBytes 36 5))) unconfigured4) = some (.refused, some .configCheck, 9) := by
  decide +kernel

/-- Table 71, step 5. -/
theorem test_configure_of_table_71_is_taken :
    let t := after (exec (.configure (.whole (configureBytes 36 8))) unconfigured4) State.reset
    t.mc.mode = .configured ∧ t.bu.bEff = 48 ∧ t.ptu.entries.length = 16 ∧ t.cpi.cfg = some cfg0 := by decide +kernel

/-- Table 71, step 6: listening to 3000 ms. -/
theorem test_start_listens_for_3000_ms :
    let t := after (exec (.start (.whole [])) { row .configured with now := 0 }) State.reset
    t.mc.mode = .listening ∧ t.mc.listenAt = some 3000 := by decide +kernel

/-- Table 53, the last two rows but one: with four Mine quanta a P_acc of 150 gives P_set 150 and send value 0. -/
theorem test_update_below_p_min_sends_0 :
    let t := after (exec (.vehicleUpdate (.whole [1, 0, 150, 0, 0])) (withSession .charging (holding .active))) State.reset
    t.ci.pSet = 150 ∧ t.ci.sendValue = 0 := by decide +kernel

/-- Table 53, last row: a P_acc of 900 gives the 400 of four Mine quanta. -/
theorem test_update_above_the_quanta_is_limited :
    let t := after (exec (.vehicleUpdate (.whole [1, 3, 132, 0, 0])) (withSession .charging (holding .active))) State.reset
    t.ci.pSet = 400 ∧ t.ci.sendValue = 400 := by decide +kernel

/-- Table 59: a transmit error of the probe doubles the mute hold time. -/
theorem test_probe_error_doubles_the_hold :
    let t := after (exec .transmitError (probing 1)) State.reset
    t.lc.muteHold = 2000 ∧ t.lc.muteAt = some 7000 ∧ t.mc.mode = .muted := by decide +kernel

/-- Table 59: the good echo of the probe returns the station to ACTIVE with a hold of 1000 ms. -/
theorem test_probe_echo_returns_to_active :
    let t := after (exec .goodEcho { probing 1 with
      lc := { (probing 1).lc with muteHold := 8000, txErrors := 16 } }) State.reset
    t.lc.muteHold = 1000 ∧ t.lc.txErrors = 0 ∧ t.mc.mode = .active := by decide +kernel

/-- Table 71, step 2, as FETCH clocks it out: ready, ACCEPTED, no code, five bytes: 0x418, revision 3, station 4, mode. -/
theorem test_identify_is_fetched :
    let t := after (exec (.identify (.whole [])) unconfigured4) State.reset
    let t := after (exec .responseReady t) State.reset
    let out := (after (exec (.fetchResponse 10) t) State.reset).io.sdo
    out.take 3 ++ out.drop 4 = [2, 0, 0, 5, 0x04, 0x18, 0x03, 4, 0] := by decide +kernel

/-- R176, R186: a VEHICLE UPDATE whose payload length is 200 is refused FORMAT though five bytes follow; with length 5 the
same bytes are taken. -/
theorem test_payload_length_is_checked :
    cabinetCommand [1, 0x11, 0xC8, 1, 0, 150, 0, 0] false = .vehicleUpdate (.cut 0xC8 [1, 0, 150, 0, 0]) ∧
    cabinetCommand [1, 0x11, 5, 1, 0, 150, 0, 0] false = .vehicleUpdate (.whole [1, 0, 150, 0, 0]) ∧
    ((after (exec (.vehicleUpdate (.cut 0xC8 [1, 0, 150, 0, 0])) (withSession .charging (holding .active))) State.reset).cpi.slot.map
      fun x => (x.response.cls, x.response.refusal)) = some (.refused, some .format) := by decide +kernel

/-- R141: 0x05 on the line is a dominant start bit, the bits from the top and a recessive stop bit, and a LEAVE lasts
50 bit times. -/
theorem test_character_on_the_line :
    charLevels 0x05 = [.dominant, .dominant, .dominant, .dominant, .dominant, .dominant, .recessive, .dominant,
      .recessive, .recessive] ∧
    (frameLevels 4 .leave).length = frameBits 0 ∧ charsOfLevels (frameLevels 4 .leave) = some (frameChars 4 .leave) := by
  decide +kernel

/-- R142: a start bit is taken after 10 recessive bit times, not after 9, and between characters 9 are no failure and 10
are one. -/
theorem test_receiver_waits_for_start_bits :
    let quiet := fun n => List.replicate n Level.recessive
    let spaced := fun n => (frameChars 4 .leave).flatMap fun c => charLevels c ++ quiet n
    [quiet 10 ++ frameLevels 4 .leave, quiet 9 ++ frameLevels 4 .leave, quiet 10 ++ spaced 9,
        quiet 10 ++ charLevels 0x84 ++ quiet 10].map (lineCommands .start) =
      [[.leave 4 []], [], [.leave 4 []], [.receiveError]] := by decide +kernel

/-- R142, R144: a dominant stop bit is a receive error unless its run lasts 10 bit times, which is one dominant run; a class
above 4 is an error; after each the frame that follows 10 recessive bit times is taken. -/
theorem test_receiver_discards_and_goes_on :
    let quiet := List.replicate 12 Level.recessive
    let line := fun l => lineCommands .start (quiet ++ l ++ quiet ++ frameLevels 5 (.claim [3]))
    let cut := (charLevels 0x84).dropLast
    [cut ++ List.replicate 2 .dominant, cut ++ List.replicate 12 .dominant, charLevels 0xA4, breakLevels].map line =
      [[.receiveError, .claim 5 [3]], [.dominantRun, .claim 5 [3]], [.receiveError, .claim 5 [3]],
        [.breakDetected, .breakEnded, .claim 5 [3]]] := by decide +kernel

/-- R187: an idle time of 1 ms ends a message, one of 999 us does not; a message cut short is no meter report. -/
theorem test_idle_time_splits_messages :
    converterMessages [(1000, some 0xB2), (999, some 7), (1000, some 0xB2)] =
      [[some 0xB2, some 7], [some 0xB2]] ∧
    converterCommand [some 0xB2, some 7] 0 = .meterReportDiscarded := by decide

/-- R187: 0x05 on the Converter Port opens with a start bit, sends its lowest bit first and ends with a stop bit. -/
theorem test_port_character_bits :
    portCharacter 0x05 = [.start, .data true, .data false, .data true, .data false, .data false, .data false,
      .data false, .data false, .stop] ∧
    portByte (portCharacter 0xB2) = some 0xB2 ∧ portByte (portCharacter 0xB2).tail = none := by decide

/-- Table 54: the report of t = 2300 ends LOST, and INHIBIT is released at the refresh of t = 2400. -/
theorem test_inhibit_is_released_at_the_refresh :
    let s := lostTo 6000
    let s := { s with now := 2300, ci := { s.ci with inhibit := true, refreshAt := 2400 } }
    let t := after (exec (.meterReport [0xB2, 0, 0, 0, 0, 0, 0] 0) s) State.reset
    let u := after (exec .setpointRefresh t) State.reset
    (t.inhibitCause, t.ci.inhibit) = (false, true) ∧ u.ci.inhibit = false ∧
      u.ci.outbox.getLast?.map SetMsg.inhibit = some false := by decide +kernel

/-- R145, R146: 370 bit times of 8 us are over after 3 ms, of which 40 us, 5 bit times, are quiet. -/
theorem test_winning_frame_holds_the_line :
    let t := after (exec .lostArbitration (queued .leave 0 (some (.frame 3 0 false)) .active)) State.reset
    ((t.advance 2).idleCount, (t.advance 3).idleCount) = (0, 5) := by decide +kernel

/-- R145, Table 56: at D = 7 the next attempt starts 96 µs after a good echo, in the same ms, by the command as by a step
that waits for it. The 60 bit times of that CLAIM end 480 µs later. -/
theorem test_next_attempt_starts_after_the_gap :
    let s := queued .leave 0 (some (.frame 3 73 false)) .active
    let s := { s with lc := { s.lc with queue := s.lc.queue ++ [⟨4, .claim [12], 0⟩] } }
    let t := after (exec .goodEcho s) State.reset
    let u := after (exec .transmitAttemptStart t) State.reset
    (u.now, u.lc.clockUs, u.lc.attempt) = (5000, 96, some (.frame 4 0 false)) ∧
      after (step (after (step t) State.reset)) State.reset = u ∧
      (after (step u) State.reset).lc.clockUs = 576 ∧
      (u.advance 1).lc.attempt = some (.frame 4 904 false) := by decide +kernel

/-- R145, R146: the LEAVE of another station that begins when the line has been quiet for 11 bit times of 8 µs holds an
attempt back to the end of its 50 bit times and the gap; one that begins at the 12th finds this station starting too. -/
theorem test_another_start_bit_holds_an_attempt_back :
    let s := queued (.claim [12]) 0 none .active
    let late := told (List.replicate 11 .recessive ++ frameLevels 5 .leave) s
    let heard := after (exec (.leave 5 []) (late.pass 488)) State.reset
    let u := after (exec .transmitAttemptStart heard) State.reset
    let same := after (step (told (List.replicate 12 .recessive ++ frameLevels 5 .leave) s)) State.reset
    (late.pass 88).idleCount = 11 ∧ (late.pass 96).idleCount = 0 ∧
      after (exec .transmitAttemptStart late) State.reset = late ∧
      (u.now, u.lc.clockUs, u.lc.attempt) = (5000, 584, some (.frame 3 0 false)) ∧
      (same.lc.clockUs, same.attemptDue) = (96, true) := by decide +kernel

/-- R97: an answer of the target heard before the echo of the request ends it, and the frame stays queued. -/
theorem test_answer_before_the_echo :
    let s := heldBy5 .live .active
    let s := { s with
      lc := { s.lc with queue := [⟨3, .yieldReq 5 2 .surplus [], 1⟩], nextId := 4 }
      hc := { s.hc with request := some ⟨5, .surplus, 2, [], none, true, false⟩ } }
    let t := after (exec (.yieldAns 5 [4, 1, 0, 12]) s) State.reset
    t.entry 12 = .held 5 true ∧ t.hc.request = none ∧ t.lc.queue = s.lc.queue := by decide +kernel

/-- R91, R93, R94: an epoch expiry that leaves a need of 15 claims eight quanta, the own home quanta 8 and 9 first; with
nothing eligible it asks station 5 for them, and where they are Mine it asks for eight of its surplus. -/
theorem test_epoch_claims_and_asks :
    let after := fun s => after (exec .epochExpiry s) State.reset
    (after claiming).hc.claim = some (.queued [8, 9, 0, 1, 2, 3, 4, 5]) ∧
      (after (asking .free 1)).hc.request = some ⟨5, .home, 2, [8, 9], none, true, false⟩ ∧
      (after (asking .mine 1)).hc.request = some ⟨5, .surplus, 8, [], none, true, false⟩ := by decide +kernel

/-- R8: a fall of B_eff to 40 that withdraws the last eligible quantum queues no frame; the HOME request for 8 and 9 comes
with a later step (log 71). -/
theorem test_fall_queues_no_request :
    let t := after (exec (.budget 5 [5, 40, 17, 30]) fallTo40) State.reset
    (t.bu.bEff, t.lc.queue, t.hc.request) = (40, [], none) ∧
      (after (exec .receiveError t) State.reset).hc.request = some ⟨5, .home, 2, [8, 9], none, true, false⟩ := by
  decide +kernel

/-- R136: while the converter is LOST a quantum that settles or arrives drains with Shutdown, in ISOLATED as well. -/
theorem test_lost_drains_with_shutdown :
    (after (exec .settleExpiry (converterAt .lost (holding .isolated))) State.reset).entry 35 = .draining .shutdown none ∧
    (after (exec (.release 5 [4, 12]) (converterAt .lost (holding .active))) State.reset).entry 12 =
      .draining .shutdown none := by decide +kernel

/-- R168, R169, Table 64: a booked SUSPEND on the silence of station 5 fires once, with the number of the station. -/
theorem test_booking_fires_on_silence :
    let t := after (exec (.peerSilenceLimit 5) (booked 11)) State.reset
    t.bk.notices = [⟨11, 0, 5, [7, 8, 9], true, 6000, false⟩] ∧
      t.bk.table.getD 11 none = some { silent5 with mark := true, state := .spent } ∧
      t.ss.session.map Session.phase = some (.suspended .booking) := by decide +kernel

/-- R187: the setpoint message of 400 with the inhibit flag clear. -/
theorem test_setpoint_message_bytes : (SetMsg.mk 400 false []).bytes = [0xA1, 0x01, 0x90, 0] := by decide

/-- R151: the own break of 40 bit times of 8 us is over at the next millisecond. -/
theorem test_own_break_ends :
    let s := after (exec .tripAsserted (row .active)) State.reset
    (s.lc.attempt, (s.advance 5001).lc.attempt) = (some (.brk 0), none) := by decide +kernel

/-- The command in front of the queue is taken, and the rest stays. -/
theorem test_step_takes_one_command :
    (after (step leaving) State.reset).pending = [.status (.whole [])] ∧
      (after (step leaving) State.reset).entry 8 = .draining .shutdown none := by decide +kernel

end Sys2Proof.Tests
end

section
/-! SUPPORT. What every operation upholds: the sizes of the lists, the age stamps of the frames, and the bound of the map by
B_eff. The relation says it once for all of them; one lemma per operation says that the operation stands in it. -/

namespace Sys2Proof.Machine

/-! ## The relation -/

/-- An entry that only a quantum below B_eff may have once the station has started (R8, R9). -/
def QEntry.needsBudget : QEntry → Bool
  | .free => true
  | .pending => true
  | .mine => true
  | _ => false

theorem needsBudget_eq_false (e : QEntry) : e.needsBudget = false ↔ e ≠ .free ∧ e ≠ .pending ∧ e ≠ .mine := by
  cases e <;> simp [QEntry.needsBudget]

/-- No entry at or above B_eff is Free, Pending or Mine. -/
def State.clearAbove (s : State) : Prop := ∀ q, s.bu.bEff ≤ q → (s.entry q).needsBudget = false

/-- B_eff and B_safe lie within B_cfg. -/
def State.bounded (s : State) : Prop := s.bu.bEff ≤ s.conf.bCfg ∧ s.conf.bSafe ≤ s.conf.bCfg

/-- The budget is kept where B_eff is bounded and, once started, no entry at or above it needs budget. -/
theorem budgetKept_iff (s : State) : s.budgetKept ↔ s.bounded ∧ (s.started = true → s.clearAbove) := by
  simp only [State.budgetKept, State.bounded, State.clearAbove, needsBudget_eq_false, and_assoc]

/-- The age stamps of the frames are distinct and older than the next one. -/
def Link.fresh (l : Link) : Prop :=
  ((l.queue ++ l.waiting).map QFrame.id).Nodup ∧ ∀ i ∈ (l.queue ++ l.waiting).map QFrame.id, i < l.nextId

/-- The queue has at most its 8 places, and the age stamps are in order (R102). -/
def Link.inPlace (l : Link) : Prop := l.queue.length ≤ 8 ∧ l.fresh

/-- The booking table has its 12 entries and the notice queue at most its 16 places (R165, R170). -/
def Bookings.inPlace (k : Bookings) : Prop := k.table.length = 12 ∧ k.notices.length ≤ 16

/-- At most four offers, no two of one source (R4). -/
def offersInPlace (l : List Offer) : Prop := l.length ≤ 4 ∧ (l.map Offer.source).Nodup

/-- The lists are in their places where each block's are. -/
theorem shaped_and_stamped_iff (s : State) :
    s.shaped ∧ s.stamped ↔ s.map.length = 128 ∧ s.bk.inPlace ∧ s.lc.inPlace ∧ offersInPlace s.bu.offers := by
  simp only [State.shaped, State.stamped, Bookings.inPlace, Link.inPlace, Link.fresh, offersInPlace,
    List.forall_mem_map]
  tauto

/-- `s` keeps what `a` kept, block by block. -/
structure State.Upholds (a s : State) : Prop where
  map : a.map.length = 128 → s.map.length = 128
  link : a.lc.inPlace → s.lc.inPlace
  bookings : a.bk.inPlace → s.bk.inPlace
  offers : offersInPlace a.bu.offers → offersInPlace s.bu.offers
  bounded : a.bounded → s.bounded
  above : a.bounded → a.clearAbove → s.clearAbove

namespace State.Upholds

theorem refl (a : State) : a.Upholds a := ⟨id, id, id, id, id, fun _ => id⟩

theorem trans {a s t : State} (h : a.Upholds s) (k : s.Upholds t) : a.Upholds t :=
  ⟨k.map ∘ h.map, k.link ∘ h.link, k.bookings ∘ h.bookings, k.offers ∘ h.offers, k.bounded ∘ h.bounded,
    fun hb hc => k.above (h.bounded hb) (h.above hb hc)⟩

section
variable {a s t : State} (h : a.Upholds s)
include h

/-- A change of the queue and the waiting frames, and of fields that no part of the relation reads. -/
theorem onLink (e : t.map = s.map ∧ t.bk = s.bk ∧ t.bu = s.bu ∧ t.cpi.cfg = s.cpi.cfg)
    (hl : s.lc.inPlace → t.lc.inPlace) : a.Upholds t := by
  obtain ⟨hm, hk, hb, hc⟩ := e
  refine h.trans ⟨fun k => hm ▸ k, hl, fun k => hk ▸ k, fun k => hb ▸ k, ?_, fun _ => ?_⟩
  · simp [State.bounded, State.conf, hb, hc]
  · simp [State.clearAbove, State.entry, hb, hm]

/-- A change of fields that no part of the relation reads. -/
theorem elsewhere (e : t.map = s.map ∧ t.lc = s.lc ∧ t.bk = s.bk ∧ t.bu = s.bu ∧ t.cpi.cfg = s.cpi.cfg) : a.Upholds t :=
  h.onLink ⟨e.1, e.2.2⟩ fun k => e.2.1 ▸ k

/-- A change of the Booking Unit. -/
theorem onBookings (e : t.map = s.map ∧ t.lc = s.lc ∧ t.bu = s.bu ∧ t.cpi.cfg = s.cpi.cfg)
    (hk : s.bk.inPlace → t.bk.inPlace) : a.Upholds t := by
  obtain ⟨hm, hl, hb, hc⟩ := e
  refine h.trans ⟨fun k => hm ▸ k, fun k => hl ▸ k, hk, fun k => hb ▸ k, ?_, fun _ => ?_⟩
  · simp [State.bounded, State.conf, hb, hc]
  · simp [State.clearAbove, State.entry, hb, hm]

/-- A change of the map that leaves the entries at and above B_eff without need of budget. -/
theorem onMap (e : t.lc = s.lc ∧ t.bk = s.bk ∧ t.bu = s.bu ∧ t.cpi.cfg = s.cpi.cfg)
    (hlen : s.map.length = 128 → t.map.length = 128)
    (hab : s.clearAbove → a.bounded → a.clearAbove → ∀ q, s.bu.bEff ≤ q → (t.entry q).needsBudget = false) :
    a.Upholds t := by
  obtain ⟨hl, hk, hb, hc⟩ := e
  refine ⟨hlen ∘ h.map, fun k => hl ▸ h.link k, fun k => hk ▸ h.bookings k, fun k => hb ▸ h.offers k, fun k => ?_,
    fun ka kc q hq => hab (h.above ka kc) ka kc q (hb ▸ hq)⟩
  simpa [State.bounded, State.conf, hb, hc] using h.bounded k

/-- A change of the Budget Unit and of the map. -/
theorem onBudget (e : t.lc = s.lc ∧ t.bk = s.bk) (hlen : s.map.length = 128 → t.map.length = 128)
    (hof : offersInPlace s.bu.offers → offersInPlace t.bu.offers)
    (hbd : s.bounded → t.bounded) (hab : s.bounded → s.clearAbove → t.clearAbove) : a.Upholds t :=
  h.trans ⟨hlen, fun k => e.1 ▸ k, fun k => e.2 ▸ k, hof, hbd, hab⟩

/-- A fold of operations each of which upholds. -/
theorem foldl {β : Type} (f : Work → β → Work) (hf : ∀ v b, a.Upholds v.toState → a.Upholds (f v b).toState) (l : List β)
    {w : Work} (hw : s = w.toState) : a.Upholds (l.foldl f w).toState :=
  foldl_induct (fun v => a.Upholds v.toState) f hf l w (hw ▸ h)

end

end State.Upholds

/-! ## Queue and waiting frames -/

section
variable {l : Link}

/-- Frames whose age stamps are among those there were, or are older than a later next one, stay in order. -/
theorem Link.fresh_of_ids {m : Link} (h : l.fresh)
    (hi : ((m.queue ++ m.waiting).map QFrame.id).Subperm ((l.queue ++ l.waiting).map QFrame.id))
    (hn : l.nextId ≤ m.nextId) : m.fresh := by
  obtain ⟨hnd, hlt⟩ := h
  obtain ⟨ids, hp, hs⟩ := hi
  exact ⟨hp.nodup_iff.1 (hnd.sublist hs), fun i him => (hlt i (hs.subset (hp.mem_iff.2 him))).trans_le hn⟩

/-- A frame with the next age stamp may join them. -/
theorem Link.fresh_of_new_id {m : Link} (h : l.fresh)
    (hi : ((m.queue ++ m.waiting).map QFrame.id).Subperm (l.nextId :: (l.queue ++ l.waiting).map QFrame.id))
    (hn : m.nextId = l.nextId + 1) : m.fresh := by
  obtain ⟨hnd, hlt⟩ := h
  obtain ⟨ids, hp, hs⟩ := hi
  have hnew : (l.nextId :: (l.queue ++ l.waiting).map QFrame.id).Nodup :=
    List.nodup_cons.2 ⟨fun hm => Nat.lt_irrefl _ (hlt _ hm), hnd⟩
  refine ⟨hp.nodup_iff.1 (hnew.sublist hs), fun i him => ?_⟩
  rcases List.mem_cons.1 (hs.subset (hp.mem_iff.2 him)) with rfl | hold
  · omega
  · have := hlt i hold
    omega

theorem Link.removeOffLine_fresh (h : l.fresh) (p : Frame → Bool) : (l.removeOffLine p).fresh := by
  refine Link.fresh_of_ids h ?_ (Nat.le_refl l.nextId)
  refine ((Link.promote_perm _).map _).subperm.trans (List.Sublist.subperm (List.Sublist.map _ ?_))
  exact List.filter_sublist.append List.filter_sublist

theorem Link.removeOffLine_inPlace (h : l.inPlace) (p : Frame → Bool) : (l.removeOffLine p).inPlace :=
  ⟨Link.promote_length _ ((List.length_filter_le _ _).trans h.1), l.removeOffLine_fresh h.2 p⟩

theorem Link.dropId_fresh (h : l.fresh) (id : Nat) : (l.dropId id).fresh := by
  refine Link.fresh_of_ids h ?_ (Nat.le_refl l.nextId)
  refine ((Link.promote_perm _).map _).subperm.trans (List.Sublist.subperm (List.Sublist.map _ ?_))
  exact List.filter_sublist.append (List.Sublist.refl _)

theorem Link.dropId_inPlace (h : l.inPlace) (id : Nat) : (l.dropId id).inPlace :=
  ⟨Link.promote_length _ ((List.length_filter_le _ _).trans h.1), l.dropId_fresh h.2 id⟩

@[simp] theorem Link.returned_nextId (l : Link) (id : Nat) : (l.returned id).nextId = l.nextId := by
  unfold Link.returned Link.supersede
  (repeat' split) <;> rfl

theorem Link.returned_inPlace (h : l.inPlace) (id : Nat) : (l.returned id).inPlace :=
  ⟨l.returned_length id h.1, Link.fresh_of_ids h.2 (l.returned_ids id) (l.returned_nextId id).ge⟩

/-- A change of frames and retry counts that keeps the age stamps. -/
theorem Link.fresh_of_map_ids {m : Link} (h : l.fresh) (hq : m.queue.map QFrame.id = l.queue.map QFrame.id)
    (hw : m.waiting.map QFrame.id = l.waiting.map QFrame.id) (hn : m.nextId = l.nextId) : m.fresh := by
  refine Link.fresh_of_ids h ?_ hn.ge
  rw [List.map_append, List.map_append, hq, hw]

theorem Link.inPlace_of_map_ids {m : Link} (h : l.inPlace) (hq : m.queue.map QFrame.id = l.queue.map QFrame.id)
    (hw : m.waiting.map QFrame.id = l.waiting.map QFrame.id) (hn : m.nextId = l.nextId) : m.inPlace := by
  have hlen : m.queue.length = l.queue.length := by simpa using congrArg List.length hq
  exact ⟨hlen ▸ h.1, Link.fresh_of_map_ids h.2 hq hw hn⟩

theorem Link.inPlace_of_same {m : Link} (h : l.inPlace) (hq : m.queue = l.queue) (hw : m.waiting = l.waiting)
    (hn : m.nextId = l.nextId) : m.inPlace :=
  Link.inPlace_of_map_ids h (congrArg _ hq) (congrArg _ hw) hn

theorem insertFrame_ids (x : QFrame) (l : List QFrame) : ((insertFrame x l).map QFrame.id).Perm (x.id :: l.map QFrame.id) :=
  (insertFrame_perm x l).map _

theorem Link.place_fresh (h : l.fresh) (f : Frame) : (l.place f).fresh := by
  refine Link.fresh_of_new_id h ?_ ?_
  · unfold Link.place
    dsimp only
    split
    · simpa using (((insertFrame_ids _ l.queue).append_right _)).subperm
    · split
      · exact (List.sublist_cons_self _ _).subperm
      · split
        · refine (List.Perm.subperm ((insertFrame_perm _ _).append_right _ |>.map _)).trans ?_
          exact ((List.filter_sublist.append_right _).map QFrame.id).cons_cons _ |>.subperm
        · refine (List.Perm.subperm ?_)
          rw [List.map_append, List.map_append]
          exact ((insertFrame_ids _ l.waiting).append_left _).trans List.perm_middle
  · unfold Link.place
    dsimp only
    (repeat' split) <;> rfl

/-- A frame that takes a place displaces one of class 4 at most (R104). -/
theorem Link.mem_place_of_mem (h : l.fresh) (f : Frame) {x : QFrame} (hx : x ∈ l.queue ++ l.waiting)
    (hc : classOf x.frame ≠ 4) : x ∈ (l.place f).queue ++ (l.place f).waiting := by
  unfold Link.place
  dsimp only
  split
  · simp only [List.mem_append, mem_insertFrame] at hx ⊢
    tauto
  · split
    · exact hx
    · split
      · rename_i y hy
        have hy4 : classOf y.frame = 4 ∧ y ∈ l.queue := by
          have hp := List.find?_some hy
          have hm := List.mem_of_find?_eq_some hy
          simp only [Bool.and_eq_true, beq_iff_eq, List.mem_reverse] at hp hm
          exact ⟨hp.1, hm⟩
        have hne : x.id ≠ y.id := fun he => hc (by
          rw [List.inj_on_of_nodup_map h.1 hx (List.mem_append_left _ hy4.2) he]
          exact hy4.1)
        simp only [List.mem_append, mem_insertFrame, List.mem_filter] at hx ⊢
        rcases hx with hq | hw
        · exact .inl (.inr ⟨hq, by simpa using hne⟩)
        · exact .inr hw
      · simp only [List.mem_append, mem_insertFrame] at hx ⊢
        tauto

theorem mergeInto_ids (sel : QFrame → Option (List Nat)) (put : List Nat → Frame) (qs : List Nat) (l : List QFrame) :
    (mergeInto sel put qs l).1.map QFrame.id = l.map QFrame.id := by
  induction l generalizing qs with
  | nil => rfl
  | cons x l ih =>
    unfold mergeInto
    split <;> simp [ih]

theorem Link.mergeOrPlace_fresh (h : l.fresh) (sel : QFrame → Option (List Nat)) (put : List Nat → Frame) (qs : List Nat) :
    (l.mergeOrPlace sel put qs).fresh := by
  unfold Link.mergeOrPlace
  refine foldl_induct Link.fresh _ (fun m _ hm => m.place_fresh hm _) _ _ ?_
  exact Link.fresh_of_map_ids h (mergeInto_ids _ _ _ _) (mergeInto_ids _ _ _ _) rfl

theorem Link.coalesceOrPlace_fresh (h : l.fresh) (same : Frame → Bool) (f : Frame) : (l.coalesceOrPlace same f).fresh := by
  unfold Link.coalesceOrPlace
  dsimp only
  split
  · refine Link.fresh_of_map_ids h ?_ ?_ rfl <;>
    · rw [List.map_map]
      refine List.map_congr_left fun x _ => ?_
      simp only [Function.comp]
      split <;> rfl
  · exact l.place_fresh h f

theorem Link.enqueue_fresh (h : l.fresh) (f : Frame) : (l.enqueue f).fresh := by
  cases f with
  | contest qs => exact l.mergeOrPlace_fresh h _ _ _
  | release b qs => exact l.mergeOrPlace_fresh h _ _ _
  | report => exact l.coalesceOrPlace_fresh h _ _
  | budget => exact l.coalesceOrPlace_fresh h _ _
  | claim => exact l.place_fresh h _
  | yieldReq => exact l.place_fresh h _
  | yieldAns => exact l.place_fresh h _
  | join => exact l.place_fresh h _
  | leave => exact l.place_fresh h _

theorem Link.enqueue_inPlace (h : l.inPlace) (f : Frame) : (l.enqueue f).inPlace :=
  ⟨l.enqueue_length f h.1, l.enqueue_fresh h.2 f⟩

end

/-! ## Bookings and notices -/

section
variable {k : Bookings}

theorem markNewest_length (l : List Notice) : (markNewest l).length = l.length := by
  induction l with
  | nil => rfl
  | cons n l ih =>
    cases l with
    | nil => rfl
    | cons m l => simpa [markNewest] using ih

theorem postUrgent_length (l : List Notice) (n : Notice) (h : l.length ≤ 16) : (postUrgent l n).length ≤ 16 := by
  unfold postUrgent
  split
  · rename_i hl
    simp only [Config.noticePlaces] at hl
    simp
    omega
  · rwa [markNewest_length]

/-- The table keeps its size and an INFO notice is posted at level 8 or fewer, so that both stay in their places (R171). -/
theorem Bookings.inPlace_of {m : Bookings} (h : k.inPlace) (ht : m.table.length = k.table.length)
    (hn : k.notices.length ≤ 16 → m.notices.length ≤ 16) : m.inPlace := ⟨ht.trans h.1, hn h.2⟩

theorem Bookings.offer_inPlace (h : k.inPlace) (i v time : Nat) : (k.offer i v time).inPlace := by
  unfold Bookings.offer
  split
  · exact h
  · rename_i b _
    dsimp only
    split
    · exact Bookings.inPlace_of h (by simp) (postUrgent_length _ _)
    · split
      · exact Bookings.inPlace_of h (by simp) id
      · split
        · rename_i hl
          simp only [Config.infoLevel] at hl
          exact Bookings.inPlace_of h (by simp) (fun _ => by simp; omega)
        · exact Bookings.inPlace_of h (by simp) id

theorem Bookings.postWithheld_inPlace (h : k.inPlace) : k.postWithheld.inPlace := by
  unfold Bookings.postWithheld
  split
  · rename_i hl
    simp only [Config.infoLevel] at hl
    split
    · exact Bookings.inPlace_of h (by simp) (fun _ => by simp; omega)
    · exact h
  · exact h

/-- A fetch takes a notice out before the withheld ones are posted (R171, R174). -/
theorem Bookings.fetch_inPlace (h : k.inPlace) : k.fetch.inPlace := by
  unfold Bookings.fetch
  split
  · exact h
  · rename_i n rest hn
    refine foldl_induct Bookings.inPlace _ (fun m _ hm => m.postWithheld_inPlace hm) _ _ ?_
    refine Bookings.inPlace_of h rfl fun hl => ?_
    rw [hn, List.length_cons] at hl
    exact (Nat.le_succ _).trans hl

end

section
variable {a : State} {w : Work} (h : a.Upholds w.toState)
include h

theorem Work.suspendCause_upholds (r : SuspReason) : a.Upholds (w.suspendCause r).toState := h.elsewhere (by simp)

theorem Work.derive_upholds : a.Upholds w.derive.toState := h.elsewhere (by simp)

theorem Work.setSession_upholds (f : Session → Session) : a.Upholds (w.setSession f).toState := h.elsewhere (by simp)

theorem Work.notice_upholds (c : SysCode) (v : Nat) (tags : List Byte) : a.Upholds (w.notice c v tags).toState :=
  h.elsewhere (by simp)

theorem Work.takeAction_upholds (x : Action) : a.Upholds (w.takeAction x).toState := by
  cases x with
  | notify => exact h
  | shed => exact h.onBookings (by simp) (fun k => k)
  | freeze => exact h.onBookings (by simp) (fun k => k)
  | suspend => exact w.suspendCause_upholds h _

theorem Work.evaluate_upholds (i : Nat) (hs e : Bool) (v : Nat) : a.Upholds (w.evaluate i hs e v).toState := by
  unfold Work.evaluate
  split
  · exact h
  · dsimp only
    split
    · refine Work.takeAction_upholds (h.onBookings (by simp) fun k => ?_) _
      exact Bookings.inPlace_of k (by simp) id
    · exact h.onBookings (by simp) fun k => Bookings.inPlace_of k (by simp) id

theorem Work.hand_upholds (sel : Trigger → Option (Bool × Bool × Nat)) : a.Upholds (w.hand sel).toState := by
  refine h.foldl _ (fun v i hv => ?_) _ rfl
  split
  · exact v.evaluate_upholds hv _ _ _ _
  · exact hv

theorem Work.handPeer_upholds (t : Nat) (m : Bool) : a.Upholds (w.handPeer t m).toState := by
  unfold Work.handPeer
  exact w.hand_upholds h _
theorem Work.handBudget_upholds : a.Upholds w.handBudget.toState := by
  unfold Work.handBudget
  exact w.hand_upholds h _
theorem Work.handTarget_upholds : a.Upholds w.handTarget.toState := by
  unfold Work.handTarget
  exact w.hand_upholds h _
theorem Work.handRisk_upholds : a.Upholds w.handRisk.toState := by
  unfold Work.handRisk
  exact w.hand_upholds h _
theorem Work.handStepEnd_upholds (k : Nat) : a.Upholds (w.handStepEnd k).toState := by
  unfold Work.handStepEnd
  exact w.hand_upholds h _
theorem Work.handEnergy_upholds : a.Upholds w.handEnergy.toState := by
  unfold Work.handEnergy
  exact w.hand_upholds h _
theorem Work.handMode_upholds : a.Upholds w.handMode.toState := by
  unfold Work.handMode
  exact w.hand_upholds h _

theorem Work.handConflict_upholds : a.Upholds w.handConflict.toState := by
  unfold Work.handConflict
  split
  · exact h
  · exact Work.hand_upholds (h.elsewhere (by simp)) _

theorem Work.refreshMarks_upholds : a.Upholds w.refreshMarks.toState :=
  h.onBookings (by simp) fun k => Bookings.inPlace_of k (by simp [Work.refreshMarks]) id

theorem Work.flushNotices_upholds : a.Upholds w.flushNotices.toState := by
  refine h.onBookings (by simp) fun k => ?_
  unfold Work.flushNotices
  refine foldl_induct Bookings.inPlace _ (fun m _ hm => m.offer_inPlace hm _ _ _) _ _ ?_
  refine Bookings.inPlace_of k rfl fun hl => ?_
  exact foldl_induct (fun q : List Notice => q.length ≤ 16) _ (fun q _ hq => postUrgent_length q _ hq) _ _ hl

end

end Sys2Proof.Machine
end

section
/-! SUPPORT. The operations of the blocks uphold. -/

namespace Sys2Proof.Machine

theorem vacant_needsBudget (s : State) (q : Nat) (h : s.bu.bEff ≤ q) : (s.vacant q).needsBudget = false := by
  simp [State.vacant, Nat.not_lt.2 h, QEntry.needsBudget]

/-- The completion of a drain at or above B_eff gives no entry that needs budget (R29, R30). -/
theorem State.drained_needsBudget (s : State) (q : Nat) (e : QEntry) (hq : s.bu.bEff ≤ q) (he : e.needsBudget = false) :
    (s.drained q e).needsBudget = false := by
  unfold State.drained
  split
  · rfl
  · exact vacant_needsBudget _ _ hq
  · split
    · exact vacant_needsBudget _ _ hq
    · rfl
  · exact he

/-- An entry of the map that needs budget lies below B_eff. -/
theorem State.clearAbove.lt {s : State} (h : s.clearAbove) {q : Nat} {e : QEntry} (he : s.entry q = e)
    (hn : e.needsBudget = true) : q < s.bu.bEff := by
  by_contra hq
  have := h q (Nat.le_of_not_lt hq)
  rw [he, hn] at this
  cases this

theorem Work.map_completeDrains (w : Work) (qs : List Nat) : (w.completeDrains qs).map =
    qs.foldl (fun m q => m.set q (w.toState.drained q (m.getD q .free))) w.map := by
  unfold Work.completeDrains
  exact foldl_keeps (fun w : Work => w.map) _ (fun a b => by simp) _ _

section
variable {a : State} {w : Work} (h : a.Upholds w.toState)
include h

/-! ## Frames and entries -/

theorem Work.enqueue_upholds (f : Frame) : a.Upholds (w.enqueue f).toState := by
  refine h.onLink (by simp) fun k => ?_
  unfold Work.enqueue
  split
  · exact k
  · exact k
  · split
    · exact Link.enqueue_inPlace k f
    · exact k

theorem Work.setEntry_upholds (q : Nat) (e : QEntry) (he : a.bounded → a.clearAbove → w.bu.bEff ≤ q → e.needsBudget = false) :
    a.Upholds (w.setEntry q e).toState := by
  refine h.onMap (by simp) (by simp) fun k kb kc r hr => ?_
  rw [Work.entry_setEntry]
  split
  · rename_i hq
    exact he kb kc (hq.1 ▸ hr)
  · exact k r hr

/-- Listed entries take a value that needs no budget, or lie below B_eff. -/
theorem Work.setListed_upholds (qs : List Nat) (e : QEntry) (x : Holdings)
    (he : ∀ q ∈ qs, w.toState.clearAbove → w.bu.bEff ≤ q → e.needsBudget = false) :
    a.Upholds ({ w with map := qs.foldl (fun m q => m.set q e) w.map, hc := x } : Work).toState := by
  refine h.onMap (by simp) ?_ fun k _ _ q hq => ?_
  · rw [foldl_keeps List.length _ (fun _ _ => List.length_set ..)]
    exact id
  · change QEntry.needsBudget (List.getD _ q QEntry.withdrawn) = false
    rw [getD_foldl_set]
    split
    · rename_i hm
      exact he q hm.1 k hq
    · exact k q hq

theorem Work.mapAll_upholds (f : Nat → QEntry → QEntry)
    (hf : ∀ q e, w.bu.bEff ≤ q → e.needsBudget = false → (f q e).needsBudget = false) :
    a.Upholds (w.mapAll f).toState := by
  refine h.onMap (by simp) (by simp) fun k _ _ q hq => ?_
  by_cases hl : q < w.map.length
  · rw [Work.entry_mapAll _ _ _ hl]
    exact hf q _ hq (k q hq)
  · rw [Work.entry_mapAll_ge _ _ _ (Nat.le_of_not_lt hl)]
    rfl

theorem Work.startDrain_upholds (r : DrainReason) (b : Option Nat) (qs : List Nat) :
    a.Upholds (w.startDrain r b qs).toState := by
  refine h.onMap (by simp) (by simp) fun k _ _ q hq => ?_
  rw [Work.entry_startDrain]
  split
  · rfl
  · exact k q hq

theorem Work.drainMine_upholds (r : DrainReason) (p : Nat → Bool) : a.Upholds (w.drainMine r p).toState :=
  w.startDrain_upholds h _ _ _

theorem Work.freeLocally_upholds (qs : List Nat) : a.Upholds (w.freeLocally qs).toState := by
  refine h.onMap (by simp) (by simp) fun k _ _ q hq => ?_
  rw [Work.entry_freeLocally]
  split
  · exact vacant_needsBudget _ _ hq
  · exact k q hq

theorem Work.completeDrains_upholds (qs : List Nat) : a.Upholds (w.completeDrains qs).toState := by
  unfold Work.completeDrains
  refine State.Upholds.foldl (s := Work.toState _) (h.onMap (by simp) ?_ fun k _ _ q hq => ?_) _
    (fun v b hv => v.enqueue_upholds hv _) _ rfl
  · rw [foldl_keeps List.length _ (fun _ _ => List.length_set ..)]
    exact id
  · change ((qs.foldl (fun m q => m.set q (w.toState.drained q (m.getD q .free))) w.map).getD q .withdrawn).needsBudget = false
    rw [← w.map_completeDrains]
    change ((w.completeDrains qs).toState.entry q).needsBudget = false
    rw [Work.entry_completeDrains]
    split
    · exact State.drained_needsBudget _ _ _ hq (k q hq)
    · exact k q hq

theorem Work.completeAll_upholds : a.Upholds w.completeAll.toState := w.completeDrains_upholds h _

theorem Work.orderDrains_upholds (n : Nat) : a.Upholds (w.orderDrains n).toState := h.elsewhere (by simp)

/-! ## Claims and sweeps -/

theorem Work.endClaim_upholds : a.Upholds w.endClaim.toState := h.elsewhere (by simp)

theorem Work.leaveClaim_upholds (q : Nat) : a.Upholds (w.leaveClaim q).toState := h.elsewhere (by simp)

theorem Work.giveUpPending_upholds (f : Bool) (qs : List Nat) : a.Upholds (w.giveUpPending f qs).toState := by
  unfold Work.giveUpPending
  have fold : ∀ ps : List Nat, a.Upholds
      (ps.foldl (fun (v : Work) q => (v.setEntry q (w.toState.vacant q)).leaveClaim q) w).toState := by
    intro ps
    refine (foldl_induct (fun v : Work => a.Upholds v.toState ∧ v.bu = w.bu) _ (fun v q hv => ?_) ps w ⟨h, rfl⟩).1
    obtain ⟨hv, hb⟩ := hv
    exact ⟨Work.leaveClaim_upholds (v.setEntry_upholds hv _ _ fun _ _ hq => vacant_needsBudget _ _ (hb ▸ hq)) _, by simpa⟩
  dsimp only
  split
  · exact Work.enqueue_upholds (fold _) _
  · exact fold _

theorem Work.considerClaiming_upholds : a.Upholds w.considerClaiming.toState := by
  unfold Work.considerClaiming
  dsimp only
  split
  · exact Work.enqueue_upholds (h.elsewhere (by simp)) _
  · exact h

theorem Work.endSweep_upholds : a.Upholds w.endSweep.toState := h.elsewhere (by simp)

theorem Work.endRequest_upholds (r : Reply) : a.Upholds (w.endRequest r).toState := h.elsewhere (by simp)

theorem Work.sendRequest_upholds (t : Nat) (d : Disposition) (c : Nat) (l : List Nat) :
    a.Upholds (w.sendRequest t d c l).toState := Work.enqueue_upholds (h.elsewhere (by simp)) _

theorem Work.sweepMove_upholds : a.Upholds w.sweepMove.toState := by
  unfold Work.sweepMove
  dsimp only
  split
  · exact h
  · split
    · exact w.endSweep_upholds h
    · split
      · exact h
      · split
        · exact h.elsewhere (by simp)
        · split
          · exact Work.sendRequest_upholds (h.elsewhere (by simp)) _ _ _ _
          · exact h.elsewhere (by simp)
        · exact w.endSweep_upholds h
        · split
          · exact h.elsewhere (by simp)
          · exact Work.sendRequest_upholds (h.elsewhere (by simp)) _ _ _ _

theorem Work.sweepProgress_upholds : a.Upholds w.sweepProgress.toState := by
  unfold Work.sweepProgress
  split
  · refine State.Upholds.foldl (s := w.considerSweep.toState) (h.elsewhere (by simp)) _ (fun v _ hv => v.sweepMove_upholds hv) _ rfl
  · split
    · exact w.endSweep_upholds h
    · exact h

theorem Work.holdingsProgress_upholds : a.Upholds w.holdingsProgress.toState := by
  unfold Work.holdingsProgress
  dsimp only
  refine Work.sweepProgress_upholds (Work.considerClaiming_upholds ?_)
  split
  · exact h.elsewhere (by simp)
  · exact h.elsewhere (by simp)

/-! ## Removal of frames -/

theorem Work.removeOffLine_upholds (p : Frame → Bool) :
    a.Upholds { w with lc := w.lc.removeOffLine p }.toState := h.onLink (by simp) fun k => Link.removeOffLine_inPlace k p

theorem Work.removeQueuedClaim_upholds : a.Upholds w.removeQueuedClaim.toState := by
  unfold Work.removeQueuedClaim
  dsimp only
  split
  · exact h
  · exact Work.endClaim_upholds (w.removeOffLine_upholds h _)

theorem Work.removeQueuedRequest_upholds : a.Upholds w.removeQueuedRequest.toState := by
  unfold Work.removeQueuedRequest
  dsimp only
  split
  · exact h
  · exact Work.endRequest_upholds (w.removeOffLine_upholds h _) _

theorem Work.lostFrame_upholds (f : Frame) : a.Upholds (w.lostFrame f).toState := by
  cases f with
  | release b qs => exact w.freeLocally_upholds h qs
  | claim qs =>
    unfold Work.lostFrame
    dsimp only
    split
    · exact w.endClaim_upholds h
    · exact h
  | yieldReq => exact w.endRequest_upholds h _
  | contest | yieldAns | budget | report | join | leave => exact h

theorem Work.loseFrames_upholds (p : Frame → Bool) : a.Upholds (w.loseFrames p).toState :=
  State.Upholds.foldl (w.removeOffLine_upholds h p) _ (fun v x hv => v.lostFrame_upholds hv x.frame) _ rfl

theorem Work.emptyQueue_upholds : a.Upholds w.emptyQueue.toState := by
  unfold Work.emptyQueue
  refine Work.loseFrames_upholds ?_ _
  exact h.onLink (by simp) fun k => Link.inPlace_of_same k rfl rfl rfl

theorem Work.drainSurplus_upholds (n : Nat) : a.Upholds (w.drainSurplus n).toState :=
  Work.startDrain_upholds (w.giveUpPending_upholds h _ _) _ _ _

theorem Work.newTarget_upholds (n : Nat) : a.Upholds (w.newTarget n).toState := by
  have hr : a.Upholds w.endSweep.removeQueuedClaim.toState := Work.removeQueuedClaim_upholds (w.endSweep_upholds h)
  unfold Work.newTarget
  dsimp only
  split
  · exact Work.drainSurplus_upholds (hr.elsewhere (by simp)) _
  · exact hr.elsewhere (by simp)

/-- A quantum below B_eff may become Mine. -/
theorem Work.takeMine_upholds (q : Nat) (r : Option DrainReason) (hq : a.bounded → a.clearAbove → q < w.bu.bEff) :
    a.Upholds (w.takeMine q r).toState := by
  have hm : a.Upholds (w.setEntry q .mine).toState :=
    w.setEntry_upholds h _ _ fun kb kc hle => absurd (hq kb kc) (Nat.not_lt.2 hle)
  unfold Work.takeMine
  cases r with
  | none => exact hm
  | some r => exact Work.startDrain_upholds hm _ _ _

end

end Sys2Proof.Machine
end

section
/-! SUPPORT. The Budget Unit, the Session Sequencer, the Converter Interface, the Peer Table Unit and the frames uphold. -/

namespace Sys2Proof.Machine

/-! ## Offers -/

/-- The offer a full list gives up is one of it. -/
theorem highestOffer_mem (l : List Offer) (o : Offer) (h : highestOffer l = some o) : o ∈ l := by
  induction l generalizing o with
  | nil => cases h
  | cons x l ih =>
    unfold highestOffer at h
    split at h
    · simp_all
    · rename_i p hp
      split at h <;> cases h
      · simp
      · exact List.mem_cons_of_mem _ (ih _ hp)

/-- Replacing the offer of a source by one of a source that has no other keeps the sources distinct. -/
theorem replaceOffer_sources (l : List Offer) (o : Offer) (src : Nat) (h : (l.map Offer.source).Nodup)
    (ho : o.source = src ∨ o.source ∉ l.map Offer.source) :
    ((l.map fun x => if x.source = src then o else x).map Offer.source).Nodup := by
  rw [List.map_map]
  refine (List.nodup_map_iff_inj_on (List.Nodup.of_map _ h)).2 fun x hx y hy hxy => ?_
  have inj := List.inj_on_of_nodup_map h hx hy
  have hox : x.source ∈ l.map Offer.source := List.mem_map_of_mem hx
  have hoy : y.source ∈ l.map Offer.source := List.mem_map_of_mem hy
  simp only [Function.comp] at hxy
  split at hxy <;> split at hxy
  · exact inj (by omega)
  · rcases ho with ho | ho
    · exact inj (by omega)
    · exact absurd (hxy ▸ hoy) ho
  · rcases ho with ho | ho
    · exact inj (by omega)
    · exact absurd (hxy ▸ hox) ho
  · exact inj hxy

/-- The table of R5 keeps the offer list within its places, its sources distinct. -/
theorem takeOffer_inPlace (l m : List Offer) (o : Offer) (h : offersInPlace l) (ht : takeOffer l o = some m) :
    offersInPlace m := by
  obtain ⟨hlen, hnd⟩ := h
  unfold takeOffer at ht
  split at ht
  · split at ht <;> cases ht
    exact ⟨by simpa using hlen, replaceOffer_sources l o _ hnd (.inl rfl)⟩
  · rename_i hnone
    have hnew : o.source ∉ l.map Offer.source := by
      simp only [List.find?_eq_none, beq_iff_eq, List.mem_map, not_exists, not_and] at hnone ⊢
      exact hnone
    split at ht
    · rename_i hroom
      simp only [Config.offerPlaces] at hroom
      cases ht
      refine ⟨by simp; omega, ?_⟩
      rw [List.map_append, List.map_cons, List.map_nil]
      exact List.nodup_append.2 ⟨hnd, by simp, fun x hx y hy hxy => hnew (List.mem_singleton.1 hy ▸ hxy ▸ hx)⟩
    · split at ht
      · split at ht <;> cases ht
        exact ⟨by simpa using hlen, replaceOffer_sources l o _ hnd (.inr hnew)⟩
      · cases ht

/-! ## B_eff -/

theorem foldl_min_le {α : Type} (g : α → Nat) (l : List α) (b : Nat) : l.foldl (fun m x => min m (g x)) b ≤ b := by
  induction l generalizing b with
  | nil => exact Nat.le_refl _
  | cons x l ih => exact (ih _).trans (Nat.min_le_left _ _)

/-- B_eff lies within B_cfg where B_safe does (R7). -/
theorem effectiveBudget_le (c : Cfg) (os : List Offer) (seen : Bool) (h : c.bSafe ≤ c.bCfg) :
    effectiveBudget c os seen ≤ c.bCfg := by
  cases os with
  | nil =>
    unfold effectiveBudget
    dsimp only
    split <;> omega
  | cons o os => exact (foldl_min_le Offer.value os _).trans (Nat.min_le_left _ _)

theorem fallEntry_needsBudget (b c q : Nat) (e : QEntry) (hb : b ≤ q) (he : c ≤ q → e.needsBudget = false) :
    (fallEntry b c q e).needsBudget = false := by
  unfold fallEntry
  split
  · split <;> rfl
  · rename_i h
    exact he (by omega)

/-- The map change of a fall of B_eff, and the drains it starts (R9). -/
def Work.fallMap (w : Work) (b : Nat) : Work :=
  (({ w with bu := { w.bu with bEff := b } } : Work).startDrain .withdrawal none
    (w.toState.mineWhere fun q => decide (b ≤ q ∧ q < w.toState.conf.bCfg))).mapAll (fallEntry b w.toState.conf.bCfg)

/-- A fall of B_eff is its map change; then what was Pending leaves the claim and is released. -/
theorem Work.budgetFall_eq (w : Work) (b : Nat) : w.budgetFall b =
    ((quantaWhere w.map fun q e => e == .pending && decide (b ≤ q ∧ q < w.toState.conf.bCfg)).foldl
      (fun (w : Work) q => w.leaveClaim q) (w.fallMap b)).enqueue
        (.release none (quantaWhere w.map fun q e => e == .pending && decide (b ≤ q ∧ q < w.toState.conf.bCfg))) := rfl

/-- One entry after B_eff has fallen (R9). -/
theorem Work.entry_fallMap (w : Work) (b q : Nat) : (w.fallMap b).toState.entry q =
    if q < w.map.length then fallEntry b w.toState.conf.bCfg q (w.toState.entry q) else .withdrawn := by
  unfold Work.fallMap
  by_cases hl : q < w.map.length
  · rw [if_pos hl, Work.entry_mapAll _ _ _ (by simpa using hl), Work.entry_startDrain]
    split
    · rename_i h
      obtain ⟨hm, he⟩ := h
      have he : w.toState.entry q = .mine := he
      simp only [State.mineWhere, mem_quantaWhere, Bool.and_eq_true, decide_eq_true_eq] at hm
      obtain ⟨_, _, _, hr⟩ := hm
      simp [he, fallEntry, hr]
    · rfl
  · rw [if_neg hl]
    exact Work.entry_mapAll_ge _ _ _ (by simpa using Nat.le_of_not_lt hl)

@[simp] theorem Work.fallMap_length (w : Work) (b : Nat) : (w.fallMap b).map.length = w.map.length := by
  unfold Work.fallMap
  rw [Work.mapAll_length, Work.startDrain_length]

@[simp] theorem Work.fallMap_bu (w : Work) (b : Nat) : (w.fallMap b).bu = { w.bu with bEff := b } := rfl
@[simp] theorem Work.fallMap_lc (w : Work) (b : Nat) : (w.fallMap b).lc = w.lc := rfl
@[simp] theorem Work.fallMap_bk (w : Work) (b : Nat) : (w.fallMap b).bk = w.bk := rfl
@[simp] theorem Work.fallMap_cpi (w : Work) (b : Nat) : (w.fallMap b).cpi = w.cpi := rfl

theorem Work.map_budgetFall (w : Work) (b : Nat) : (w.budgetFall b).map = (w.fallMap b).map := by
  rw [Work.budgetFall_eq, (Work.enqueue_keeps _ _).2.2.2.2.2.1, foldl_keeps (fun w : Work => w.map) _ (fun a b => by simp) _ _]

section
variable {a : State} {w : Work} (h : a.Upholds w.toState)
include h

theorem Work.budgetFall_upholds (b : Nat) (hb : w.toState.bounded → b ≤ w.toState.conf.bCfg) :
    a.Upholds (w.budgetFall b).toState := by
  have hf : a.Upholds (w.fallMap b).toState := by
    refine h.onBudget (by simp) (by simp) (fun k => k) (fun k => ⟨hb k, k.2⟩) fun k hc q hq => ?_
    rw [Work.entry_fallMap]
    split
    · exact fallEntry_needsBudget _ _ _ _ hq fun hle => hc q (k.1.trans hle)
    · rfl
  rw [Work.budgetFall_eq]
  exact Work.enqueue_upholds (hf.foldl _ (fun v q hv => v.leaveClaim_upholds hv q) _ rfl) _

theorem Work.budgetRise_upholds (b : Nat) (hb : w.toState.bounded → b ≤ w.toState.conf.bCfg) (hlt : w.bu.bEff < b) :
    a.Upholds (w.budgetRise b).toState := by
  refine h.onBudget (by simp) (by simp [Work.budgetRise]) (fun k => k) (fun k => ⟨hb k, k.2⟩) fun k hc q hq => ?_
  have hq : b ≤ q := hq
  rw [Work.entry_budgetRise, if_neg (by omega)]
  exact hc q (by omega)

theorem Work.formBudget_upholds : a.Upholds w.formBudget.toState := by
  have hb : w.toState.bounded → effectiveBudget w.toState.conf w.bu.offers w.bu.seen ≤ w.toState.conf.bCfg :=
    fun k => effectiveBudget_le _ _ _ k.2
  unfold Work.formBudget
  dsimp only
  split
  · exact Work.handBudget_upholds (w.budgetFall_upholds h _ hb)
  · split
    · rename_i hlt
      exact Work.handBudget_upholds (w.budgetRise_upholds h _ hb hlt)
    · exact h

/-- A change of the offer list. -/
theorem Work.setOffers_upholds (l : List Offer) (seen : Bool)
    (hl : offersInPlace w.bu.offers → offersInPlace l) :
    a.Upholds ({ w with bu := { w.bu with offers := l, seen := seen } } : Work).toState :=
  h.onBudget (by simp) (fun k => k) hl (fun k => k) (fun _ k => k)

theorem Work.hearBudget_upholds (t src v n hold : Nat) : a.Upholds (w.hearBudget t src v n hold).toState := by
  unfold Work.hearBudget
  dsimp only
  split
  · exact h
  · split
    · rename_i l hl
      exact Work.formBudget_upholds (w.setOffers_upholds h l true fun k => takeOffer_inPlace _ _ _ k hl)
    · exact h

theorem Work.removeOffer_upholds (src : Nat) : a.Upholds (w.removeOffer src).toState := by
  refine Work.formBudget_upholds (w.setOffers_upholds h _ w.bu.seen fun k => ?_)
  exact ⟨(List.length_filter_le _ _).trans k.1, k.2.sublist (List.filter_sublist.map _)⟩

theorem Work.offerBudget_upholds (v hold : Nat) : a.Upholds (w.offerBudget v hold).toState := by
  unfold Work.offerBudget
  refine Work.enqueue_upholds ?_ _
  exact h.onBudget (by simp) (fun k => k) (fun k => k) (fun k => k) (fun _ k => k)

/-! ## Session Sequencer -/

theorem Work.putSession_upholds (r : Session × List Nat) : a.Upholds (w.putSession r).toState := by
  unfold Work.putSession
  refine State.Upholds.foldl (s := ((w.setSession fun _ => r.1).derive).toState) (h.elsewhere (by simp)) _
    (fun v k hv => v.handStepEnd_upholds hv k) _ rfl

theorem Work.testStep_upholds (c : List EndCause) : a.Upholds (w.testStep c).toState := by
  unfold Work.testStep
  (repeat' split) <;> first
    | exact w.putSession_upholds h _
    | exact h

theorem Work.testRemaining_upholds : a.Upholds w.testRemaining.toState := h.elsewhere (by simp)

theorem Work.sessionMeter_upholds (e : Nat) : a.Upholds (w.sessionMeter e).toState := by
  unfold Work.sessionMeter
  refine Work.testRemaining_upholds (Work.testStep_upholds (Work.handEnergy_upholds ?_) _)
  exact h.elsewhere (by simp)

theorem Work.resumeSession_upholds : a.Upholds w.resumeSession.toState := by
  unfold Work.resumeSession
  dsimp only
  split
  · exact h
  · split
    · refine Work.testRemaining_upholds (Work.testStep_upholds ?_ _)
      exact h.elsewhere (by simp)
    · exact Work.testRemaining_upholds (w.putSession_upholds h _)

theorem Work.autoResume_upholds : a.Upholds w.autoResume.toState := by
  unfold Work.autoResume
  split
  · split
    · split
      · exact w.suspendCause_upholds h _
      · exact w.resumeSession_upholds h
    · exact h
  · exact h

theorem Work.endSession_upholds (r : EndReason) : a.Upholds (w.endSession r).toState := by
  unfold Work.endSession
  refine Work.endSweep_upholds (Work.removeQueuedRequest_upholds (Work.removeQueuedClaim_upholds
    (Work.giveUpPending_upholds (Work.drainMine_upholds ?_ _ _) _ _)))
  exact h.elsewhere (by simp)

theorem Work.testSessionEnd_upholds : a.Upholds w.testSessionEnd.toState := by
  unfold Work.testSessionEnd
  split
  · exact h
  · split
    · refine Work.handEnergy_upholds ?_
      exact h.elsewhere (by simp)
    · exact h

theorem Work.takeAdmission_upholds (p : List Byte) : a.Upholds (w.takeAdmission p).toState := by
  unfold Work.takeAdmission
  refine Work.handEnergy_upholds ?_
  split
  · exact Work.putSession_upholds (h.elsewhere (by simp)) _
  · exact h.elsewhere (by simp)

theorem Work.vehicleUpdate_upholds (p : List Byte) : a.Upholds (w.vehicleUpdate p).toState := by
  unfold Work.vehicleUpdate
  exact Work.derive_upholds (Work.testRemaining_upholds (Work.testStep_upholds (w.setSession_upholds h _) _))

theorem Work.runOut_upholds : a.Upholds w.runOut.toState := by
  unfold Work.runOut
  refine Work.testStep_upholds ?_ _
  exact h.elsewhere (by simp)

theorem Work.clearActions_upholds (shed freeze : Bool) : a.Upholds (w.clearActions shed freeze).toState := by
  unfold Work.clearActions
  dsimp only
  split
  · exact h.onBookings (by simp) fun k => k
  · exact h.onBookings (by simp) fun k => k

/-! ## Converter Interface -/

theorem Work.formAndSend_upholds : a.Upholds w.formAndSend.toState := h.elsewhere (by simp)

theorem Work.drainTests_upholds (r : Meter) (l : Nat) : a.Upholds (w.drainTests r l).toState := by
  unfold Work.drainTests
  split
  · exact h
  · split
    · exact State.Upholds.elsewhere (s := w.completeAll.toState) (w.completeAll_upholds h) (by simp)
    · exact w.completeDrains_upholds h _

theorem Work.takeConverterState_upholds (b : ConvState) (r : Meter) : a.Upholds (w.takeConverterState b r).toState :=
  h.elsewhere (by simp)

theorem Work.takeReport_upholds (r : Meter) (l : Nat) : a.Upholds (w.takeReport r l).toState := by
  unfold Work.takeReport
  dsimp only
  refine Work.takeConverterState_upholds (Work.drainTests_upholds (Work.sessionMeter_upholds ?_ _) _ _) _ _
  split
  · exact h.elsewhere (by simp)
  · exact h.elsewhere (by simp)

theorem Work.becomeLost_upholds : a.Upholds w.becomeLost.toState := by
  unfold Work.becomeLost
  refine Work.notice_upholds (Work.suspendCause_upholds (Work.drainMine_upholds ?_ _ _) _) _ _ _
  exact h.elsewhere (by simp)

theorem Work.lostCompletes_upholds : a.Upholds w.lostCompletes.toState := by
  unfold Work.lostCompletes
  split
  · exact w.completeAll_upholds h
  · exact h

theorem Work.drainTimeout_upholds (t : Nat) : a.Upholds (w.drainTimeout t).toState := by
  unfold Work.drainTimeout
  dsimp only
  split
  · exact h.elsewhere (by simp)
  · exact h.elsewhere (by simp)

/-! ## Epoch -/

theorem Work.ite_upholds {v : Work} {c : Prop} [Decidable c] (k : a.Upholds v.toState) :
    a.Upholds (if c then w else v).toState := by
  split
  · exact h
  · exact k

theorem Work.record_upholds (x : Alloc) : a.Upholds ({ w with ae := x } : Work).toState := h.elsewhere (by simp)

theorem Work.epoch_upholds : a.Upholds w.epoch.toState := by
  unfold Work.epoch
  refine Work.handRisk_upholds (Work.handTarget_upholds ?_)
  suffices hr : ∀ v : Work, a.Upholds v.toState → ∀ n, a.Upholds (if v.toState.working then v.newTarget n else v).toState by
    refine hr _ (Work.record_upholds (Work.ite_upholds (Work.enqueue_upholds ?_ _) ?_) _) _ <;> exact h.elsewhere (by simp)
  exact fun v hv n => Work.ite_upholds (v.newTarget_upholds hv n) hv

/-! ## Peer Table Unit -/

theorem Work.hearPeer_upholds (t : Nat) (f : Frame) : a.Upholds (w.hearPeer t f).toState := by
  unfold Work.hearPeer
  split
  · exact h
  · refine Work.ite_upholds ?_ (Work.handPeer_upholds ?_ _ _) <;>
      (refine Work.ite_upholds (Work.notice_upholds ?_ _ _ _) ?_ <;> exact h.elsewhere (by simp))

theorem Work.setPeer_upholds (t : Nat) (f : Peer → Peer) : a.Upholds (w.onState fun s => s.setPeer t f).toState :=
  h.elsewhere ⟨rfl, rfl, rfl, rfl, rfl⟩

theorem Work.silence_upholds (t : Nat) : a.Upholds (w.silence t).toState :=
  Work.handPeer_upholds (w.setPeer_upholds h _ _) _ _

theorem Work.forgetHoldings_upholds (t : Nat) (k : Bool) : a.Upholds (w.forgetHoldings t k).toState := by
  refine w.mapAll_upholds h _ fun q e hq he => ?_
  unfold State.forgetEntry
  (repeat' split) <;> first
    | exact he
    | exact vacant_needsBudget _ _ hq

theorem Work.expel_upholds (t : Nat) : a.Upholds (w.expel t).toState :=
  Work.handPeer_upholds (Work.forgetHoldings_upholds (w.setPeer_upholds h _ _) _ _) _ _

theorem Work.countRequest_upholds : a.Upholds w.countRequest.toState := h.elsewhere (by simp)

end

end Sys2Proof.Machine
end

section
/-! SUPPORT. The frames of the Pad Link, the changes of mode and the end of a step uphold. -/

namespace Sys2Proof.Machine

theorem startMap_needsBudget (c q : Nat) (hq : c ≤ q) : ((startMap c).getD q .withdrawn).needsBudget = false := by
  by_cases hl : q < 128
  · rw [startMap_getD _ _ hl, if_neg (by omega)]
    rfl
  · rw [List.getD_eq_default _ _ (by simpa using hl)]
    rfl

/-! ## Frames of other stations and own echoes -/

/-- A fold keeps an invariant that each of its steps keeps for the elements of its list. -/
theorem foldl_induct_mem {α β : Type} (p : α → Prop) (f : α → β → α) (l : List β) (h : ∀ a, ∀ b ∈ l, p a → p (f a b))
    (a : α) (ha : p a) : p (l.foldl f a) := by
  induction l generalizing a with
  | nil => exact ha
  | cons b l ih => exact ih (fun a c hc => h a c (List.mem_cons_of_mem _ hc)) _ (h _ _ (List.mem_cons_self ..) ha)

section
variable {a : State} {w : Work} (h : a.Upholds w.toState)
include h

theorem Work.conflictOwn_upholds (q t : Nat) : a.Upholds (w.conflictOwn q t).1.toState := by
  unfold Work.conflictOwn
  split
  · exact h
  · split
    · exact (w.startDrain_upholds h .conflict (some t) [q]).elsewhere (by simp)
    · exact (w.setEntry_upholds h q (.draining .conflict (some t)) fun _ _ _ => rfl).elsewhere (by simp)

theorem Work.statedBy_upholds (t q : Nat) : a.Upholds (w.statedBy t q).1.toState := by
  unfold Work.statedBy
  split
  · exact Work.leaveClaim_upholds (w.setEntry_upholds h _ _ fun _ _ _ => rfl) _
  · exact w.conflictOwn_upholds h _ _
  · exact w.setEntry_upholds h _ _ fun _ _ _ => rfl
  · exact w.conflictOwn_upholds h _ _
  · split
    · exact h
    · refine w.setEntry_upholds h _ _ fun _ _ _ => ?_
      unfold Cfg.conflictOthers
      split <;> rfl
  · exact w.setEntry_upholds h _ _ fun _ _ _ => rfl
  · exact w.setEntry_upholds h _ _ fun _ _ _ => rfl

theorem Work.claimedBy_upholds (t q : Nat) : a.Upholds (w.claimedBy t q).1.toState := by
  unfold Work.claimedBy
  (repeat' split) <;> first
    | exact h
    | exact w.setEntry_upholds h _ _ fun _ _ _ => rfl

theorem Work.overQuanta_upholds (f : Work → Nat → Work × List Nat)
    (hf : ∀ v q, a.Upholds v.toState → a.Upholds (f v q).1.toState) (qs : List Nat) :
    a.Upholds (w.overQuanta f qs).1.toState :=
  foldl_induct (fun z : Work × List Nat => a.Upholds z.1.toState)
    (fun z q => let r := f z.1 q; (r.1, z.2 ++ r.2)) (fun z q hz => hf z.1 q hz) qs (w, []) h

theorem contestAndHand_upholds (qs : List Nat) : a.Upholds (contestAndHand (w, qs)).toState :=
  Work.handConflict_upholds (w.enqueue_upholds h _)

theorem Work.statedAll_upholds (t : Nat) (qs : List Nat) : a.Upholds (w.statedAll t qs).1.toState :=
  Work.orderDrains_upholds (w.overQuanta_upholds h _ (fun v q hv => v.statedBy_upholds hv t q) _) _

theorem Work.hearClaim_upholds (t : Nat) (qs : List Nat) : a.Upholds (w.hearClaim t qs).toState :=
  contestAndHand_upholds (w.overQuanta_upholds h _ (fun v q hv => v.claimedBy_upholds hv t q) _) _

theorem Work.hearContest_upholds (t : Nat) (qs : List Nat) : a.Upholds (w.hearContest t qs).toState :=
  contestAndHand_upholds (w.statedAll_upholds h t qs) _

theorem Work.hearHoldings_upholds (t : Nat) (qs : List Nat) : a.Upholds (w.hearHoldings t qs).toState := by
  refine contestAndHand_upholds (Work.statedAll_upholds ?_ t qs) _
  refine w.mapAll_upholds h _ fun q e hq he => ?_
  split
  · split
    · exact vacant_needsBudget _ _ hq
    · rfl
  · exact he

theorem Work.releasedBy_upholds (t : Nat) (b : Option Nat) (q : Nat) : a.Upholds (w.releasedBy t b q).toState := by
  have free : (a.bounded → a.clearAbove → q < w.bu.bEff) → a.Upholds (w.setEntry q .free).toState := fun hq =>
    w.setEntry_upholds h _ _ fun kb kc hle => absurd (hq kb kc) (Nat.not_lt.2 hle)
  have pass : (a.bounded → a.clearAbove → q < w.bu.bEff) → ∀ m : Bool, a.Upholds (match b with
      | none => w.setEntry q .free
      | some u => if u = w.toState.own then (w.setEntry q .free).takeMine q (w.toState.arrivalReason q m)
                  else w.setEntry q (.held u false)).toState := by
    intro hq m
    split
    · exact free hq
    · split
      · exact Work.takeMine_upholds (free hq) _ _ hq
      · exact w.setEntry_upholds h _ _ fun _ _ _ => rfl
  unfold Work.releasedBy
  dsimp only
  split
  · split
    · split
      · rename_i hq
        exact pass (fun _ _ => hq) _
      · exact w.setEntry_upholds h _ _ fun _ _ _ => rfl
    · exact h
  · rename_i he
    exact pass (fun kb kc => (h.above kb kc).lt he rfl) _
  · exact h
  · exact h
  · exact h
  · exact h

theorem Work.hearRelease_upholds (t : Nat) (b : Option Nat) (qs : List Nat) : a.Upholds (w.hearRelease t b qs).toState :=
  Work.orderDrains_upholds (h.foldl _ (fun v q hv => v.releasedBy_upholds hv t _ q) _ rfl) _

theorem Work.grantHome_upholds (r q : Nat) : a.Upholds (w.grantHome r q).toState := by
  unfold Work.grantHome
  split
  · exact w.startDrain_upholds h _ _ _
  · exact w.setEntry_upholds h _ _ fun _ _ _ => rfl
  · exact h

theorem Work.answerYield_upholds (r c : Nat) (d : Disposition) (l : List Nat) :
    a.Upholds (w.answerYield r c d l).toState := by
  unfold Work.answerYield
  dsimp only
  split
  · exact h
  · cases d with
    | surplus => exact Work.enqueue_upholds (w.startDrain_upholds h _ _ _) _
    | home =>
      refine Work.giveUpPending_upholds (Work.enqueue_upholds ?_ _) _ _
      exact h.foldl _ (fun v q hv => v.grantHome_upholds hv r q) _ rfl

theorem Work.noteAnswer_upholds (t : Nat) : a.Upholds (w.noteAnswer t).toState := h.elsewhere (by simp)

theorem Work.takeAnswer_upholds (t r : Nat) (g : List Nat) : a.Upholds (w.takeAnswer t r g).toState := by
  unfold Work.takeAnswer
  refine Work.ite_upholds (Work.noteAnswer_upholds (w.setPeer_upholds h _ _) _)
    (Work.ite_upholds (Work.endRequest_upholds ?_ _) ?_) <;>
  exact Work.setListed_upholds (Work.setPeer_upholds (w.setPeer_upholds h _ _) _ _) _ _ _ fun _ _ _ _ => rfl

theorem Work.echoClaim_upholds (qs : List Nat) : a.Upholds (w.echoClaim qs).toState := by
  unfold Work.echoClaim
  split
  · refine Work.ite_upholds (w.endClaim_upholds h) (Work.ite_upholds (Work.giveUpPending_upholds ?_ _ _) ?_) <;>
    · refine w.setListed_upholds h _ _ _ fun q hm k hq => ?_
      have he : w.toState.entry q = .free := by simpa using (List.mem_filter.1 hm).2
      exact absurd (k.lt he rfl) (Nat.not_lt.2 hq)
  · exact h

theorem Work.echoRelease_upholds (b : Option Nat) (qs : List Nat) : a.Upholds (w.echoRelease b qs).toState := by
  unfold Work.echoRelease
  refine (foldl_induct (fun v : Work => a.Upholds v.toState ∧ v.bu = w.bu) _ (fun v q hv => ?_) _ w ⟨h, rfl⟩).1
  obtain ⟨hv, hb⟩ := hv
  split
  · have hd : a.Upholds ({ v with hc := { v.hc with drains := v.hc.drains.filter fun d => d.quantum ≠ q } } : Work).toState :=
      hv.elsewhere (by simp)
    dsimp only
    split
    · refine ⟨Work.setEntry_upholds hd _ _ fun _ _ _ => ?_, by simpa⟩
      split <;> rfl
    · exact ⟨Work.setEntry_upholds hd _ _ fun _ _ hq => vacant_needsBudget _ _ (hb ▸ hq), by simpa⟩
  · exact ⟨hv, hb⟩

theorem Work.settleClaim_upholds (qs : List Nat) : a.Upholds (w.settleClaim qs).toState := by
  unfold Work.settleClaim
  refine Work.endClaim_upholds (Work.orderDrains_upholds ?_ _)
  refine (foldl_induct_mem (fun v : Work => a.Upholds v.toState ∧ v.bu = w.bu) _ _ (fun v q hm hv => ?_) w ⟨h, rfl⟩).1
  obtain ⟨hv, hb⟩ := hv
  have he : w.toState.entry q = .pending := by simpa using (List.mem_filter.1 hm).2
  exact ⟨v.takeMine_upholds hv q _ fun kb kc => hb ▸ (h.above kb kc).lt he rfl, by simpa⟩

theorem Work.applyFrame_upholds (t : Nat) (f : Frame) : a.Upholds (w.applyFrame t f).toState := by
  unfold Work.applyFrame
  cases f with
  | claim qs => exact Work.ite_upholds (w.hearClaim_upholds h _ _) h
  | contest qs => exact Work.ite_upholds (w.hearContest_upholds h _ _) h
  | release b qs => exact Work.ite_upholds (w.hearRelease_upholds h _ _ _) h
  | report _ _ _ _ _ _ _ hs _ => exact Work.ite_upholds (w.hearHoldings_upholds h _ _) h
  | join => exact h
  | leave => exact State.Upholds.elsewhere (s := (w.forgetHoldings t false).toState) (w.forgetHoldings_upholds h t false) (by simp)
  | budget src v n hold => exact w.hearBudget_upholds h _ _ _ _ _
  | yieldReq t' c d l => exact Work.ite_upholds (w.answerYield_upholds h _ _ _ _) h
  | yieldAns r n g => exact Work.ite_upholds (w.takeAnswer_upholds h _ _ _) h

theorem Work.holdings_upholds (x : Holdings) : a.Upholds ({ w with hc := x } : Work).toState := h.elsewhere (by simp)

theorem Work.applyEcho_upholds (f : Frame) : a.Upholds (w.applyEcho f).toState := by
  cases f with
  | claim qs => exact w.echoClaim_upholds h qs
  | release b qs => exact w.echoRelease_upholds h b qs
  | budget src v n hold => exact w.hearBudget_upholds h _ _ _ _ _
  | yieldReq => exact w.holdings_upholds h _
  | contest | yieldAns | report | join | leave => exact h

/-! ## Modes -/

theorem Work.setMode_upholds (m : Mode) : a.Upholds (w.setMode m).toState := by
  unfold Work.setMode
  refine Work.handMode_upholds ?_
  exact h.onLink (by simp) fun k => Link.inPlace_of_same k rfl rfl rfl

theorem Work.enterIsolated_upholds : a.Upholds w.enterIsolated.toState := by
  unfold Work.enterIsolated
  exact Work.endSweep_upholds (Work.removeQueuedRequest_upholds (Work.removeQueuedClaim_upholds
    (Work.giveUpPending_upholds (Work.drainMine_upholds (w.setMode_upholds h _) _ _) _ _)))

theorem Work.judgeIsolation_upholds : a.Upholds w.judgeIsolation.toState :=
  Work.ite_upholds (w.enterIsolated_upholds h) h

theorem Work.setLink_upholds (l : Link) (hl : w.lc.inPlace → l.inPlace) :
    a.Upholds ({ w with lc := l } : Work).toState := h.onLink (by simp) hl

theorem Work.enterMuted_upholds : a.Upholds w.enterMuted.toState := by
  have hf := Work.loseFrames_upholds (w.setMode_upholds h .muted) removedAtMute
  unfold Work.enterMuted
  generalize (w.setMode .muted).loseFrames removedAtMute = v at hf ⊢
  refine Work.setLink_upholds (Work.endSweep_upholds ?_) _ fun k => Link.inPlace_of_same k rfl rfl rfl
  exact Work.giveUpPending_upholds (Work.drainMine_upholds (v.freeLocally_upholds hf _) _ _) _ _

theorem Work.enterOffline_upholds : a.Upholds w.enterOffline.toState := by
  have hm := w.setMode_upholds h .offline
  unfold Work.enterOffline
  generalize w.setMode .offline = v at hm ⊢
  refine Work.suspendCause_upholds (Work.emptyQueue_upholds ?_) _
  exact hm.onLink (by simp) fun k => Link.inPlace_of_same k rfl rfl rfl

theorem Work.beginDrain_upholds : a.Upholds w.beginDrain.toState := by
  unfold Work.beginDrain
  exact Work.endSweep_upholds (Work.removeQueuedRequest_upholds (Work.removeQueuedClaim_upholds
    (Work.giveUpPending_upholds (Work.drainMine_upholds (w.suspendCause_upholds h _) _ _) _ _)))

theorem Work.requestIsolation_upholds : a.Upholds w.requestIsolation.toState := by
  unfold Work.requestIsolation
  refine Work.ite_upholds (Work.beginDrain_upholds ?_) (Work.suspendCause_upholds ?_ _) <;> exact h.elsewhere (by simp)

theorem Work.wipe_upholds : a.Upholds ({ w with map := w.toState.wipedMap } : Work).toState := by
  refine h.onMap (by simp) (fun _ => wipedMap_length _) fun _ _ _ q hq => ?_
  change QEntry.needsBudget (w.toState.wipedMap.getD q .withdrawn) = false
  by_cases hl : q < 128
  · rw [wipedMap_getD _ _ hl]
    exact vacant_needsBudget _ _ hq
  · rw [List.getD_eq_default _ _ (by simpa using hl)]
    rfl

theorem Work.tripEffects_upholds : a.Upholds w.tripEffects.toState := by
  have hm := w.setMode_upholds h .tripped
  unfold Work.tripEffects
  generalize w.setMode .tripped = v at hm ⊢
  refine Work.suspendCause_upholds ((Work.wipe_upholds hm).onLink (by simp) fun k => ?_) _
  have hl := Link.inPlace_of_same (m := v.lc.lastAttempt) k rfl rfl rfl
  exact Link.inPlace_of_same (Link.removeOffLine_inPlace hl fun f => !(kindOf f == .budget)) rfl rfl rfl

/-- The map Free below B_cfg and no offer (R4, R17). -/
theorem Work.startOver_upholds : a.Upholds ({ w with
    bu := { w.bu with offers := [], seen := false, bEff := w.toState.conf.bCfg }
    map := startMap w.toState.conf.bCfg } : Work).toState := by
  refine h.onBudget (by simp) (fun _ => startMap_length _) (fun _ => ⟨by simp, by simp⟩) (fun k => ⟨le_refl _, k.2⟩) ?_
  exact fun _ _ q hq => startMap_needsBudget _ q hq

theorem Work.clearBlocks_upholds : a.Upholds w.clearBlocks.toState := by
  unfold Work.clearBlocks
  refine Work.refreshMarks_upholds ?_
  exact (Work.startOver_upholds (w.emptyQueue_upholds h)).onLink (by simp) fun k => Link.inPlace_of_same k rfl rfl rfl

theorem Work.tripEntry_upholds : a.Upholds w.tripEntry.toState := by
  unfold Work.tripEntry
  exact Work.ite_upholds (Work.clearBlocks_upholds (w.tripEffects_upholds h)) (w.tripEffects_upholds h)

theorem Work.enterListening_upholds : a.Upholds w.enterListening.toState := by
  have hm := w.setMode_upholds h .listening
  unfold Work.enterListening
  generalize w.setMode .listening = v at hm ⊢
  refine Work.ite_upholds (Work.tripEntry_upholds (Work.handTarget_upholds ?_)) (Work.handTarget_upholds ?_) <;>
    exact hm.onLink (by simp) fun k => Link.inPlace_of_same k rfl rfl rfl

theorem Work.clearingPoint_upholds : a.Upholds w.clearingPoint.toState := by
  unfold Work.clearingPoint
  exact Work.ite_upholds (w.clearBlocks_upholds h) (Work.enterListening_upholds (w.clearBlocks_upholds h))

theorem Work.restart_upholds : a.Upholds w.restart.toState := by
  have hr : a.Upholds ({ w with mc := { w.mc with restarting := true } } : Work).toState := h.elsewhere (by simp)
  unfold Work.restart
  exact Work.ite_upholds h (Work.ite_upholds (Work.clearingPoint_upholds (Work.suspendCause_upholds hr _))
    (Work.beginDrain_upholds hr))

theorem Work.concludeDrain_upholds : a.Upholds w.concludeDrain.toState := by
  unfold Work.concludeDrain
  refine Work.ite_upholds (Work.clearingPoint_upholds ?_) (Work.enterOffline_upholds ?_) <;> exact h.elsewhere (by simp)

theorem Work.testDrainDone_upholds : a.Upholds w.testDrainDone.toState := by
  unfold Work.testDrainDone
  suffices hr : ∀ v : Work, a.Upholds v.toState → ∀ e : Bool, a.Upholds (if e then v.concludeDrain else v).toState by
    exact Work.ite_upholds h (hr _ (Work.ite_upholds ((w.enqueue_upholds h .leave).elsewhere (by simp)) h) _)
  exact fun v hv e => Work.ite_upholds (v.concludeDrain_upholds hv) hv

theorem Work.startEpoch_upholds : a.Upholds w.startEpoch.toState := h.elsewhere (by simp)

theorem Work.forgetRequests_upholds :
    a.Upholds ({ w with hc := { w.hc with request := none, promises := [] } } : Work).toState := h.elsewhere (by simp)

theorem Work.hearDuplicate_upholds (k : FrameKind) : a.Upholds (w.hearDuplicate k).toState := by
  unfold Work.hearDuplicate
  refine Work.ite_upholds h (Work.ite_upholds (Work.startEpoch_upholds (Work.enterOffline_upholds ?_))
    (Work.enterOffline_upholds ?_)) <;>
  · refine Work.mapAll_upholds (Work.forgetRequests_upholds (Work.endSweep_upholds (Work.giveUpPending_upholds
      (Work.drainMine_upholds (Work.emptyQueue_upholds (Work.notice_upholds ?_ _ _ _)) _ _) _ _))) _ fun q e _ he => ?_
    · exact h.elsewhere (by simp)
    · cases e <;> simp_all [dropMark, QEntry.needsBudget]

/-! ## The end of a step -/

theorem Work.settle_upholds : a.Upholds w.settle.toState := by
  unfold Work.settle
  exact Work.flushNotices_upholds (Work.formAndSend_upholds (Work.holdingsProgress_upholds (Work.testSessionEnd_upholds
    (Work.testDrainDone_upholds (Work.testSessionEnd_upholds (Work.handConflict_upholds (w.lostCompletes_upholds h)))))))

theorem Work.finish_upholds : a.Upholds w.finish := by
  unfold Work.finish
  exact w.settle_upholds h

end

end Sys2Proof.Machine
end

section
/-! SUPPORT. Every command upholds, but for the two that begin the part anew: HARDWARE_RESET and CONFIGURE. -/

namespace Sys2Proof.Machine

section
variable {a s : State} (h : a.Upholds s)
include h

/-! ## The clock and the Cabinet Port -/

theorem pass_upholds (e : Nat) : a.Upholds (s.pass e) := by
  refine h.onLink (by simp) fun k => Link.inPlace_of_same k (by simp) ?_ ?_ <;> rw [pass_eq]

theorem atTime_upholds (t : Nat) : a.Upholds (s.atTime t) := pass_upholds h _

theorem advance_upholds (d : Nat) : a.Upholds (s.advance d) := pass_upholds h _

theorem respond_upholds (r : Response) : a.Upholds (s.respond r) := h.elsewhere (by simp)

/-- A command upholds where its action does. -/
theorem command_upholds (code : Nat) (checks : List (Bool × RefCode)) (act : State → State × Response)
    (hact : a.Upholds (act s).1) : a.Upholds (s.command code checks act) := by
  unfold State.command
  split
  · exact respond_upholds h _
  · exact respond_upholds hact _

/-! ## START -/

/-- The START values: an empty map below B_cfg, no offer, an empty queue. -/
theorem startValues_upholds : a.Upholds s.startValues := by
  refine ⟨fun _ => startMap_length _, fun _ => ⟨by simp [State.startValues], by simp [State.startValues], by simp [State.startValues]⟩,
    h.bookings, fun _ => ⟨by simp [State.startValues], by simp [State.startValues]⟩, fun k => ⟨le_refl _, (h.bounded k).2⟩,
    fun _ _ q hq => startMap_needsBudget _ q hq⟩

end

theorem startValues_clearAbove (s : State) : s.startValues.clearAbove := fun q hq => startMap_needsBudget _ q hq

/-! ## Frames heard and own attempts -/

section
variable {a : State} {w : Work} (h : a.Upholds w.toState)
include h

theorem Work.countReceiveError_upholds : a.Upholds w.countReceiveError.toState := by
  refine h.onLink (by simp) fun k => ?_
  unfold Work.countReceiveError
  dsimp only
  split <;> exact Link.inPlace_of_same k rfl rfl rfl

theorem Work.takeFrame_upholds (t : Nat) (f : Frame) : a.Upholds (w.takeFrame t f).toState := by
  have hp := w.hearPeer_upholds h t f
  unfold Work.takeFrame
  exact Work.applyFrame_upholds (Work.ite_upholds (Work.setMode_upholds hp _) hp) _ _

theorem Work.hearValid_upholds (k : FrameKind) (t : Nat) (f : Frame) : a.Upholds (w.hearValid k t f).toState := by
  have hv := w.setLink_upholds h w.lc.validFrame fun k => Link.inPlace_of_same k rfl rfl rfl
  unfold Work.hearValid
  exact Work.ite_upholds hv (Work.ite_upholds (Work.hearDuplicate_upholds hv _)
    (Work.ite_upholds hv (Work.takeFrame_upholds hv _ _)))

theorem Work.goodEcho_upholds : a.Upholds w.goodEcho.toState :=
  h.onLink ⟨rfl, rfl, rfl, rfl⟩ (fun k => Link.inPlace_of_same k rfl rfl rfl)

theorem Work.dropId_upholds (id : Nat) : a.Upholds ({ w with lc := w.lc.dropId id } : Work).toState :=
  w.setLink_upholds h _ fun k => Link.dropId_inPlace k id

theorem Work.echoFrame_upholds (id : Nat) : a.Upholds (w.echoFrame id).toState := by
  unfold Work.echoFrame
  split
  · exact w.goodEcho_upholds h
  · have hg := Work.goodEcho_upholds (w.dropId_upholds h id)
    exact Work.ite_upholds (Work.applyEcho_upholds hg _) hg

theorem Work.echoProbe_upholds (b : Bool) : a.Upholds (w.echoProbe b).toState := by
  have hg := w.goodEcho_upholds h
  unfold Work.echoProbe
  exact Work.ite_upholds hg (Work.judgeIsolation_upholds (Work.setMode_upholds hg _))

theorem Work.dropFrame_upholds (id : Nat) : a.Upholds (w.dropFrame id).toState := by
  unfold Work.dropFrame
  split
  · exact h
  · exact Work.lostFrame_upholds (w.dropId_upholds h id) _

theorem Work.stopAttempt_upholds : a.Upholds w.stopAttempt.toState :=
  w.setLink_upholds h _ fun k => Link.inPlace_of_same k rfl rfl rfl

theorem Work.yieldLine_upholds : a.Upholds w.yieldLine.toState := by
  unfold Work.yieldLine
  split
  · exact h
  · exact w.setLink_upholds h _ fun k => Link.inPlace_of_same k rfl rfl rfl

theorem Work.returnFrame_upholds (id : Nat) : a.Upholds (w.returnFrame id).toState :=
  w.setLink_upholds h _ fun k => Link.returned_inPlace k id

theorem Work.loseArbitration_upholds (x : Attempt) : a.Upholds (w.loseArbitration x).toState := by
  have hy := Work.yieldLine_upholds (w.stopAttempt_upholds h)
  cases x with
  | frame id us last =>
    exact Work.ite_upholds (Work.dropFrame_upholds hy id) (Work.returnFrame_upholds hy id)
  | probe join us last => exact Work.setLink_upholds hy _ fun k => Link.inPlace_of_same k rfl rfl rfl
  | brk us => exact h

theorem Work.retryOrDrop_upholds (id : Nat) (last : Bool) : a.Upholds (w.retryOrDrop id last).toState := by
  unfold Work.retryOrDrop
  split
  · exact h
  · refine Work.ite_upholds (Work.notice_upholds (w.dropFrame_upholds h id) _ _ _)
      (Work.ite_upholds (w.dropFrame_upholds h id) (Work.returnFrame_upholds (w.setLink_upholds h _ fun k => ?_) id))
    refine Link.inPlace_of_map_ids k ?_ rfl rfl
    dsimp only
    rw [List.map_map]
    refine List.map_congr_left fun x _ => ?_
    simp only [Function.comp]
    split <;> rfl

theorem Work.countTransmitError_upholds : a.Upholds w.countTransmitError.toState := by
  unfold Work.countTransmitError
  refine Work.ite_upholds (Work.ite_upholds (Work.enterMuted_upholds ?_) ?_) h <;>
    exact h.onLink (by simp) fun k => Link.inPlace_of_same k rfl rfl rfl

theorem Work.probeFailed_upholds (b : Bool) : a.Upholds (w.probeFailed b).toState := by
  unfold Work.probeFailed
  exact Work.ite_upholds h (w.setLink_upholds h _ fun k => Link.inPlace_of_same k rfl rfl rfl)

theorem Work.sendBreak_upholds : a.Upholds w.sendBreak.toState := by
  refine w.setLink_upholds h _ fun k => ?_
  unfold Link.askBreak
  split <;> exact Link.inPlace_of_same k rfl rfl rfl

/-! ## Timers -/

theorem Work.decideSolo_upholds : a.Upholds w.decideSolo.toState := by
  unfold Work.decideSolo
  refine Work.ite_upholds h (Work.ite_upholds (Work.notice_upholds ?_ _ _ _) ?_) <;> exact h.elsewhere (by simp)

theorem Work.endListening_upholds (b : Bool) : a.Upholds (w.endListening b).toState := by
  have hm : a.Upholds ({ w with mc := { w.mc with listenAt := none } } : Work).toState := h.elsewhere (by simp)
  unfold Work.endListening
  exact Work.startEpoch_upholds (Work.decideSolo_upholds (Work.ite_upholds (Work.enterOffline_upholds hm)
    (Work.autoResume_upholds (Work.setMode_upholds (Work.enqueue_upholds hm _) _))))

theorem Work.clearStuck_upholds : a.Upholds w.clearStuck.toState := h.elsewhere (by simp)

theorem Work.lapse_upholds (p : Promise) (rest : List Promise) : a.Upholds (w.lapse p rest).toState := by
  have keep : ∀ m : List QEntry, (p.quanta.foldl (fun m q =>
      if m.getD q .free == .held p.donor true then m.set q (.held p.donor false) else m) m).length = m.length :=
    foldl_keeps List.length _ (fun _ _ => by split <;> simp) _
  refine h.onMap ⟨rfl, rfl, rfl, rfl⟩ (fun hl => (keep _).trans hl) (fun k _ _ q hq => ?_)
  refine foldl_induct (fun m : List QEntry => (m.getD q .withdrawn).needsBudget = false) _ (fun m r hm => ?_) p.quanta w.map
    (k q hq)
  split
  · rw [getD_set]
    split
    · rfl
    · exact hm
  · exact hm

theorem Work.handPeers_upholds : a.Upholds w.handPeers.toState := by
  unfold Work.handPeers
  exact h.foldl _ (fun v t hv => v.handPeer_upholds hv t _) _ rfl

theorem Work.leaveTripped_upholds : a.Upholds w.leaveTripped.toState := by
  unfold Work.leaveTripped
  refine Work.enterListening_upholds (Work.handPeers_upholds ?_)
  exact h.elsewhere (by simp)

theorem Work.rejoin_upholds : a.Upholds w.rejoin.toState := by
  unfold Work.rejoin
  exact Work.judgeIsolation_upholds (Work.autoResume_upholds (Work.enqueue_upholds (w.setMode_upholds h _) _))

end

/-! ## Commands -/

section
variable {s : State}

theorem heard_upholds (k : FrameKind) (t : BitVec 5) (p : List Byte) : s.Upholds (s.heard k t p) := by
  have hs : s.Upholds s.begin.toState := .refl s
  unfold State.heard
  split
  · exact hs
  · split
    · exact Work.finish_upholds (Work.countReceiveError_upholds hs)
    · exact Work.finish_upholds (Work.hearValid_upholds hs _ _ _)

/-- Whatever next state the outcome gives upholds. -/
def State.Keeps (s : State) (o : Host.Outcome State Fault Refusal) : Prop := ∀ t, o = .next t → s.Upholds t

theorem keeps_goOn {t : State} (h : s.Upholds t) : s.Keeps (goOn t) := by
  rintro _ ⟨⟩
  exact h

theorem keeps_ite {c : Prop} [Decidable c] {o u : Host.Outcome State Fault Refusal} (ho : s.Keeps o) (hu : s.Keeps u) :
    s.Keeps (if c then o else u) := by
  split
  · exact ho
  · exact hu

theorem keeps_refused (r : Refusal) : s.Keeps (.refused r) := fun _ h => by cases h

/-- A command that is answered from the state as it stands. -/
theorem keeps_answer (code : Nat) (checks : List (Bool × RefCode)) (r : State → Response) :
    s.Keeps (goOn (s.command code checks fun s => (s, r s))) :=
  keeps_goOn (command_upholds (.refl s) _ _ _ (.refl s))

theorem keeps_command (code : Nat) (checks : List (Bool × RefCode)) (act : State → State × Response)
    (h : s.Upholds (act s).1) : s.Keeps (goOn (s.command code checks act)) :=
  keeps_goOn (command_upholds (.refl s) _ _ _ h)

theorem keeps_finish {w : Work} (h : s.Upholds w.toState) : s.Keeps (goOn w.finish) := keeps_goOn (Work.finish_upholds h)

/-! ### Inputs -/

theorem execTripAsserted_keeps : s.Keeps (execTripAsserted s) := by
  have ht : s.Upholds (s.setTrip true) := (State.Upholds.refl s).elsewhere (by simp)
  unfold execTripAsserted
  refine keeps_ite (keeps_goOn (.refl s)) (keeps_ite (keeps_goOn ht) (keeps_ite ?_ ?_))
  · refine keeps_finish (Work.sendBreak_upholds ?_)
    exact ht.elsewhere (by simp)
  · exact keeps_finish (Work.sendBreak_upholds (Work.tripEntry_upholds ht))

theorem execTripDeasserted_keeps : s.Keeps (execTripDeasserted s) := by
  have ht : s.Upholds (s.setTrip false) := (State.Upholds.refl s).elsewhere (by simp)
  unfold execTripDeasserted
  exact keeps_ite (keeps_goOn (.refl s)) (keeps_ite (keeps_goOn (ht.elsewhere (by simp))) (keeps_goOn ht))

theorem execOfflineAsserted_keeps : s.Keeps (execOfflineAsserted s) := by
  have ho : s.Upholds { s with io := { s.io with offline := true } } := (State.Upholds.refl s).elsewhere (by simp)
  unfold execOfflineAsserted
  exact keeps_ite (keeps_finish (Work.requestIsolation_upholds ho)) (keeps_goOn ho)

/-! ### Commands of the Cabinet Port -/

theorem execStart_keeps (p : Payload) : s.Keeps (execStart p s) :=
  keeps_command _ _ _ (Work.finish_upholds (Work.enterListening_upholds (Work.refreshMarks_upholds
    (startValues_upholds (.refl s)))))

theorem execIsolate_keeps (p : Payload) : s.Keeps (execIsolate p s) := by
  refine keeps_command _ _ _ ?_
  dsimp only
  split
  · exact .refl s
  · exact Work.finish_upholds (Work.requestIsolation_upholds (.refl s))

theorem execRejoin_keeps (p : Payload) (level : Bool) : s.Keeps (execRejoin p level s) := by
  have ho : s.Upholds { s with io := { s.io with offline := level } } := (State.Upholds.refl s).elsewhere (by simp)
  refine keeps_goOn (command_upholds ho _ _ _ ?_)
  dsimp only
  split
  · refine Work.finish_upholds (Work.rejoin_upholds ?_)
    exact ho.elsewhere (by simp)
  · exact ho.elsewhere (by simp)

theorem execAdmit_keeps (p : Payload) : s.Keeps (execAdmit p s) :=
  keeps_command _ _ _ (Work.finish_upholds (Work.takeAdmission_upholds (.refl s) _))

theorem leaveSession_upholds (why : EndReason) : s.Upholds (s.leaveSession why) := by
  unfold State.leaveSession
  split
  · exact .refl s
  · exact Work.finish_upholds (Work.endSession_upholds (.refl s) _)

theorem execSuspend_keeps (p : Payload) : s.Keeps (execSuspend p s) :=
  keeps_command _ _ _ (Work.finish_upholds (Work.suspendCause_upholds (.refl s) _))

theorem execBook_keeps (p : Payload) : s.Keeps (execBook p s) :=
  keeps_command _ _ _ ((State.Upholds.refl s).onBookings (by simp) fun k => Bookings.inPlace_of k (by simp) (by simp))

theorem execUnbook_keeps (p : Payload) : s.Keeps (execUnbook p s) :=
  keeps_command _ _ _ ((State.Upholds.refl s).onBookings (by simp) fun k => Bookings.inPlace_of k (by simp) (by simp))

theorem execResponseReady_keeps : s.Keeps (execResponseReady s) := by
  unfold execResponseReady
  split
  · rename_i x _
    refine keeps_ite (keeps_goOn (.refl s)) (keeps_goOn ?_)
    exact (atTime_upholds (.refl s) x.readyAt).elsewhere (by simp)
  · exact keeps_goOn (.refl s)

/-! ### Events of the line -/

theorem execDuplicateFrame_keeps (k : FrameKind) : s.Keeps (execDuplicateFrame k s) := by
  have hv : s.Upholds { s with lc := s.lc.validFrame } :=
    (State.Upholds.refl s).onLink (by simp) fun k => Link.inPlace_of_same k rfl rfl rfl
  unfold execDuplicateFrame
  exact keeps_ite (keeps_goOn (.refl s)) (keeps_finish (Work.ite_upholds (Work.hearDuplicate_upholds hv k) hv))

theorem startBreak_upholds : s.Upholds s.startBreak :=
  (State.Upholds.refl s).onLink (by simp) fun k => Link.inPlace_of_same k rfl rfl rfl

theorem endBreak_upholds : s.Upholds s.endBreak := by
  refine (State.Upholds.refl s).onLink ⟨rfl, rfl, rfl, rfl⟩ (fun k => ?_)
  unfold State.endBreak
  dsimp only
  split <;> exact Link.inPlace_of_same k rfl rfl rfl

theorem execBreakDetected_keeps : s.Keeps (execBreakDetected s) := by
  unfold execBreakDetected
  exact keeps_ite (keeps_goOn (.refl s)) (keeps_ite (keeps_goOn (startBreak_upholds.elsewhere (by simp)))
    (keeps_finish (Work.tripEntry_upholds startBreak_upholds)))

theorem execBreakEnded_keeps : s.Keeps (execBreakEnded s) := by
  unfold execBreakEnded
  exact keeps_ite (keeps_goOn (.refl s)) (keeps_ite (keeps_goOn (endBreak_upholds.elsewhere (by simp)))
    (keeps_goOn endBreak_upholds))

/-- The head of the queue goes on the line in its place. -/
theorem startFrame_upholds {b : State} (h : s.Upholds b) (x : QFrame) (rest : List QFrame) (hq : b.lc.queue = x :: rest) :
    s.Upholds (b.startFrame x rest) := by
  refine h.onLink ⟨rfl, rfl, rfl, rfl⟩ (fun k => Link.inPlace_of_map_ids k ?_ rfl rfl)
  rw [hq]
  rfl

theorem execTransmitAttemptStart_keeps : s.Keeps (execTransmitAttemptStart s) := by
  have hp := pass_upholds (.refl s) s.gapWait
  unfold execTransmitAttemptStart
  refine keeps_ite (keeps_goOn (.refl s)) ?_
  split
  · rename_i x rest _ hq
    exact keeps_goOn (startFrame_upholds hp x rest (by simpa using hq))
  · exact keeps_goOn (hp.onLink ⟨rfl, rfl, rfl, rfl⟩ (fun k => Link.inPlace_of_same k rfl rfl rfl))
  · exact keeps_goOn (.refl s)

theorem execGoodEcho_keeps : s.Keeps (execGoodEcho s) := by
  have hs : s.Upholds s.begin.toState := .refl s
  unfold execGoodEcho
  split
  · exact keeps_finish (Work.echoFrame_upholds hs _)
  · exact keeps_finish (Work.echoProbe_upholds hs _)
  · exact keeps_goOn hs

theorem execLostArbitration_keeps : s.Keeps (execLostArbitration s) := by
  have hs : s.Upholds s.begin.toState := .refl s
  unfold execLostArbitration
  split
  · exact keeps_ite (keeps_finish (Work.loseArbitration_upholds hs _)) (keeps_goOn hs)
  · exact keeps_goOn hs

theorem execTransmitError_keeps : s.Keeps (execTransmitError s) := by
  have hs : s.Upholds s.begin.toState := .refl s
  unfold execTransmitError
  split
  · exact keeps_finish (Work.countTransmitError_upholds (Work.retryOrDrop_upholds (Work.stopAttempt_upholds hs) _ _))
  · exact keeps_finish (Work.probeFailed_upholds (Work.stopAttempt_upholds hs) _)
  · exact keeps_goOn hs

/-! ### Timers and limits -/

theorem execOfferExpiry_keeps (src : BitVec 5) : s.Keeps (execOfferExpiry src s) := by
  unfold execOfferExpiry
  split
  · exact keeps_finish (Work.removeOffer_upholds (atTime_upholds (.refl s) _) _)
  · exact keeps_goOn (.refl s)

theorem execSettleExpiry_keeps : s.Keeps (execSettleExpiry s) := by
  unfold execSettleExpiry
  split
  · exact keeps_finish (Work.settleClaim_upholds (atTime_upholds (.refl s) _) _)
  · exact keeps_goOn (.refl s)

theorem execPeerSilenceLimit_keeps (u : BitVec 5) : s.Keeps (execPeerSilenceLimit u s) := by
  unfold execPeerSilenceLimit
  split
  · exact keeps_finish (Work.silence_upholds (atTime_upholds (.refl s) _) _)
  · exact keeps_goOn (.refl s)

theorem execPeerExpulsionLimit_keeps (u : BitVec 5) : s.Keeps (execPeerExpulsionLimit u s) := by
  unfold execPeerExpulsionLimit
  split
  · exact keeps_finish (Work.expel_upholds (atTime_upholds (.refl s) _) _)
  · exact keeps_goOn (.refl s)

theorem execEpochExpiry_keeps : s.Keeps (execEpochExpiry s) := by
  unfold execEpochExpiry
  split
  · exact keeps_finish (Work.epoch_upholds (Work.startEpoch_upholds (atTime_upholds (.refl s) _)))
  · exact keeps_goOn (.refl s)

theorem execDrainTimeout_keeps : s.Keeps (execDrainTimeout s) := by
  unfold execDrainTimeout
  split
  · exact keeps_finish (Work.drainTimeout_upholds (atTime_upholds (.refl s) _) _)
  · exact keeps_goOn (.refl s)

theorem execQuiesceExpiry_keeps : s.Keeps (execQuiesceExpiry s) := by
  unfold execQuiesceExpiry
  split
  · exact keeps_finish (Work.clearStuck_upholds (Work.completeAll_upholds (atTime_upholds (.refl s) _)))
  · exact keeps_goOn (.refl s)

theorem execPromiseExpiry_keeps : s.Keeps (execPromiseExpiry s) := by
  unfold execPromiseExpiry
  split
  · exact keeps_finish (Work.lapse_upholds (atTime_upholds (.refl s) _) _ _)
  · exact keeps_goOn (.refl s)

theorem execAnswerTimeout_keeps : s.Keeps (execAnswerTimeout s) := by
  unfold execAnswerTimeout
  split
  · exact keeps_finish (Work.endRequest_upholds (Work.countRequest_upholds (atTime_upholds (.refl s) _)) _)
  · exact keeps_goOn (.refl s)

theorem execTripHoldExpiry_keeps : s.Keeps (execTripHoldExpiry s) := by
  unfold execTripHoldExpiry
  split
  · exact keeps_finish (Work.leaveTripped_upholds (atTime_upholds (.refl s) _))
  · exact keeps_goOn (.refl s)

theorem execIsolationSilenceLimit_keeps : s.Keeps (execIsolationSilenceLimit s) := by
  unfold execIsolationSilenceLimit
  split
  · exact keeps_finish (Work.enterIsolated_upholds (atTime_upholds (.refl s) _))
  · exact keeps_goOn (.refl s)

theorem execEchoSilenceLimit_keeps : s.Keeps (execEchoSilenceLimit s) := by
  unfold execEchoSilenceLimit
  split
  · exact keeps_finish (Work.enterMuted_upholds (atTime_upholds (.refl s) _))
  · exact keeps_goOn (.refl s)

theorem execDeadlineRunOut_keeps : s.Keeps (execDeadlineRunOut s) := by
  unfold execDeadlineRunOut
  split
  · exact keeps_finish (Work.runOut_upholds (atTime_upholds (.refl s) _))
  · exact keeps_goOn (.refl s)

theorem execStepDurationReached_keeps : s.Keeps (execStepDurationReached s) := by
  unfold execStepDurationReached
  split
  · exact keeps_finish (Work.testStep_upholds (advance_upholds (.refl s) _) _)
  · exact keeps_goOn (.refl s)

theorem execMeterSilenceExpiry_keeps : s.Keeps (execMeterSilenceExpiry s) := by
  unfold execMeterSilenceExpiry
  split
  · exact keeps_finish (Work.becomeLost_upholds (atTime_upholds (.refl s) _))
  · exact keeps_goOn (.refl s)

theorem execListeningExpiry_keeps (b : Bool) : s.Keeps (execListeningExpiry b s) := by
  unfold execListeningExpiry
  split
  · rename_i t _
    refine keeps_finish (Work.endListening_upholds ?_ _)
    exact (atTime_upholds (.refl s) t).elsewhere (by simp)
  · exact keeps_goOn (.refl s)

theorem execLostQuiesceExpiry_keeps : s.Keeps (execLostQuiesceExpiry s) := by
  unfold execLostQuiesceExpiry
  split
  · rename_i t _
    refine keeps_finish (Work.completeAll_upholds ?_)
    exact (atTime_upholds (.refl s) t).elsewhere (by simp)
  · exact keeps_goOn (.refl s)

theorem execMuteHoldExpiry_keeps : s.Keeps (execMuteHoldExpiry s) := by
  unfold execMuteHoldExpiry
  split
  · rename_i t _
    refine keeps_goOn ((atTime_upholds (.refl s) t).onLink (by simp) fun k => Link.inPlace_of_same k rfl rfl rfl)
  · exact keeps_goOn (.refl s)

/-! ### Converter Port -/

theorem execSetpointRefresh_keeps : s.Keeps (execSetpointRefresh s) :=
  keeps_goOn ((atTime_upholds (.refl s) s.ci.refreshAt).elsewhere (by simp))

theorem execSetpointMessageSent_keeps : s.Keeps (execSetpointMessageSent s) := by
  unfold execSetpointMessageSent
  split
  · exact keeps_goOn ((State.Upholds.refl s).elsewhere (by simp))
  · exact keeps_goOn (.refl s)

theorem countDiscarded_upholds : s.Upholds s.countDiscarded := (State.Upholds.refl s).elsewhere (by simp)

theorem execMeterReport_keeps (msg : List Byte) (n : Nat) : s.Keeps (execMeterReport msg n s) := by
  unfold execMeterReport
  refine keeps_ite (keeps_goOn (.refl s)) ?_
  split
  · exact keeps_finish (Work.takeReport_upholds (.refl s) _ _)
  · exact keeps_goOn countDiscarded_upholds

theorem execReceiveError_keeps : s.Keeps (execReceiveError s) :=
  keeps_ite (keeps_finish (Work.countReceiveError_upholds (.refl s))) (keeps_goOn (.refl s))

/-! ### Every command -/

/-- Every command but HARDWARE_RESET and CONFIGURE upholds. -/
theorem exec_keeps (c : Instr) (hr : ∀ n, c ≠ .hardwareReset n) (hc : ∀ p, c ≠ .configure p) : s.Keeps (exec c s) := by
  cases c with
  | hardwareReset n => exact absurd rfl (hr n)
  | configure p => exact absurd rfl (hc p)
  | tripAsserted => exact execTripAsserted_keeps
  | tripDeasserted => exact execTripDeasserted_keeps
  | offlineAsserted => exact execOfflineAsserted_keeps
  | identify p => exact keeps_answer _ _ _
  | start p => exact execStart_keeps p
  | status p => exact keeps_answer _ _ _
  | clearFlags p => exact keeps_command _ _ _ ((State.Upholds.refl s).elsewhere (by simp))
  | admitSession p => exact execAdmit_keeps p
  | vehicleUpdate p => exact keeps_command _ _ _ (Work.finish_upholds (Work.vehicleUpdate_upholds (.refl s) _))
  | undock p => exact keeps_command _ _ _ (leaveSession_upholds _)
  | abortSession p => exact keeps_command _ _ _ (leaveSession_upholds _)
  | suspend p => exact execSuspend_keeps p
  | resume p => exact keeps_command _ _ _ (Work.finish_upholds (Work.resumeSession_upholds (.refl s)))
  | budgetOffer p => exact keeps_command _ _ _ (Work.finish_upholds (Work.offerBudget_upholds (.refl s) _ _))
  | isolate p => exact execIsolate_keeps p
  | rejoin p level => exact execRejoin_keeps p level
  | restart p => exact keeps_command _ _ _ (Work.finish_upholds (Work.restart_upholds (.refl s)))
  | book p => exact execBook_keeps p
  | unbook p => exact execUnbook_keeps p
  | clearAction p => exact keeps_command _ _ _ (Work.finish_upholds (Work.clearActions_upholds (.refl s) _ _))
  | fetchNotice p => exact keeps_command _ _ _ ((State.Upholds.refl s).onBookings (by simp) fun k => Bookings.fetch_inPlace k)
  | readPeer p => exact keeps_answer _ _ _
  | readQuanta p => exact keeps_answer _ _ _
  | readSession p => exact keeps_answer _ _ _
  | readResult p => exact keeps_answer _ _ _
  | unknownCommand code p => exact keeps_ite (keeps_goOn (respond_upholds (.refl s) _)) (keeps_refused _)
  | fetchResponse n => exact keeps_goOn ((State.Upholds.refl s).elsewhere (by simp))
  | invalidTransaction bs => exact keeps_ite (keeps_refused _) (keeps_goOn (.refl s))
  | responseReady => exact execResponseReady_keeps
  | claim u p => exact keeps_goOn (heard_upholds _ _ _)
  | contest u p => exact keeps_goOn (heard_upholds _ _ _)
  | release u p => exact keeps_goOn (heard_upholds _ _ _)
  | report u p => exact keeps_goOn (heard_upholds _ _ _)
  | join u p => exact keeps_goOn (heard_upholds _ _ _)
  | leave u p => exact keeps_goOn (heard_upholds _ _ _)
  | budget u p => exact keeps_goOn (heard_upholds _ _ _)
  | yieldReq u p => exact keeps_goOn (heard_upholds _ _ _)
  | yieldAns u p => exact keeps_goOn (heard_upholds _ _ _)
  | duplicateFrame k => exact execDuplicateFrame_keeps k
  | receiveError => exact execReceiveError_keeps
  | dominantRun => exact keeps_ite (keeps_goOn (.refl s)) (keeps_finish (Work.countReceiveError_upholds (.refl s)))
  | breakDetected => exact execBreakDetected_keeps
  | breakEnded => exact execBreakEnded_keeps
  | transmitAttemptStart => exact execTransmitAttemptStart_keeps
  | goodEcho => exact execGoodEcho_keeps
  | lostArbitration => exact execLostArbitration_keeps
  | transmitError => exact execTransmitError_keeps
  | offerExpiry src => exact execOfferExpiry_keeps src
  | settleExpiry => exact execSettleExpiry_keeps
  | listeningExpiry level => exact execListeningExpiry_keeps level
  | peerSilenceLimit u => exact execPeerSilenceLimit_keeps u
  | peerExpulsionLimit u => exact execPeerExpulsionLimit_keeps u
  | epochExpiry => exact execEpochExpiry_keeps
  | drainTimeout => exact execDrainTimeout_keeps
  | quiesceExpiry => exact execQuiesceExpiry_keeps
  | lostQuiesceExpiry => exact execLostQuiesceExpiry_keeps
  | promiseExpiry => exact execPromiseExpiry_keeps
  | answerTimeout => exact execAnswerTimeout_keeps
  | setpointRefresh => exact execSetpointRefresh_keeps
  | setpointMessageSent => exact execSetpointMessageSent_keeps
  | meterReport msg n => exact execMeterReport_keeps msg n
  | meterReportDiscarded => exact keeps_ite (keeps_goOn countDiscarded_upholds) (keeps_goOn (.refl s))
  | meterSilenceExpiry => exact execMeterSilenceExpiry_keeps
  | muteHoldExpiry => exact execMuteHoldExpiry_keeps
  | tripHoldExpiry => exact execTripHoldExpiry_keeps
  | isolationSilenceLimit => exact execIsolationSilenceLimit_keeps
  | echoSilenceLimit => exact execEchoSilenceLimit_keeps
  | deadlineRunOut => exact execDeadlineRunOut_keeps
  | stepDurationReached => exact execStepDurationReached_keeps

end

end Sys2Proof.Machine
end

section
/-! SUPPORT. Before START no command but START starts the station, and the two invariants of this part that every step keeps. -/

namespace Sys2Proof.Machine

/-! ## Before START -/

section
variable {s : State} (h : s.started = false)
include h

theorem started_of_mc {t : State} (ht : t.mc = s.mc) : t.started = false := by
  unfold State.started
  rw [ht]
  exact h

theorem unstarted_mode : s.mc.mode = .unconfigured ∨ s.mc.mode = .configured :=
  or_iff_not_imp_left.2 (by simpa [State.started] using h)

theorem unstarted_mode_ne {m : Mode} (hu : m ≠ .unconfigured) (hc : m ≠ .configured) : s.mc.mode ≠ m := by
  rcases unstarted_mode h with hm | hm <;> rw [hm]
  · exact hu.symm
  · exact hc.symm

theorem unstarted_working : s.working = false := by
  rcases unstarted_mode h with hm | hm <;> simp [State.working, hm]

theorem unstarted_takesFrames : s.takesFrames = false := by simp [State.takesFrames, h]

end

section
variable {w : Work} (h : w.toState.started = false)
include h

/-- Before START the end of a step changes no mode. -/
theorem Work.testDrainDone_unstarted : w.testDrainDone = w := by
  have hm := unstarted_mode_ne h (m := .offline) (by decide) (by decide)
  unfold Work.testDrainDone
  rw [if_pos]
  simp [State.draining, unstarted_working h, hm]

/-- An own frame read back before START is taken from the queue and goes no further. -/
theorem Work.echoFrame_unstarted (id : Nat) : (w.echoFrame id).toState.started = false := by
  have ht : (({ w with lc := w.lc.dropId id } : Work).goodEcho).toState.takesFrames = false := unstarted_takesFrames h
  unfold Work.echoFrame
  split
  · exact h
  · dsimp only
    rw [ht]
    exact h

theorem Work.finish_unstarted : w.finish.started = false := by
  have h1 : w.lostCompletes.handConflict.testSessionEnd.toState.started = false := started_of_mc h (by simp)
  refine started_of_mc h ?_
  unfold Work.finish Work.settle
  rw [Work.testDrainDone_unstarted h1]
  simp

end

theorem Work.drainTimeout_mc (w : Work) (t : Nat) : (w.drainTimeout t).mc = w.mc := by
  unfold Work.drainTimeout
  dsimp only
  split <;> rfl

theorem Work.dropFrame_mc (w : Work) (id : Nat) : (w.dropFrame id).mc = w.mc := by
  unfold Work.dropFrame
  split <;> simp

theorem Work.yieldLine_mc (w : Work) : w.yieldLine.mc = w.mc := by
  unfold Work.yieldLine
  split <;> rfl

theorem Work.retryOrDrop_mc (w : Work) (id : Nat) (last : Bool) : (w.retryOrDrop id last).mc = w.mc := by
  unfold Work.retryOrDrop
  (repeat' split) <;> simp [Work.dropFrame_mc, Work.returnFrame]

/-- Whatever next state the outcome gives is not started. -/
def Unstarted (o : Host.Outcome State Fault Refusal) : Prop := ∀ t, o = .next t → t.started = false

theorem unstarted_goOn {t : State} (h : t.started = false) : Unstarted (goOn t) := by
  rintro _ ⟨⟩
  exact h

theorem unstarted_finish {w : Work} (h : w.toState.started = false) : Unstarted (goOn w.finish) :=
  unstarted_goOn (Work.finish_unstarted h)

theorem unstarted_refused (r : Refusal) : Unstarted (.refused r) := fun _ h => by cases h

section
variable {s : State} (h : s.started = false)
include h

/-- A command that is refused before START, or whose action changes no mode. -/
theorem unstarted_command (code : Nat) (checks : List (Bool × RefCode)) (act : State → State × Response)
    (hact : firstRefusal checks = none → (act s).1.started = false) : Unstarted (goOn (s.command code checks act)) := by
  refine unstarted_goOn ?_
  unfold State.command
  split
  · exact started_of_mc h rfl
  · rename_i hn
    exact started_of_mc (hact hn) rfl

/-- A command taken from LISTENING on (Table 68). -/
theorem unstarted_notStarted (code : Nat) (c : Bool × RefCode) (checks : List (Bool × RefCode))
    (act : State → State × Response) : Unstarted (goOn (s.command code (c :: s.notStarted :: checks) act)) := by
  refine unstarted_command h _ _ _ fun hn => ?_
  obtain ⟨b, r⟩ := c
  simp [State.notStarted, h] at hn
  split at hn <;> cases hn

/-- A command that changes nothing but its answer. -/
theorem unstarted_answer (code : Nat) (checks : List (Bool × RefCode)) (r : State → Response) :
    Unstarted (goOn (s.command code checks fun s => (s, r s))) := unstarted_command h _ _ _ fun _ => h

theorem heard_unstarted (k : FrameKind) (t : BitVec 5) (p : List Byte) : (s.heard k t p).started = false := by
  simp [State.heard, h]

/-- A timer of a mode from LISTENING on does not run. -/
theorem timerIn_unstarted {m : Mode} (hu : m ≠ .unconfigured) (hc : m ≠ .configured) (t : Option Nat) :
    s.timerIn m t = none := by
  unfold State.timerIn
  rw [if_neg (unstarted_mode_ne h hu hc)]

theorem atTime_unstarted (t : Nat) : (s.atTime t).started = false := started_of_mc h (by simp)

theorem isolationDue_unstarted : s.isolationDue = none := by
  unfold State.isolationDue
  rw [if_neg fun k => unstarted_mode_ne h (by decide) (by decide) k.1]

theorem echoDue_unstarted : s.echoDue = none := by
  unfold State.echoDue
  rw [if_neg]
  rintro ⟨hm | hm, _⟩
  · exact unstarted_mode_ne h (by decide) (by decide) hm
  · exact unstarted_mode_ne h (by decide) (by decide) hm

theorem ageLimit_unstarted (t : Nat) (p : PeerState) (ms : Nat) : s.ageLimit t p ms = none := by
  simp [State.ageLimit, unstarted_takesFrames h]

/-! ### Timers and limits before START -/

theorem execOfferExpiry_unstarted (src : BitVec 5) : Unstarted (execOfferExpiry src s) := by
  unfold execOfferExpiry
  split
  · exact unstarted_finish (started_of_mc h (by simp [Work.removeOffer]))
  · exact unstarted_goOn h

theorem execSettleExpiry_unstarted : Unstarted (execSettleExpiry s) := by
  unfold execSettleExpiry
  split
  · exact unstarted_finish (started_of_mc h (by simp))
  · exact unstarted_goOn h

theorem execEpochExpiry_unstarted : Unstarted (execEpochExpiry s) := by
  unfold execEpochExpiry
  split
  · exact unstarted_finish (started_of_mc h (by simp))
  · exact unstarted_goOn h

theorem execDrainTimeout_unstarted : Unstarted (execDrainTimeout s) := by
  unfold execDrainTimeout
  split
  · exact unstarted_finish (started_of_mc h (by simp [Work.drainTimeout_mc]))
  · exact unstarted_goOn h

theorem execQuiesceExpiry_unstarted : Unstarted (execQuiesceExpiry s) := by
  unfold execQuiesceExpiry
  split
  · exact unstarted_finish (started_of_mc h (by simp))
  · exact unstarted_goOn h

theorem execPromiseExpiry_unstarted : Unstarted (execPromiseExpiry s) := by
  unfold execPromiseExpiry
  split
  · exact unstarted_finish (started_of_mc h (by simp [Work.lapse]))
  · exact unstarted_goOn h

theorem execAnswerTimeout_unstarted : Unstarted (execAnswerTimeout s) := by
  unfold execAnswerTimeout
  split
  · exact unstarted_finish (started_of_mc h (by simp))
  · exact unstarted_goOn h

theorem execDeadlineRunOut_unstarted : Unstarted (execDeadlineRunOut s) := by
  unfold execDeadlineRunOut
  split
  · exact unstarted_finish (started_of_mc h (by simp [Work.runOut]))
  · exact unstarted_goOn h

theorem execStepDurationReached_unstarted : Unstarted (execStepDurationReached s) := by
  unfold execStepDurationReached
  split
  · exact unstarted_finish (started_of_mc h (by simp))
  · exact unstarted_goOn h

theorem execMeterSilenceExpiry_unstarted : Unstarted (execMeterSilenceExpiry s) := by
  unfold execMeterSilenceExpiry
  split
  · exact unstarted_finish (started_of_mc h (by simp))
  · exact unstarted_goOn h

theorem execPeerSilenceLimit_unstarted (u : BitVec 5) : Unstarted (execPeerSilenceLimit u s) := by
  unfold execPeerSilenceLimit
  rw [ageLimit_unstarted h]
  exact unstarted_goOn h

theorem execPeerExpulsionLimit_unstarted (u : BitVec 5) : Unstarted (execPeerExpulsionLimit u s) := by
  unfold execPeerExpulsionLimit
  rw [ageLimit_unstarted h]
  exact unstarted_goOn h

theorem execTripHoldExpiry_unstarted : Unstarted (execTripHoldExpiry s) := by
  unfold execTripHoldExpiry
  rw [timerIn_unstarted h (by decide) (by decide)]
  exact unstarted_goOn h

theorem execMuteHoldExpiry_unstarted : Unstarted (execMuteHoldExpiry s) := by
  unfold execMuteHoldExpiry
  rw [timerIn_unstarted h (by decide) (by decide)]
  exact unstarted_goOn h

theorem execListeningExpiry_unstarted (b : Bool) : Unstarted (execListeningExpiry b s) := by
  unfold execListeningExpiry
  rw [timerIn_unstarted h (by decide) (by decide)]
  exact unstarted_goOn h

theorem execIsolationSilenceLimit_unstarted : Unstarted (execIsolationSilenceLimit s) := by
  unfold execIsolationSilenceLimit
  rw [isolationDue_unstarted h]
  exact unstarted_goOn h

theorem execEchoSilenceLimit_unstarted : Unstarted (execEchoSilenceLimit s) := by
  unfold execEchoSilenceLimit
  rw [echoDue_unstarted h]
  exact unstarted_goOn h

theorem execLostQuiesceExpiry_unstarted : Unstarted (execLostQuiesceExpiry s) := by
  unfold execLostQuiesceExpiry
  split
  · exact unstarted_finish (started_of_mc h (by simp))
  · exact unstarted_goOn h

theorem execResponseReady_unstarted : Unstarted (execResponseReady s) := by
  unfold execResponseReady
  split
  · split
    · exact unstarted_goOn h
    · exact unstarted_goOn (started_of_mc h (by simp))
  · exact unstarted_goOn h

theorem execSetpointMessageSent_unstarted : Unstarted (execSetpointMessageSent s) := by
  unfold execSetpointMessageSent
  split
  · exact unstarted_goOn (started_of_mc h rfl)
  · exact unstarted_goOn h

/-! ### The line and the inputs before START -/

theorem execTripAsserted_unstarted : Unstarted (execTripAsserted s) := by
  have ht : (s.setTrip true).started = false := started_of_mc h rfl
  unfold execTripAsserted
  split
  · exact unstarted_goOn h
  · rw [if_pos (by simp [ht])]
    exact unstarted_goOn ht

theorem execTripDeasserted_unstarted : Unstarted (execTripDeasserted s) := by
  have ht : (s.setTrip false).started = false := started_of_mc h rfl
  unfold execTripDeasserted
  split
  · exact unstarted_goOn h
  · rw [if_neg fun k => unstarted_mode_ne ht (by decide) (by decide) k.1]
    exact unstarted_goOn ht

theorem execOfflineAsserted_unstarted : Unstarted (execOfflineAsserted s) := by
  have ho : ({ s with io := { s.io with offline := true } } : State).started = false := started_of_mc h rfl
  unfold execOfflineAsserted
  rw [if_neg (by simp [unstarted_working ho])]
  exact unstarted_goOn ho

theorem execTransmitAttemptStart_unstarted : Unstarted (execTransmitAttemptStart s) := by
  unfold execTransmitAttemptStart
  dsimp only
  split
  · exact unstarted_goOn h
  · split
    · exact unstarted_goOn (started_of_mc h (by simp [State.startFrame]))
    · exact unstarted_goOn (started_of_mc h (by simp [State.startProbe]))
    · exact unstarted_goOn h

theorem execGoodEcho_unstarted : Unstarted (execGoodEcho s) := by
  have hm : s.mc.mode ≠ .muted := unstarted_mode_ne h (by decide) (by decide)
  unfold execGoodEcho
  split
  · exact unstarted_finish (Work.echoFrame_unstarted h _)
  · refine unstarted_finish ?_
    unfold Work.echoProbe
    rw [if_pos (.inr hm)]
    exact h
  · exact unstarted_goOn h

theorem execLostArbitration_unstarted : Unstarted (execLostArbitration s) := by
  unfold execLostArbitration
  split
  · rename_i x _
    split
    · refine unstarted_finish (started_of_mc h ?_)
      cases x with
      | frame id us last => cases last <;> simp [Work.loseArbitration, Work.dropFrame_mc, Work.returnFrame, Work.yieldLine_mc, Work.stopAttempt]
      | probe join us last => simp [Work.loseArbitration, Work.yieldLine_mc, Work.stopAttempt]
      | brk us => rfl
    · exact unstarted_goOn h
  · exact unstarted_goOn h

theorem execTransmitError_unstarted : Unstarted (execTransmitError s) := by
  have ha : s.mc.mode ≠ .active := unstarted_mode_ne h (by decide) (by decide)
  have hi : s.mc.mode ≠ .isolated := unstarted_mode_ne h (by decide) (by decide)
  have hm : s.mc.mode ≠ .muted := unstarted_mode_ne h (by decide) (by decide)
  unfold execTransmitError
  split
  · refine unstarted_finish (started_of_mc h ?_)
    have hr : ∀ id last, (s.begin.stopAttempt.retryOrDrop id last).mc = s.mc := fun id last => by
      rw [Work.retryOrDrop_mc]
      rfl
    unfold Work.countTransmitError
    rw [if_neg (by simp [hr, ha, hi]), hr]
  · refine unstarted_finish ?_
    unfold Work.probeFailed
    rw [if_pos (.inr hm)]
    exact h
  · exact unstarted_goOn h

theorem execMeterReport_unstarted (msg : List Byte) (n : Nat) : Unstarted (execMeterReport msg n s) := by
  unfold execMeterReport
  rw [if_pos (by simp [h])]
  exact unstarted_goOn h

/-- Before START no command but START starts the station. -/
theorem exec_unstarted (c : Instr) (hs : ∀ p, c ≠ .start p) : Unstarted (exec c s) := by
  cases c with
  | start p => exact absurd rfl (hs p)
  | hardwareReset n => exact unstarted_goOn rfl
  | configure p =>
    refine unstarted_command h _ _ _ fun _ => ?_
    split
    · exact h
    · rfl
  | tripAsserted => exact execTripAsserted_unstarted h
  | tripDeasserted => exact execTripDeasserted_unstarted h
  | offlineAsserted => exact execOfflineAsserted_unstarted h
  | identify p => exact unstarted_answer h _ _ _
  | status p => exact unstarted_answer h _ _ _
  | clearFlags p => exact unstarted_command h _ _ _ fun _ => h
  | admitSession p => exact unstarted_notStarted h _ _ _ _
  | vehicleUpdate p => exact unstarted_notStarted h _ _ _ _
  | undock p => exact unstarted_notStarted h _ _ _ _
  | abortSession p => exact unstarted_notStarted h _ _ _ _
  | suspend p => exact unstarted_notStarted h _ _ _ _
  | resume p => exact unstarted_notStarted h _ _ _ _
  | budgetOffer p =>
    exact unstarted_command h _ _ _ fun _ => Work.finish_unstarted (started_of_mc h (by simp [Work.offerBudget]))
  | isolate p => exact unstarted_notStarted h _ _ _ _
  | rejoin p level =>
    have ho : ({ s with io := { s.io with offline := level } } : State).started = false := started_of_mc h rfl
    refine unstarted_command ho _ _ _ fun _ => ?_
    have hm : s.mc.mode ≠ .offline := unstarted_mode_ne h (by decide) (by decide)
    have hr : ({ s with io := { s.io with offline := level } } : State).clearIsolation.mc.mode ≠ .offline := hm
    dsimp only
    rw [if_neg hr]
    exact h
  | restart p => exact unstarted_notStarted h _ _ _ _
  | book p => exact unstarted_command h _ _ _ fun _ => h
  | unbook p => exact unstarted_command h _ _ _ fun _ => h
  | clearAction p =>
    refine unstarted_command h _ _ _ fun _ => Work.finish_unstarted (started_of_mc h ?_)
    unfold Work.clearActions
    dsimp only
    split <;> rfl
  | fetchNotice p => exact unstarted_command h _ _ _ fun _ => h
  | readPeer p => exact unstarted_answer h _ _ _
  | readQuanta p => exact unstarted_answer h _ _ _
  | readSession p => exact unstarted_answer h _ _ _
  | readResult p => exact unstarted_answer h _ _ _
  | unknownCommand code p =>
    unfold exec execUnknownCommand
    dsimp only
    split
    · exact unstarted_goOn h
    · exact unstarted_refused _
  | fetchResponse n => exact unstarted_goOn h
  | invalidTransaction bs =>
    unfold exec execInvalidTransaction
    dsimp only
    split
    · exact unstarted_refused _
    · exact unstarted_goOn h
  | responseReady => exact execResponseReady_unstarted h
  | claim u p => exact unstarted_goOn (heard_unstarted h _ _ _)
  | contest u p => exact unstarted_goOn (heard_unstarted h _ _ _)
  | release u p => exact unstarted_goOn (heard_unstarted h _ _ _)
  | report u p => exact unstarted_goOn (heard_unstarted h _ _ _)
  | join u p => exact unstarted_goOn (heard_unstarted h _ _ _)
  | leave u p => exact unstarted_goOn (heard_unstarted h _ _ _)
  | budget u p => exact unstarted_goOn (heard_unstarted h _ _ _)
  | yieldReq u p => exact unstarted_goOn (heard_unstarted h _ _ _)
  | yieldAns u p => exact unstarted_goOn (heard_unstarted h _ _ _)
  | duplicateFrame k => simpa [exec, execDuplicateFrame, h] using unstarted_goOn h
  | receiveError => simpa [exec, execReceiveError, h] using unstarted_goOn h
  | dominantRun => simpa [exec, execDominantRun, h] using unstarted_goOn h
  | breakDetected => simpa [exec, execBreakDetected, h] using unstarted_goOn h
  | breakEnded => simpa [exec, execBreakEnded, h] using unstarted_goOn h
  | transmitAttemptStart => exact execTransmitAttemptStart_unstarted h
  | goodEcho => exact execGoodEcho_unstarted h
  | lostArbitration => exact execLostArbitration_unstarted h
  | transmitError => exact execTransmitError_unstarted h
  | offerExpiry src => exact execOfferExpiry_unstarted h src
  | settleExpiry => exact execSettleExpiry_unstarted h
  | listeningExpiry level => exact execListeningExpiry_unstarted h level
  | peerSilenceLimit u => exact execPeerSilenceLimit_unstarted h u
  | peerExpulsionLimit u => exact execPeerExpulsionLimit_unstarted h u
  | epochExpiry => exact execEpochExpiry_unstarted h
  | drainTimeout => exact execDrainTimeout_unstarted h
  | quiesceExpiry => exact execQuiesceExpiry_unstarted h
  | lostQuiesceExpiry => exact execLostQuiesceExpiry_unstarted h
  | promiseExpiry => exact execPromiseExpiry_unstarted h
  | answerTimeout => exact execAnswerTimeout_unstarted h
  | setpointRefresh =>
    exact unstarted_goOn (started_of_mc (atTime_unstarted h s.ci.refreshAt) rfl)
  | setpointMessageSent => exact execSetpointMessageSent_unstarted h
  | meterReport msg n => exact execMeterReport_unstarted h msg n
  | meterReportDiscarded => simpa [exec, execMeterReportDiscarded, h] using unstarted_goOn h
  | meterSilenceExpiry => exact execMeterSilenceExpiry_unstarted h
  | muteHoldExpiry => exact execMuteHoldExpiry_unstarted h
  | tripHoldExpiry => exact execTripHoldExpiry_unstarted h
  | isolationSilenceLimit => exact execIsolationSilenceLimit_unstarted h
  | echoSilenceLimit => exact execEchoSilenceLimit_unstarted h
  | deadlineRunOut => exact execDeadlineRunOut_unstarted h
  | stepDurationReached => exact execStepDurationReached_unstarted h

end

/-! ## CONFIGURE -/

/-- Every check passes. -/
theorem firstFailure_eq_none (l : List (Nat × Bool)) : firstFailure l = none ↔ ∀ x ∈ l, x.2 = true := by
  induction l with
  | nil => simp [firstFailure]
  | cons x l ih =>
    obtain ⟨n, ok⟩ := x
    cases ok <;> simp [firstFailure, ih]

/-- CONFIGURE is refused, or stores a record whose checks all pass. -/
theorem execConfigure_cases (p : Payload) (s t : State) (h : execConfigure p s = .next t) :
    (∃ r, t = s.respond r) ∨
    ∃ c r, c.bSafe ≤ c.bCfg ∧ t = (s.configure c).respond r := by
  simp only [execConfigure, goOn_eq, Host.Outcome.next.injEq] at h
  subst h
  unfold State.command
  split
  · exact .inl ⟨_, rfl⟩
  · beta_reduce
    split
    · exact .inl ⟨_, rfl⟩
    · rename_i hf
      refine .inr ⟨_, _, ?_, rfl⟩
      have hc := (firstFailure_eq_none _).1 hf (3, decide ((readCfg (payloadBytes p)).bSafe ≤ (readCfg (payloadBytes p)).bCfg))
        (by simp [Cfg.crossChecks])
      simpa using hc

/-! ## What every step keeps -/

/-- A step is a command, taken from the front of the queue or come of itself, or the passing of time. -/
theorem step_cases (s t : State) (h : step s = .next t) :
    (∃ c rest, exec c { s with pending := rest } = .next t) ∨ t = s.pass s.tick := by
  unfold step at h
  split at h
  · exact .inl ⟨_, _, h⟩
  · split at h
    · exact .inl ⟨_, s.pending, h⟩
    · cases h
      exact .inr rfl

theorem resetWith_lists (own : Nat) (trip offline : Bool) (queue : List Instr) :
    (State.resetWith own trip offline queue).shaped ∧ (State.resetWith own trip offline queue).stamped := by
  simp [shaped_and_stamped_iff, State.resetWith, Bookings.inPlace, Link.inPlace, Link.fresh, offersInPlace, Link.reset, Config.quanta,
    Config.bookings]

theorem Upholds_lists {a s : State} (h : a.Upholds s) (ha : a.shaped ∧ a.stamped) : s.shaped ∧ s.stamped := by
  rw [shaped_and_stamped_iff] at ha ⊢
  obtain ⟨hm, hk, hl, ho⟩ := ha
  exact ⟨h.map hm, h.bookings hk, h.link hl, h.offers ho⟩

theorem configure_lists {s : State} (h : s.shaped ∧ s.stamped) (c : Cfg) : (s.configure c).shaped ∧ (s.configure c).stamped := by
  rw [shaped_and_stamped_iff] at h ⊢
  obtain ⟨hm, hk, hl, ho⟩ := h
  exact ⟨hm, ⟨by simp [Config.bookings], hk.2⟩, hl, ho⟩

/-- Every command keeps the lists in their places. -/
theorem exec_lists (c : Instr) (s t : State) (h : s.shaped ∧ s.stamped) (ht : exec c s = .next t) :
    t.shaped ∧ t.stamped := by
  by_cases hr : ∃ n, c = .hardwareReset n
  · obtain ⟨n, rfl⟩ := hr
    cases ht
    exact resetWith_lists _ _ _ _
  · by_cases hc : ∃ p, c = .configure p
    · obtain ⟨p, rfl⟩ := hc
      rcases execConfigure_cases p s t ht with ⟨r, rfl⟩ | ⟨c, r, _, rfl⟩
      · exact h
      · exact configure_lists h c
    · exact Upholds_lists (exec_keeps c (fun n hn => hr ⟨n, hn⟩) (fun p hp => hc ⟨p, hp⟩) t ht) h

/-- Settles O56: every operation upholds the sizes and the stamps, and HARDWARE_RESET and CONFIGURE set them anew. -/
theorem stepKeepsTheListsInTheirPlaces : Obligations.StepKeepsTheListsInTheirPlaces := by
  intro s t h ht
  rcases step_cases s t ht with ⟨c, rest, hc⟩ | rfl
  · exact exec_lists c { s with pending := rest } t h hc
  · exact Upholds_lists (pass_upholds (.refl s) _) h

/-- START leaves no entry at or above B_eff that needs budget, whatever the map held before. -/
theorem execStart_budgetKept (p : Payload) (s t : State) (h : s.budgetKept) (hs : s.started = false)
    (ht : execStart p s = .next t) : t.budgetKept := by
  simp only [execStart, goOn_eq, Host.Outcome.next.injEq] at ht
  subst ht
  rw [budgetKept_iff] at h ⊢
  have hu : s.startValues.Upholds s.startValues.begin.refreshMarks.enterListening.finish :=
    Work.finish_upholds (Work.enterListening_upholds (Work.refreshMarks_upholds (.refl s.startValues)))
  have hb : s.startValues.bounded := (startValues_upholds (.refl s)).bounded h.1
  unfold State.command
  split
  · exact ⟨h.1, fun hst => absurd hst (ne_true_of_eq_false hs)⟩
  · beta_reduce
    generalize s.startValues.begin.refreshMarks.enterListening.finish = u at hu ⊢
    exact ⟨hu.bounded hb, fun _ => hu.above hb (startValues_clearAbove s)⟩

/-- Every command keeps the budget. -/
theorem exec_budgetKept (c : Instr) (s t : State) (h : s.budgetKept) (ht : exec c s = .next t) : t.budgetKept := by
  by_cases hr : ∃ n, c = .hardwareReset n
  · obtain ⟨n, rfl⟩ := hr
    cases ht
    exact ⟨Nat.le_refl _, Nat.le_refl _, fun hst => by cases hst⟩
  by_cases hc : ∃ p, c = .configure p
  · obtain ⟨p, rfl⟩ := hc
    rcases execConfigure_cases p s t ht with ⟨r, rfl⟩ | ⟨c, r, hle, rfl⟩
    · exact h
    · exact ⟨Nat.le_refl _, hle, fun hst => by cases hst⟩
  have hu := exec_keeps c (fun n hn => hr ⟨n, hn⟩) (fun p hp => hc ⟨p, hp⟩) t ht
  cases hs : s.started
  · by_cases hst : ∃ p, c = .start p
    · obtain ⟨p, rfl⟩ := hst
      exact execStart_budgetKept p s t h hs ht
    · rw [budgetKept_iff] at h ⊢
      refine ⟨hu.bounded h.1, fun k => ?_⟩
      rw [exec_unstarted hs c (fun p hp => hst ⟨p, hp⟩) t ht] at k
      cases k
  · rw [budgetKept_iff] at h ⊢
    exact ⟨hu.bounded h.1, fun _ => hu.above h.1 (h.2 hs)⟩

/-- Settles O55: every operation upholds the bound of the map by B_eff, and START and CONFIGURE set it anew. -/
theorem stepKeepsTheBudgetKept : Obligations.StepKeepsTheBudgetKept := by
  intro s t h ht
  rcases step_cases s t ht with ⟨c, rest, hc⟩ | rfl
  · exact exec_budgetKept c { s with pending := rest } t h hc
  · have hu := pass_upholds (.refl s) s.tick
    rw [budgetKept_iff] at h ⊢
    exact ⟨hu.bounded h.1, fun k => hu.above h.1 (h.2 (by simpa [State.started] using k))⟩

end Sys2Proof.Machine
end

section
/-! SUPPORT. The reset state, and the commands that are refused or only store a record. -/

namespace Sys2Proof.Machine

/-! ## Reset -/

/-- Every entry of the reset map below 128 is Free, and there is none from 128 on (R17). -/
theorem entry_reset (q : Nat) : State.reset.entry q = if q < 128 then .free else .withdrawn := by
  by_cases h : q < 128 <;>
    simp only [State.entry, State.reset, State.resetWith, Config.quanta, List.getD, List.getElem?_replicate, h, if_true,
      if_false, Option.getD_some, Option.getD_none]

theorem entry_reset_ne {e : QEntry} (hf : e ≠ .free) (hw : e ≠ .withdrawn) (q : Nat) : State.reset.entry q ≠ e := by
  rw [entry_reset]
  split
  · exact hf.symm
  · exact hw.symm

theorem started_reset : State.reset.started = false := rfl

/-- Settles O3: the fields of the reset state, and its map entry by entry. -/
theorem resetStateHoldsTheStatedValues : Obligations.ResetStateHoldsTheStatedValues := by
  have hmap : ∀ q, q < 128 → State.reset.entry q = .free := fun q hq => by rw [entry_reset, if_pos hq]
  exact ⟨rfl, rfl, rfl, rfl, rfl, rfl, rfl, rfl, rfl, hmap, rfl, rfl, rfl, rfl, rfl, rfl, rfl, rfl, rfl, rfl, rfl, rfl, rfl,
    rfl, rfl, rfl, rfl, rfl, rfl, rfl, rfl, rfl, rfl, rfl, rfl, rfl, rfl, rfl⟩

/-- Settles O59: the reset state has no frame, no drain and no claim, and has not started. -/
theorem resetStateMeetsEveryInvariant : Obligations.ResetStateMeetsEveryInvariant := by
  have hbudget : State.reset.budgetKept :=
    ⟨Nat.le_refl _, Nat.le_refl _, fun h => absurd h (by rw [started_reset]; decide)⟩
  have hpending : State.reset.pendingSettles :=
    ⟨List.nodup_nil, fun q => ⟨fun h => absurd h (entry_reset_ne (by decide) (by decide) q), fun h => absurd h List.not_mem_nil⟩⟩
  have hlists := resetWith_lists 0 false false []
  exact ⟨by decide, hbudget, hlists.1, hlists.2, rfl, by decide, by decide, by decide, hpending, by decide, by decide⟩

/-! ## Refused commands -/

/-- A command refused by its checks answers the state with the refusal as its pending response, and nothing else. -/
theorem goOn_command_refused {s : State} {code : Nat} {checks : List (Bool × RefCode)} {act : State → State × Response}
    {c : RefCode} (h : firstRefusal checks = some c) :
    ∃ t, goOn (s.command code checks act) = .next t ∧ t = { s with cpi := t.cpi } ∧ t.answered s .refused (some c) [] :=
  ⟨_, rfl, by rw [command_refused _ _ _ _ _ h]; rfl, by rw [command_refused _ _ _ _ _ h]; exact respond_refused_answered ..⟩

/-- Settles O6: of a payload of the allowed length the first check that fails is the one of the mode. -/
theorem commandsOutsideTheirModesAreRefusedState : Obligations.CommandsOutsideTheirModesAreRefusedState := by
  refine ⟨fun p c n s hc hn hs => ?started, fun p c n s hc hn hs => ?configured, fun p s h11 h91 hs => ?sessions,
    fun p c s hc => ?own, fun level s hl ho ht => ?rejoin⟩
  case started =>
    simp only [List.mem_cons, List.not_mem_nil, or_false, Prod.mk.injEq] at hc
    rcases hc with ⟨rfl, rfl⟩ | ⟨rfl, rfl⟩ | ⟨rfl, rfl⟩ | ⟨rfl, rfl⟩ | ⟨rfl, rfl⟩ | ⟨rfl, rfl⟩ | ⟨rfl, rfl⟩ <;>
      exact goOn_command_refused (by simp [badLength, State.notStarted, hn, hs])
  case configured =>
    simp only [List.mem_cons, List.not_mem_nil, or_false, Prod.mk.injEq] at hc
    rcases hc with ⟨rfl, rfl⟩ | ⟨rfl, rfl⟩ | ⟨rfl, rfl⟩ | ⟨rfl, rfl⟩ | ⟨rfl, rfl⟩ | ⟨rfl, rfl⟩ | ⟨rfl, rfl⟩ | ⟨rfl, rfl⟩ |
      ⟨rfl, rfl⟩ <;> exact goOn_command_refused (by simp [badLength, State.notConfigured, hn, hs])
  case sessions => exact goOn_command_refused (by simp [State.notStarted, inRange, hs, h11, h91])
  case own =>
    rcases hc with ⟨rfl, hn, hm⟩ | ⟨rfl, hn, hm⟩ | ⟨rfl, hn, hm⟩ <;>
      exact goOn_command_refused (by simp [badLength, hn, hm])
  case rejoin => exact goOn_command_refused (by simp [badLength, hl, ho, ht])

/-! ## CONFIGURE -/

theorem freshTable_length (n own : Nat) : (freshTable n own).length = n := by simp [freshTable]

theorem freshTable_getElem? {n k : Nat} (own : Nat) (h : k < n) :
    (freshTable n own)[k]? =
      some (if k = own then { Peer.absentEntry false with state := .self } else Peer.absentEntry false) := by
  simp [freshTable, h]

/-- The own entry of a fresh table is Self and every other Absent (R42). -/
theorem freshTable_state {n k : Nat} (own : Nat) (h : k < n) :
    ((freshTable n own)[k]?).map Peer.state = some (if k = own then .self else .absent) := by
  rw [freshTable_getElem? own h]
  split <;> rfl

theorem freshTable_fpSeen {n k : Nat} (own : Nat) (h : k < n) : ((freshTable n own)[k]?).map Peer.fpSeen = some false := by
  rw [freshTable_getElem? own h]
  split <;> rfl

/-- A CONFIGURE of 20 bytes in UNCONFIGURED whose checks all pass stores its record. -/
theorem execConfigure_stores {p : List Byte} {s : State} (hp : p.length = 20) (hm : s.mc.mode = .unconfigured)
    (hf : firstFailure ((readCfg p).rangeChecks ++ (readCfg p).crossChecks s.own) = none) :
    exec (.configure (.whole p)) s =
      .next ((s.configure (readCfg p)).respond (.accepted 0x02 (be2 (readCfg p).fingerprintOf.toNat))) := by
  have hr : firstRefusal [badLength (.whole p) 20, (s.mc.mode != .unconfigured, .state)] = none := by
    simp [badLength, hp, hm]
  change goOn _ = _
  simp only [payloadBytes_whole, command_taken _ _ _ _ hr, hf, goOn_eq]

/-- Settles O8: with every check passed no check is the first to fail. -/
theorem configureStoresTheCheckedRecord : Obligations.ConfigureStoresTheCheckedRecord := by
  intro p c s hp hm hc hrange hcross
  have hread : readCfg p = c := by
    subst hc
    rfl
  have hf : firstFailure (c.rangeChecks ++ c.crossChecks s.own) = none := by
    rw [firstFailure_eq_none]
    obtain ⟨hown, hhome, hsafe, hsolo, hquiet⟩ := hcross
    simp only [Cfg.rangeChecks, Cfg.crossChecks, inRange, List.cons_append, List.nil_append, List.forall_mem_cons,
      List.not_mem_nil, false_implies, implies_true, and_true, decide_eq_true_eq, Bool.and_eq_true, beq_iff_eq, hown, hhome,
      hsafe, hsolo, hquiet]
    omega
  refine ⟨_, execConfigure_stores hp hm (by rw [hread]; exact hf), ?_⟩
  rw [hread]
  exact ⟨rfl, rfl, rfl, rfl, freshTable_length _ _, fun k hk => freshTable_state _ hk, fun k hk => freshTable_fpSeen _ hk⟩

end Sys2Proof.Machine
end

section
/-! SUPPORT. The end of a step in which the Holdings Controller may take nothing, and START. -/

namespace Sys2Proof.Machine

/-! ## The time base of the Booking Unit -/

theorem Work.takeAction_startAt (w : Work) (a : Action) : (w.takeAction a).bk.startAt = w.bk.startAt := by
  cases a with
  | notify => rfl
  | shed => rfl
  | freeze => rfl
  | suspend => simp [Work.takeAction]

theorem Work.evaluate_startAt (w : Work) (i : Nat) (h e : Bool) (v : Nat) :
    (w.evaluate i h e v).bk.startAt = w.bk.startAt := by
  unfold Work.evaluate
  split
  · rfl
  · dsimp only
    split
    · rw [Work.takeAction_startAt]
    · rfl

theorem Work.hand_startAt (w : Work) (sel : Trigger → Option (Bool × Bool × Nat)) :
    (w.hand sel).bk.startAt = w.bk.startAt := by
  unfold Work.hand
  refine foldl_induct (fun v : Work => v.bk.startAt = w.bk.startAt) _ (fun v i hv => ?_) _ _ rfl
  split
  · rw [Work.evaluate_startAt, hv]
  · exact hv

theorem Bookings.offer_startAt (k : Bookings) (i v t : Nat) : (k.offer i v t).startAt = k.startAt := by
  unfold Bookings.offer
  split
  · rfl
  · dsimp only
    split
    · rfl
    · split
      · rfl
      · split <;> rfl

theorem Work.flushNotices_startAt (w : Work) : w.flushNotices.bk.startAt = w.bk.startAt :=
  foldl_induct (fun k : Bookings => k.startAt = w.bk.startAt) _ (fun k f hk => by rw [Bookings.offer_startAt, hk]) _ _ rfl

theorem Work.handConflict_startAt (w : Work) : w.handConflict.bk.startAt = w.bk.startAt := by
  unfold Work.handConflict
  split
  · rfl
  · rw [Work.hand_startAt]

theorem Work.testSessionEnd_startAt (w : Work) : w.testSessionEnd.bk.startAt = w.bk.startAt := by
  unfold Work.testSessionEnd
  split
  · rfl
  · split
    · unfold Work.handEnergy
      rw [Work.hand_startAt]
      rfl
    · rfl

/-! ## The end of a step without claims -/

theorem Work.sweepRun_none {w : Work} (h : w.hc.sweep = none) : w.sweepRun = w :=
  foldl_induct (fun v => v = w) _ (fun v _ hv => by rw [hv, Work.sweepMove, h]) _ _ rfl

/-- Where R84 permits nothing, the end of a step only lets ended promises go and ends the sweep. -/
theorem Work.holdingsProgress_idle {w : Work} (h : w.toState.mayTake = false) :
    w.holdingsProgress.lc = w.lc ∧
    w.holdingsProgress.hc = { w.hc with
      promises := w.hc.promises.filter w.toState.livePromise, sweep := none
      request := w.hc.request.map fun r => { r with ofSweep := false } } := by
  let p : Work := { w with hc := { w.hc with promises := w.hc.promises.filter w.toState.livePromise } }
  let v : Work := { p.endSweep with considerClaim := p.endSweep.considerClaim || p.endSweep.madeFree }
  have hm : v.toState.mayTake = false := h
  have hp : (if p.toState.mayTake then p else p.endSweep) = p.endSweep := if_neg (ne_true_of_eq_false h)
  have hv : w.holdingsProgress = v.considerClaiming.sweepProgress :=
    congrArg (fun u : Work => ({ u with considerClaim := u.considerClaim || u.madeFree } : Work).considerClaiming.sweepProgress)
      hp
  have hc : v.considerClaiming = v := by
    unfold Work.considerClaiming
    simp [hm]
  have hs : v.considerSweep = v := by
    unfold Work.considerSweep
    simp [hm]
  rw [hv, hc]
  unfold Work.sweepProgress
  rw [hs, Work.sweepRun_none rfl]
  split
  · exact ⟨rfl, rfl⟩
  · split
    · refine ⟨rfl, ?_⟩
      simp only [Work.endSweep_hc, v, Option.map_map]
      rfl
    · exact ⟨rfl, rfl⟩

theorem Work.testDrainDone_idle {w : Work} (h : w.toState.draining = false) : w.testDrainDone = w := by
  unfold Work.testDrainDone
  simp [h]

theorem draining_congr {s t : State} (h : t.mc = s.mc) : t.draining = s.draining := by
  simp only [State.draining, State.working, h]

/-- The end of a step that neither goes on with a withdrawal nor takes a quantum, block by block: only the session and its
notices, the promises and the sweep, and the setpoint can change. -/
theorem Work.finish_idle {w : Work} (hl : w.lostCompletes = w)
    (hd : w.toState.draining = false) (hm : w.mc.mode ≠ .active) :
    w.finish.mc = w.mc ∧ w.finish.bu = w.bu ∧ w.finish.map = w.map ∧ w.finish.ptu = w.ptu ∧ w.finish.ae = w.ae ∧
    w.finish.lc = w.lc ∧
    w.finish.hc = { w.hc with
      promises := w.hc.promises.filter w.toState.livePromise, sweep := none
      request := w.hc.request.map fun r => { r with ofSweep := false } } ∧
    w.finish.ci = { w.ci with
      pSet := w.finish.ci.pSet, sendValue := w.finish.ci.sendValue, outbox := w.finish.ci.outbox
      inhibit := w.ci.inhibit || w.toState.inhibitCause } ∧
    w.finish.bk.startAt = w.bk.startAt := by
  have hdrain : w.handConflict.testSessionEnd.testDrainDone = w.handConflict.testSessionEnd :=
    Work.testDrainDone_idle (by rw [draining_congr (s := w.toState) (by simp), hd])
  have hsettle : w.settle =
      w.handConflict.testSessionEnd.testSessionEnd.holdingsProgress.formAndSend.flushNotices := by
    rw [Work.settle, hl, hdrain]
  generalize hv : w.handConflict.testSessionEnd.testSessionEnd = v at hsettle
  have hmc : v.mc = w.mc := by simp [← hv]
  have hmap : v.map = w.map := by simp [← hv]
  have hhc : v.hc = w.hc := by simp [← hv]
  have hstart : v.bk.startAt = w.bk.startAt := by
    rw [← hv, Work.testSessionEnd_startAt, Work.testSessionEnd_startAt, Work.handConflict_startAt]
  have hci : v.ci = w.ci := by simp [← hv]
  obtain ⟨hlc, hhold⟩ := Work.holdingsProgress_idle (w := v) (by simp [State.mayTake, hmc, hm])
  have hlive : v.toState.livePromise = w.toState.livePromise := by
    funext p
    simp only [State.livePromise, State.entry, hmap]
  have hcause : v.holdingsProgress.toState.inhibitCause = w.toState.inhibitCause := by
    simp [State.inhibitCause, hhold, hci, hhc]
  have hform := v.holdingsProgress.formAndSend_ci
  rw [hcause] at hform
  unfold Work.finish
  rw [hsettle]
  refine ⟨by simp [hmc], by simp [← hv], by simp [hmap], by simp [← hv], by simp [← hv], by simp [hlc]; simp [← hv], ?_, ?_, ?_⟩
  · simp [hhold, hlive, hhc]
  · simpa [hci] using hform
  · rw [Work.flushNotices_startAt]
    simpa using hstart

/-- Outside ACTIVE, ISOLATED and MUTED the mode limit of Table 52 is 0, and so are P_set and the send value. -/
theorem State.setpointFormed_zero {s : State} (h : s.setpointFormed) (hm : s.working = false) :
    s.ci.pSet = 0 ∧ s.ci.sendValue = 0 := by
  have hp : s.ci.pSet = 0 := by
    rw [((setpointFormed_iff s).1 h).1]
    unfold State.formSetpoint State.modeLimit
    cases hs : s.mc.mode <;> simp_all [State.working]
  refine ⟨hp, ?_⟩
  rw [h.2, hp]
  simp

/-! ## Entries of modes -/

theorem Work.setMode_mc (w : Work) (m : Mode) :
    (w.setMode m).mc = { w.mc with
      mode := m, echoSince := if m = .active then some w.now else if m = .isolated then w.mc.echoSince else none
      errSince := if m = .isolated then w.mc.errSince else false } := by
  simp [Work.setMode]

theorem Work.setMode_lc (w : Work) (m : Mode) : (w.setMode m).lc = { w.lc with tx := txOf m } := by
  simp [Work.setMode]

theorem Work.setMode_hc (w : Work) (m : Mode) :
    (w.setMode m).hc = { w.hc with needOpen := w.hc.needOpen && !(m == .active) && !(w.mc.mode == .active) } := by
  simp [Work.setMode]

theorem Work.setMode_startAt (w : Work) (m : Mode) : (w.setMode m).bk.startAt = w.bk.startAt := by
  unfold Work.setMode Work.handMode
  rw [Work.hand_startAt]

/-- The entry to LISTENING with TRIP deasserted, block by block (R54). -/
theorem Work.enterListening_untripped {w : Work} (h : w.io.trip = false) :
    w.enterListening.mc = { w.mc with
      mode := .listening, echoSince := none, errSince := false, solo := false
      listenAt := some (w.now + w.toState.conf.silenceMs) } ∧
    w.enterListening.lc = { w.lc with tx := .off, txErrors := 0, listenErrors := 0 } ∧
    w.enterListening.hc = { w.hc with needOpen := w.hc.needOpen && !(w.mc.mode == .active) } ∧
    w.enterListening.ptu = { w.ptu with lineHeard := none, lineCleared := w.now } ∧
    w.enterListening.ae = { w.ae with epochAt := none, seq := 0, result := none } ∧
    w.enterListening.map = w.map ∧ w.enterListening.bu = w.bu ∧ w.enterListening.ci = w.ci ∧
    w.enterListening.bk.startAt = w.bk.startAt := by
  unfold Work.enterListening
  dsimp only
  rw [if_neg (by simp [h])]
  refine ⟨?_, ?_, ?_, ?_, ?_, by simp, by simp, by simp, ?_⟩
  · simp [Work.setMode_mc, State.conf]
  · simp [Work.setMode_lc, txOf]
  · simp [Work.setMode_hc, show (Mode.listening == Mode.active) = false from rfl]
  · simp
  · simp
  · unfold Work.handTarget
    rw [Work.hand_startAt, ← Work.setMode_startAt w .listening]

/-! ## TRIPPED -/

theorem Work.loseFrames_lc (w : Work) (p : Frame → Bool) : (w.loseFrames p).lc = w.lc.removeOffLine p := by
  unfold Work.loseFrames
  rw [foldl_keeps (fun w : Work => w.lc) _ (fun a b => by simp) _ _]

theorem Work.emptyQueue_lc (w : Work) : w.emptyQueue.lc = w.lc.lastAttempt.removeOffLine fun _ => true :=
  Work.loseFrames_lc _ _

theorem Attempt.asLast_asLast (a : Attempt) : a.asLast.asLast = a.asLast := by
  cases a <;> rfl

theorem Work.tripEffects_attempt (w : Work) : w.tripEffects.lc.attempt = w.lc.attempt.map Attempt.asLast := by
  simp [Work.tripEffects, Work.setMode_lc, Link.lastAttempt, Link.removeOffLine, Link.promote]

theorem Work.tripEffects_mode (w : Work) : w.tripEffects.mc.mode = .tripped := by
  simp [Work.tripEffects, Work.setMode_mc]

theorem Work.tripEffects_ci (w : Work) : w.tripEffects.ci = { w.ci with causeTripped := true } := by
  simp [Work.tripEffects]

/-- At a clearing point the attempt in progress becomes the last one, and the mode and the Converter Interface stay. -/
theorem Work.clearBlocks_stays (w : Work) :
    w.clearBlocks.lc.attempt = w.lc.attempt.map Attempt.asLast ∧ w.clearBlocks.mc.mode = w.mc.mode ∧
    w.clearBlocks.ci = w.ci := by
  simp [Work.clearBlocks, Work.emptyQueue_lc, Link.lastAttempt, Link.removeOffLine, Link.promote]

/-- The entry to TRIPPED makes the attempt in progress the last one and sets the cause of INHIBIT (R159). -/
theorem Work.tripEntry_stays (w : Work) :
    w.tripEntry.lc.attempt = w.lc.attempt.map Attempt.asLast ∧ w.tripEntry.mc.mode = .tripped ∧
    w.tripEntry.ci = { w.ci with causeTripped := true } := by
  unfold Work.tripEntry
  dsimp only
  split
  · obtain ⟨ha, hm, hc⟩ := w.tripEffects.clearBlocks_stays
    rw [ha, hm, hc, Work.tripEffects_attempt, Work.tripEffects_mode, Work.tripEffects_ci]
    refine ⟨?_, rfl, rfl⟩
    simp [Function.comp_def, Attempt.asLast_asLast]
  · exact ⟨w.tripEffects_attempt, w.tripEffects_mode, w.tripEffects_ci⟩

/-- The entry to LISTENING with TRIP asserted ends in TRIPPED (R159). -/
theorem Work.enterListening_tripped {w : Work} (h : w.io.trip = true) :
    w.enterListening.lc.attempt = w.lc.attempt.map Attempt.asLast ∧ w.enterListening.mc.mode = .tripped ∧
    w.enterListening.ci = { w.ci with causeTripped := true } := by
  unfold Work.enterListening
  dsimp only
  rw [if_pos (by simp [h])]
  obtain ⟨ha, hm, hc⟩ := Work.tripEntry_stays (Work.handTarget _)
  rw [ha, hm, hc]
  simp [Work.setMode_lc]

/-! ## START -/

/-- The work with which START enters LISTENING. -/
def State.startWork (s : State) : Work := s.startValues.begin.refreshMarks

theorem exec_start_configured {s : State} (h : s.mc.mode = .configured) :
    exec (.start (.whole [])) s = .next (s.startWork.enterListening.finish.respond (.accepted 0x03 [])) := by
  have hr : firstRefusal [badLength (.whole []) 0, (s.mc.mode != .configured, .state)] = none := by
    simp [badLength, h]
  simp only [exec, execStart, command_taken _ _ _ _ hr, goOn_eq, State.startWork]

/-- In a state that is neither working nor OFFLINE no drain is under way. -/
theorem draining_of_idle {s : State} (hw : s.working = false) (ho : s.mc.mode ≠ .offline) : s.draining = false := by
  simp [State.draining, hw, ho]

/-- START with TRIP deasserted, block by block, before its response. -/
theorem startWork_finish_untripped {s : State} (h : s.io.trip = false) {t : State} (ht : t = s.startWork.enterListening.finish) :
    t.mc = { s.mc with
      mode := .listening, solo := false, listenAt := some (s.now + s.conf.lSil * s.conf.tEp), echoSince := none
      errSince := false } ∧
    t.map = startMap s.conf.bCfg ∧
    t.bu = { offers := [], seen := false, bEff := s.conf.bCfg, ownSeq := s.bu.ownSeq } ∧
    t.ptu = { entries := freshTable s.conf.nSt s.own, lineHeard := none, lineCleared := s.now } ∧
    t.ae = { s.ae with epochAt := none, seq := 0, result := none, sticky := CompFlags.clear } ∧
    t.hc = Holdings.reset s.own ∧
    t.lc = { s.lc with
      queue := [], waiting := [], tx := .off, txErrors := 0, rxErrors := 0, listenErrors := 0, rxRun := 0
      rateSuspect := false, muteHold := Config.muteHoldMin, muteAt := none, probeDue := false } ∧
    t.ci.lostQuiesce = .running (s.now + s.conf.tQ) ∧ t.ci.discarded = 0 ∧ t.bk.startAt = s.now := by
  subst ht
  obtain ⟨hmc, hlc, hhc, hptu, hae, hmap, hbu, hci, hst⟩ := Work.enterListening_untripped (w := s.startWork) h
  generalize s.startWork.enterListening = w at hmc hlc hhc hptu hae hmap hbu hci hst ⊢
  have hmode : w.mc.mode = .listening := by rw [hmc]
  have hlost : ¬(w.ci.conv = .lost ∧ w.ci.lostQuiesce = .expired) := by
    rw [hci]
    simp [State.startWork, State.startValues]
  have hdrain : w.toState.draining = false :=
    draining_of_idle (by simp [State.working, hmode]) (by simp [hmode])
  obtain ⟨fmc, fbu, fmap, fptu, fae, flc, fhc, fci, fst⟩ :=
    Work.finish_idle (if_neg hlost) hdrain (by simp [hmode])
  rw [fmc, fbu, fmap, fptu, fae, flc, fhc, fci, fst, hmc, hlc, hhc, hptu, hae, hmap, hbu, hci, hst]
  exact ⟨rfl, rfl, rfl, rfl, rfl, rfl, rfl, rfl, rfl, rfl⟩

/-- START with TRIP asserted, before its response. -/
theorem startWork_finish_tripped {s : State} (h : s.io.trip = true) :
    s.startWork.enterListening.finish.mc.mode = .tripped ∧
    s.startWork.enterListening.finish.ci.causeTripped = true ∧
    s.startWork.enterListening.finish.ci.pSet = 0 ∧
    s.startWork.enterListening.finish.lc.attempt = s.lc.attempt.map Attempt.asLast := by
  obtain ⟨ha, hm, hc⟩ := Work.enterListening_tripped (w := s.startWork) h
  generalize s.startWork.enterListening = w at ha hm hc ⊢
  have hlost : ¬(w.ci.conv = .lost ∧ w.ci.lostQuiesce = .expired) := by
    rw [hc]
    simp [State.startWork, State.startValues]
  have hidle : w.toState.working = false := by simp [State.working, hm]
  obtain ⟨fmc, -, -, -, -, flc, -, fci, -⟩ :=
    Work.finish_idle (if_neg hlost) (draining_of_idle hidle (by simp [hm])) (by simp [hm])
  have hp : w.finish.ci.pSet = 0 :=
    (State.setpointFormed_zero (finish_formed w) (by simp [State.working, fmc, hm])).1
  refine ⟨by rw [fmc, hm], by rw [fci, hc], hp, ?_⟩
  rw [flc, ha]
  rfl

/-- A state that keeps the clock, the inputs and the waiting commands of another differs from it in the other blocks only. -/
theorem State.eq_of_outer {s t : State} (hn : t.now = s.now) (hi : t.io = s.io) (hp : t.pending = s.pending) :
    t = { s with
      cpi := t.cpi, mc := t.mc, bu := t.bu, map := t.map, ptu := t.ptu, ae := t.ae, hc := t.hc, ss := t.ss, ci := t.ci
      lc := t.lc, bk := t.bk } := by
  rw [← hn, ← hi, ← hp]

/-- Settles O10: START gives every block its START value, and the entry to LISTENING and the end of the step change only
what LISTENING, or with TRIP asserted TRIPPED, says. -/
theorem startEntersListening : Obligations.StartEntersListening := by
  refine ⟨fun s hm ht => ⟨_, exec_start_configured hm, ?_⟩, fun s hm ht => ⟨_, exec_start_configured hm, ?_⟩⟩
  · obtain ⟨fmc, fmap, fbu, fptu, fae, fhc, flc, flost, fdis, fstart⟩ := startWork_finish_untripped ht rfl
    have hout := finish_outer s.startWork.enterListening
    have hformed := finish_formed s.startWork.enterListening
    generalize s.startWork.enterListening.finish = t at *
    obtain ⟨hnow, hio, hcpi, hpend⟩ := hout
    simp only [Work.enterListening_keeps, State.startWork] at hnow hio hcpi hpend
    have hpset : t.ci.pSet = 0 := (State.setpointFormed_zero hformed (by simp [State.working, fmc])).1
    have hans : (t.respond (.accepted 0x03 [])).answered s .accepted none [] := respond_answered s t _ hnow hcpi
    refine ⟨?_, hans, fmc, fun q hq => ?_, fbu, fun k hk => ?_, ?_⟩
    · rw [State.eq_of_outer hnow hio hpend]
      rfl
    · rw [State.entry, State.respond_map, fmap, startMap_getD _ _ hq]
    · rw [State.respond_ptu, fptu]
      exact freshTable_state _ hk
    · simp [fptu, fae, fhc, flc, flost, fdis, fstart, hpset, Config.muteHoldMin]
  · obtain ⟨hmode, hcause, hpset, hatt⟩ := startWork_finish_tripped ht
    generalize s.startWork.enterListening.finish = t at *
    refine ⟨hmode, hcause, hpset, hatt.trans ?_⟩
    congr 1

end Sys2Proof.Machine
end

section
/-! SUPPORT. The end of a step in a calm state, the frames that stay in the queue, and the offers of a budget. -/

namespace Sys2Proof.Machine

/-! ## Frames that stay, and frames that do not join -/

/-- The frames of `l` of classes 0 to 3 stay in `m`, and the age stamps stay in order. -/
def Link.retains (l m : Link) : Prop :=
  l.fresh → m.fresh ∧ ∀ x ∈ l.queue ++ l.waiting, classOf x.frame ≠ 4 → x ∈ m.queue ++ m.waiting

theorem Link.retains_refl (l : Link) : l.retains l := fun h => ⟨h, fun _ hx _ => hx⟩

theorem Link.retains_trans {l m n : Link} (h : l.retains m) (k : m.retains n) : l.retains n := fun hf =>
  have hm := h hf
  have hn := k hm.1
  ⟨hn.1, fun x hx hc => hn.2 x (hm.2 x hx hc) hc⟩

theorem Link.place_retains (l : Link) (f : Frame) : l.retains (l.place f) := fun h =>
  ⟨l.place_fresh h f, fun _ hx hc => l.mem_place_of_mem h f hx hc⟩

/-- Every frame of kind `k` in `m` stood in `l`. -/
def Link.addsNo (k : FrameKind) (l m : Link) : Prop :=
  ∀ x ∈ m.queue ++ m.waiting, kindOf x.frame = k → x ∈ l.queue ++ l.waiting

theorem Link.addsNo_trans {k : FrameKind} {l m n : Link} (h : l.addsNo k m) (g : m.addsNo k n) : l.addsNo k n :=
  fun x hx hk => h x (g x hx hk) hk

section
variable {k : FrameKind}

theorem Link.place_addsNo (l : Link) {f : Frame} (hf : kindOf f ≠ k) : l.addsNo k (l.place f) := by
  intro x hx hk
  have hne : x ≠ { id := l.nextId, frame := f, retry := 0 } := fun he => hf (by rw [← hk, he])
  unfold Link.place at hx
  dsimp only at hx
  split at hx
  · simp only [List.mem_append, mem_insertFrame] at hx ⊢
    tauto
  · split at hx
    · exact hx
    · split at hx <;> simp only [List.mem_append, mem_insertFrame, List.mem_filter] at hx ⊢ <;> tauto

theorem mergeInto_addsNo (sel : QFrame → Option (List Nat)) {put : List Nat → Frame} (hp : ∀ qs, kindOf (put qs) ≠ k)
    (qs : List Nat) (l : List QFrame) : ∀ x ∈ (mergeInto sel put qs l).1, kindOf x.frame = k → x ∈ l := by
  induction l generalizing qs with
  | nil => simp [mergeInto]
  | cons y l ih =>
    intro x hx hk
    unfold mergeInto at hx
    split at hx
    · rcases List.mem_cons.1 hx with rfl | hx
      · exact List.mem_cons_self
      · exact List.mem_cons_of_mem _ (ih _ x hx hk)
    · rcases List.mem_cons.1 hx with rfl | hx
      · exact absurd hk (hp _)
      · exact List.mem_cons_of_mem _ (ih _ x hx hk)

theorem Link.mergeOrPlace_addsNo (l : Link) (sel : QFrame → Option (List Nat)) {put : List Nat → Frame}
    (hp : ∀ qs, kindOf (put qs) ≠ k) (qs : List Nat) : l.addsNo k (l.mergeOrPlace sel put qs) := by
  unfold Link.mergeOrPlace
  refine foldl_induct (fun m => l.addsNo k m) _ (fun m r hm => Link.addsNo_trans hm (m.place_addsNo (hp r))) _ _ ?_
  intro x hx hk
  rcases List.mem_append.1 hx with hx | hx
  · exact List.mem_append_left _ (mergeInto_addsNo _ hp _ _ x hx hk)
  · exact List.mem_append_right _ (mergeInto_addsNo _ hp _ _ x hx hk)

theorem Link.coalesceOrPlace_addsNo (l : Link) (same : Frame → Bool) {f : Frame} (hf : kindOf f ≠ k) :
    l.addsNo k (l.coalesceOrPlace same f) := by
  unfold Link.coalesceOrPlace
  dsimp only
  split
  · intro x hx hk
    rw [← List.map_append, List.mem_map] at hx
    obtain ⟨y, hy, rfl⟩ := hx
    split at hk
    · exact absurd hk hf
    · rename_i hn
      rwa [if_neg hn]
  · exact l.place_addsNo hf

/-- A frame that is offered adds frames of its own kind only. -/
theorem Link.enqueue_addsNo (l : Link) {f : Frame} (hf : kindOf f ≠ k) : l.addsNo k (l.enqueue f) := by
  cases f with
  | contest qs => exact l.mergeOrPlace_addsNo contestQuanta (put := .contest) (fun _ => hf) qs
  | release b qs => exact l.mergeOrPlace_addsNo (releaseQuanta b) (put := .release b) (fun _ => hf) qs
  | report => exact l.coalesceOrPlace_addsNo _ hf
  | budget => exact l.coalesceOrPlace_addsNo _ hf
  | claim => exact l.place_addsNo hf
  | yieldReq => exact l.place_addsNo hf
  | yieldAns => exact l.place_addsNo hf
  | join => exact l.place_addsNo hf
  | leave => exact l.place_addsNo hf

end

/-- A frame offered inside a step is queued as the queue takes it, or not at all. -/
theorem Work.enqueue_lc (w : Work) (f : Frame) : (w.enqueue f).lc = w.lc ∨ (w.enqueue f).lc = w.lc.enqueue f := by
  unfold Work.enqueue
  (repeat' split) <;> simp

section
variable {l : Link} {w : Work} (hl : w.lc = l)
include hl

theorem Work.enqueue_addsNo {k : FrameKind} {f : Frame} (hf : kindOf f ≠ k) : l.addsNo k (w.enqueue f).lc := by
  rcases w.enqueue_lc f with h | h <;> rw [h, hl]
  · exact fun _ hx _ => hx
  · exact l.enqueue_addsNo hf

/-- A frame that merges with none takes a place, and displaces one of class 4 at most. -/
theorem Work.enqueue_retains {f : Frame} (hf : l.enqueue f = l.place f) : l.retains (w.enqueue f).lc := by
  rcases w.enqueue_lc f with h | h <;> rw [h, hl]
  · exact Link.retains_refl _
  · rw [hf]
    exact Link.place_retains _ _

/-! ## Claims and requests at the end of a step -/

theorem Work.considerClaiming_retains : l.retains w.considerClaiming.lc := by
  unfold Work.considerClaiming
  dsimp only
  split
  · exact Work.enqueue_retains (f := .claim _) (by exact hl) rfl
  · exact hl ▸ Link.retains_refl _

theorem Work.considerClaiming_addsNo : l.addsNo .yieldReq w.considerClaiming.lc := by
  unfold Work.considerClaiming
  dsimp only
  split
  · exact Work.enqueue_addsNo (f := .claim _) (by exact hl) (by simp [kindOf])
  · exact hl ▸ fun _ hx _ => hx

theorem Work.sendRequest_retains (t : Nat) (d : Disposition) (c : Nat) (qs : List Nat) :
    l.retains (w.sendRequest t d c qs).lc := Work.enqueue_retains (f := .yieldReq t c d qs) (by exact hl) rfl

theorem Work.sweepMove_retains : l.retains w.sweepMove.lc := by
  have hsame : l.retains w.lc := hl ▸ Link.retains_refl _
  unfold Work.sweepMove
  dsimp only
  (repeat' split) <;> first
    | exact hsame
    | exact Work.sendRequest_retains (by exact hl) _ _ _ _

theorem Work.sweepRun_retains : l.retains w.sweepRun.lc := by
  unfold Work.sweepRun
  refine foldl_induct (fun v : Work => l.retains v.lc) _ (fun v _ hv => ?_) _ _ (hl ▸ Link.retains_refl _)
  exact Link.retains_trans hv (Work.sweepMove_retains rfl)

theorem Work.sweepProgress_retains : l.retains w.sweepProgress.lc := by
  unfold Work.sweepProgress
  split
  · refine Work.sweepRun_retains (w := w.considerSweep) ?_
    unfold Work.considerSweep
    dsimp only
    split <;> exact hl
  · split <;> exact hl ▸ Link.retains_refl _

end

/-- The Holdings Controller's part of the end of a step is claiming and sweeping, after promises and a sweep have ended. -/
theorem Work.holdingsProgress_eq (w : Work) : ∃ v : Work, w.holdingsProgress = v.considerClaiming.sweepProgress ∧
    v.lc = w.lc ∧ v.bu = w.bu ∧ v.before = w.before := by
  unfold Work.holdingsProgress
  dsimp only
  refine ⟨_, rfl, ?_, ?_, ?_⟩ <;> dsimp only <;> split <;> rfl

/-- It displaces frames of class 4 at most. -/
theorem Work.holdingsProgress_retains (w : Work) : w.lc.retains w.holdingsProgress.lc := by
  obtain ⟨v, hv, hl, -, -⟩ := w.holdingsProgress_eq
  rw [hv]
  exact Link.retains_trans (Work.considerClaiming_retains hl) (Work.sweepProgress_retains rfl)

/-- In the step of a fall of B_eff it queues no YIELD-REQ (R8). -/
theorem Work.holdingsProgress_addsNo {w : Work} (h : w.bu.bEff < w.before.bu.bEff) :
    w.lc.addsNo .yieldReq w.holdingsProgress.lc := by
  obtain ⟨v, hv, hl, hb, hbefore⟩ := w.holdingsProgress_eq
  rw [hv, Work.sweepProgress_fell _ (by simpa [hb, hbefore] using h)]
  split <;> exact Work.considerClaiming_addsNo hl

/-! ## The end of a step in a calm state -/

/-- The end of a step in a calm state, block by block: the queue, what the Holdings Controller claims and asks for, and the
setpoint can change. -/
theorem Work.finish_calm {w : Work} (h : w.toState.calm) (hc : w.conflictLost = []) :
    w.finish.mc = w.mc ∧ w.finish.bu = w.bu ∧ w.finish.map = w.map ∧ w.finish.ptu = w.ptu ∧ w.finish.ae = w.ae ∧
    w.finish.ss = w.ss ∧ w.finish.lc = w.holdingsProgress.lc ∧ w.finish.hc = w.holdingsProgress.hc ∧
    w.finish.ci = { w.ci with
      pSet := w.finish.ci.pSet, sendValue := w.finish.ci.sendValue, outbox := w.finish.ci.outbox
      inhibit := w.ci.inhibit || w.toState.inhibitCause } := by
  have hcause : w.holdingsProgress.toState.inhibitCause = w.toState.inhibitCause := by
    have hs := congrArg Holdings.stuck w.holdingsProgress_onlyClaims.2
    simp_all [State.inhibitCause]
  have hform := w.holdingsProgress.formAndSend_ci
  rw [hcause] at hform
  unfold Work.finish
  rw [w.settle_calm h hc]
  refine ⟨by simp, by simp, by simp, by simp, by simp, by simp, by simp, by simp, ?_⟩
  simpa using hform

theorem Work.finish_lc_sameBut {w : Work} (h : w.toState.calm) (hc : w.conflictLost = []) : w.lc.sameBut w.finish.lc := by
  obtain ⟨-, -, -, -, -, -, hlc, -, -⟩ := Work.finish_calm h hc
  rw [hlc]
  exact w.holdingsProgress_onlyClaims.1

/-- The end of a calm step keeps the frames of classes 0 to 3. -/
theorem Work.finish_retains {w : Work} (h : w.toState.calm) (hc : w.conflictLost = []) : w.lc.retains w.finish.lc := by
  obtain ⟨-, -, -, -, -, -, hlc, -, -⟩ := Work.finish_calm h hc
  rw [hlc]
  exact w.holdingsProgress_retains

/-- A frame of the working state is still queued after the end of a calm step, unless it is of class 4. -/
theorem Work.finish_queues {w : Work} (h : w.toState.calm) (hc : w.conflictLost = []) (hf : w.lc.fresh) {x : QFrame}
    (hx : x ∈ w.lc.queue ++ w.lc.waiting) (hk : classOf x.frame ≠ 4) {p : Frame → Bool} (hp : p x.frame = true) :
    w.finish.queues p :=
  List.any_eq_true.2 ⟨x, (Work.finish_retains h hc hf).2 x hx hk, hp⟩

/-- Frames queued in the step before its end belong to what the end of a step may add. -/
theorem State.endOf_of_queued {a b t : State} (h : State.endOf b t) (hb : b = { a with lc := b.lc })
    (hl : a.lc.sameBut b.lc) : State.endOf a t := by
  obtain ⟨ht, htl, hth, htc, hf⟩ := h
  have hlc : a.lc.sameBut t.lc := Link.sameBut_trans hl htl
  rw [hb] at ht hth htc
  exact ⟨ht, hlc, hth, htc, hf⟩

/-- The response of a command stands beside what the end of its step may add. -/
theorem State.endOf_respond {a t : State} (h : State.endOf a t) (r : Response) :
    State.endOf { a with cpi := (t.respond r).cpi } (t.respond r) := by
  obtain ⟨ht, htl, hth, htc, hf⟩ := h
  refine ⟨?_, htl, hth, htc, hf⟩
  rw [ht]
  rfl

/-! ## BUDGET OFFER -/

theorem Link.fresh_of_stamped {s : State} (h : s.stamped) : s.lc.fresh := by
  simpa only [Link.fresh, List.forall_mem_map] using h

/-- A BUDGET takes a place, or that of an earlier one not on the line (R103). -/
theorem Link.mem_enqueue_budget (l : Link) (u v n h : Nat) :
    ∃ x ∈ (l.enqueue (.budget u v n h)).queue ++ (l.enqueue (.budget u v n h)).waiting, x.frame = .budget u v n h := by
  change ∃ x ∈ (l.coalesceOrPlace _ _).queue ++ (l.coalesceOrPlace _ _).waiting, _
  unfold Link.coalesceOrPlace
  dsimp only
  split
  · rename_i hany
    rw [Link.anyQueued, ← List.any_append, List.any_eq_true] at hany
    obtain ⟨y, hy, hhit⟩ := hany
    refine ⟨{ y with frame := .budget u v n h, retry := 0 }, ?_, rfl⟩
    rw [← List.map_append, List.mem_map]
    exact ⟨y, hy, if_pos hhit⟩
  · exact ⟨_, l.place_mem_any _ (by simp [classOf, kindOf, kindChar]), rfl⟩

theorem offerBudget_eq (s : State) (v h : Nat) : s.begin.offerBudget v h = { s.begin with
    bu := { s.bu with ownSeq := (s.bu.ownSeq + 1) % 256 }
    lc := s.lc.enqueue (.budget s.own v ((s.bu.ownSeq + 1) % 256) h) } := by
  simp [Work.offerBudget, Work.enqueue, State.mayQueue, ofHoldings, kindOf, State.own]

theorem exec_budgetOffer_taken {v h : Byte} {s : State} (hw : s.working = true) (h1 : 1 ≤ h.toNat) (h60 : h.toNat ≤ 60) :
    exec (.budgetOffer (.whole [v, h])) s =
      .next ((s.begin.offerBudget (min s.conf.bCfg v.toNat) h.toNat).finish.respond
        (.done (decide (s.conf.bCfg < v.toNat))
          (byteOf (s.begin.offerBudget (min s.conf.bCfg v.toNat) h.toNat).finish.bu.ownSeq))) := by
  have hr : firstRefusal [badLength (.whole [v, h]) 2, (!s.working, .state),
      (!inRange 1 60 (at1 (payloadBytes (.whole [v, h])) 1), .range)] = none := by
    simp [badLength, hw, inRange, at1, h1, h60]
  simp only [exec, execBudgetOffer, command_taken _ _ _ _ hr, goOn_eq]
  rfl

/-- Settles O20: the frame is queued, and the end of a calm step displaces none but frames of class 4. -/
theorem budgetOfferQueuesItsFrame : Obligations.BudgetOfferQueuesItsFrame := by
  refine ⟨fun v h s hw h1 h60 hcalm hst => ⟨_, exec_budgetOffer_taken hw h1 h60, ?_⟩, fun v h s hw hh => ?_⟩
  · have hw := offerBudget_eq s (min s.conf.bCfg v.toNat) h.toNat
    generalize hn : (s.bu.ownSeq + 1) % 256 = n at hw ⊢
    obtain ⟨x, hx, hxf⟩ := s.lc.mem_enqueue_budget s.own (min s.conf.bCfg v.toNat) n h.toNat
    have hfresh := s.lc.enqueue_fresh (Link.fresh_of_stamped hst) (.budget s.own (min s.conf.bCfg v.toNat) n h.toNat)
    have hlc := s.lc.enqueue_sameBut (.budget s.own (min s.conf.bCfg v.toNat) n h.toNat)
    generalize s.lc.enqueue (.budget s.own (min s.conf.bCfg v.toNat) n h.toNat) = l at hw hx hfresh hlc
    generalize s.begin.offerBudget (min s.conf.bCfg v.toNat) h.toNat = w at hw ⊢
    subst hw
    have hend := Work.finish_endOf { s.begin with bu := { s.bu with ownSeq := n }, lc := l } hcalm rfl rfl rfl
    have hqueue := Work.finish_queues (w := { s.begin with bu := { s.bu with ownSeq := n }, lc := l }) hcalm rfl hfresh hx
      (by simp [hxf, classOf, kindOf, kindChar]) (p := fun f => f == .budget s.own (min s.conf.bCfg v.toNat) n h.toNat) (by simp [hxf])
    have hout := finish_outer { s.begin with bu := { s.bu with ownSeq := n }, lc := l }
    generalize Work.finish { s.begin with bu := { s.bu with ownSeq := n }, lc := l } = t at hend hqueue hout ⊢
    have hseq : t.bu.ownSeq = n := by rw [hend.1]
    rw [hseq]
    have hans := respond_answered s t (.done (decide (s.conf.bCfg < v.toNat)) (byteOf n)) hout.1 hout.2.2.1
    refine ⟨?_, rfl, ?_, hqueue⟩
    · simpa [Response.done] using hans
    · exact State.endOf_respond (a := { s with bu := { s.bu with ownSeq := n } }) (State.endOf_of_queued hend rfl hlc) _
  · refine goOn_command_refused ?_
    have : inRange 1 60 h.toNat = false := by simp [inRange]; omega
    simp [badLength, hw, at1, this]

end Sys2Proof.Machine
end

section
/-! SUPPORT. The budget formed again: B_eff, the map, and the end of the step in which it changes. -/

namespace Sys2Proof.Machine

/-! ## Bookings end no session -/

theorem Session.suspendFor_ending (r : SuspReason) (x : Session) :
    (∃ why left, (x.suspendFor r).phase = .ending why left) ↔ ∃ why left, x.phase = .ending why left := by
  unfold Session.suspendFor
  cases hx : x.phase with
  | charging => simp
  | suspended r' =>
    dsimp only
    split <;> simp [hx]
  | complete => simp [hx]
  | ending why left => simp [hx]

theorem sessionEnding_iff (s : State) :
    s.sessionEnding = true ↔ ∃ x, s.ss.session = some x ∧ ∃ why left, x.phase = .ending why left := by
  unfold State.sessionEnding State.sessState
  cases hs : s.ss.session with
  | none => simp
  | some x =>
    cases hx : x.phase <;> simp [hx, SessPhase.report]

theorem Work.suspendCause_sessionEnding (w : Work) (r : SuspReason) :
    (w.suspendCause r).toState.sessionEnding = w.toState.sessionEnding := by
  rw [Bool.eq_iff_iff, sessionEnding_iff, sessionEnding_iff]
  unfold Work.suspendCause
  split
  · rfl
  · rename_i x hx
    simp only [Work.derive_ss, hx, Option.some.injEq, exists_eq_left', Session.suspendFor_ending]

theorem Work.takeAction_sessionEnding (w : Work) (a : Action) :
    (w.takeAction a).toState.sessionEnding = w.toState.sessionEnding := by
  cases a with
  | notify => rfl
  | shed => rfl
  | freeze => rfl
  | suspend => exact w.suspendCause_sessionEnding _

theorem Work.evaluate_sessionEnding (w : Work) (i : Nat) (h e : Bool) (v : Nat) :
    (w.evaluate i h e v).toState.sessionEnding = w.toState.sessionEnding := by
  unfold Work.evaluate
  split
  · rfl
  · dsimp only
    split
    · rw [Work.takeAction_sessionEnding]
      rfl
    · rfl

theorem Work.hand_sessionEnding (w : Work) (sel : Trigger → Option (Bool × Bool × Nat)) :
    (w.hand sel).toState.sessionEnding = w.toState.sessionEnding := by
  unfold Work.hand
  refine foldl_induct (fun v : Work => v.toState.sessionEnding = w.toState.sessionEnding) _ (fun v i hv => ?_) _ _ rfl
  split
  · rw [Work.evaluate_sessionEnding, hv]
  · exact hv

/-- Calmness reads the Mode Controller, the Converter Interface and the phase of the session. -/
theorem State.calm_congr {s t : State} (hm : t.mc = s.mc) (hc : t.ci = s.ci) (hs : t.sessionEnding = s.sessionEnding)
    (h : s.calm) : t.calm := by
  unfold State.calm
  rwa [hm, hc, hs]

/-! ## B_eff -/

/-- B_eff is the least of B_cfg and the values of the offers, B_safe without an offer once one has been seen (R7). -/
theorem effectiveBudget_eq (c : Cfg) (os : List Offer) (seen : Bool) :
    effectiveBudget c os seen =
      if os = [] then (if seen then c.bSafe else c.bCfg) else (os.map Offer.value).foldl min c.bCfg := by
  cases os with
  | nil => rfl
  | cons o os => simp [effectiveBudget, List.foldl_map]

theorem Work.budgetFall_bu (w : Work) (b : Nat) : (w.budgetFall b).bu = { w.bu with bEff := b } := by
  rw [Work.budgetFall_eq]
  simp only [Work.enqueue_keeps]
  rw [foldl_keeps (fun w : Work => w.bu) _ (fun a b => by simp) _ _]
  rfl

theorem Work.budgetRise_bu (w : Work) (b : Nat) : (w.budgetRise b).bu = { w.bu with bEff := b } := rfl

theorem Work.formBudget_bu (w : Work) :
    w.formBudget.bu = { w.bu with bEff := effectiveBudget w.toState.conf w.bu.offers w.bu.seen } := by
  unfold Work.formBudget
  dsimp only
  split
  · simp [Work.budgetFall_bu]
  · split
    · simp [Work.budgetRise_bu]
    · rw [show effectiveBudget w.toState.conf w.bu.offers w.bu.seen = w.bu.bEff by omega]

theorem State.rebudgeted_congr {s t : State} (hc : t.conf = s.conf) (hb : t.bu.bEff = s.bu.bEff) (hm : t.map = s.map)
    (b q : Nat) : t.rebudgeted b q = s.rebudgeted b q := by
  unfold State.rebudgeted State.entry
  rw [hc, hb, hm]

theorem State.rebudgeted_same (s : State) (q : Nat) : s.rebudgeted s.bu.bEff q = s.entry q := by
  simp [State.rebudgeted]

theorem State.rebudgeted_fall {s : State} {b : Nat} (h : b < s.bu.bEff) (q : Nat) :
    s.rebudgeted b q = fallEntry b s.conf.bCfg q (s.entry q) := by
  unfold State.rebudgeted fallEntry
  by_cases hq : b ≤ q ∧ q < s.conf.bCfg
  · exact (if_pos ⟨hq.1, hq.2, h⟩).trans (if_pos hq).symm
  · rw [if_neg (fun k => hq ⟨k.1, k.2.1⟩), if_neg (fun k => by omega), if_neg hq]

theorem State.rebudgeted_rise {s : State} {b : Nat} (h : s.bu.bEff < b) (q : Nat) :
    s.rebudgeted b q = if s.entry q = .withdrawn ∧ q < b then .free else s.entry q := by
  unfold State.rebudgeted
  rw [if_neg (fun k => by omega)]
  by_cases hq : s.entry q = .withdrawn <;> simp [h, hq]

/-- Once B_eff is formed the entries have followed it, by R9 on a fall and R11 on a rise. -/
theorem Work.entry_formBudget (w : Work) {q : Nat} (hq : q < w.map.length) :
    w.formBudget.toState.entry q = w.toState.rebudgeted w.formBudget.bu.bEff q := by
  rw [Work.formBudget_bu]
  dsimp only
  unfold Work.formBudget
  generalize effectiveBudget w.toState.conf w.bu.offers w.bu.seen = b
  dsimp only
  split
  · rename_i hb
    rw [State.rebudgeted_fall hb, State.entry, (Work.handBudget_keeps _).2.2.2.2.2.2.1, Work.map_budgetFall]
    exact (w.entry_fallMap b q).trans (if_pos hq)
  · split
    · rename_i hb
      rw [State.rebudgeted_rise hb, State.entry, (Work.handBudget_keeps _).2.2.2.2.2.2.1]
      refine (w.entry_budgetRise b q).trans ?_
      simp [hq]
    · rw [show b = w.bu.bEff by omega, State.rebudgeted_same]

theorem Work.formBudget_addsNo {w : Work} : w.lc.addsNo .yieldReq w.formBudget.lc := by
  unfold Work.formBudget
  dsimp only
  split
  · rw [(Work.handBudget_keeps _).2.2.2.2.1, Work.budgetFall_eq]
    refine Work.enqueue_addsNo ?_ (by simp [kindOf])
    rw [foldl_keeps (fun w : Work => w.lc) _ (fun a b => by simp) _ _, Work.fallMap_lc]
  · split
    · simp only [Work.handBudget_keeps, Work.budgetRise_keeps]
      exact fun _ hx _ => hx
    · exact fun _ hx _ => hx

theorem Work.formBudget_calm {w : Work} (h : w.toState.calm) : w.formBudget.toState.calm := by
  have hs : w.formBudget.toState.sessionEnding = w.toState.sessionEnding := by
    unfold Work.formBudget
    dsimp only
    split
    · unfold Work.handBudget
      rw [Work.hand_sessionEnding]
      simp [State.sessionEnding, State.sessState]
    · split
      · unfold Work.handBudget
        rw [Work.hand_sessionEnding]
        simp [State.sessionEnding, State.sessState]
      · rfl
  exact State.calm_congr (by simp) (by simp) hs h

/-! ## The expiry of an offer -/

/-- The end of a calm step in which B_eff has been formed again: the budget, the map and the requests queued. -/
theorem Work.finish_formBudget {w : Work} (h : w.toState.calm) (hc : w.conflictLost = []) :
    w.formBudget.finish.bu =
      { w.bu with bEff := effectiveBudget w.toState.conf w.bu.offers w.bu.seen } ∧
    (∀ q, q < w.map.length →
      w.formBudget.finish.entry q = w.toState.rebudgeted w.formBudget.finish.bu.bEff q) ∧
    (w.formBudget.finish.bu.bEff < w.before.bu.bEff → w.lc.addsNo .yieldReq w.formBudget.finish.lc) := by
  obtain ⟨-, hbu, hmap, -, -, -, hlc, -, -⟩ :=
    Work.finish_calm (Work.formBudget_calm h) (w := w.formBudget) (by simp [hc])
  refine ⟨hbu.trans w.formBudget_bu, fun q hq => ?_, fun hf => ?_⟩
  · rw [State.entry, hmap, hbu]
    exact w.entry_formBudget hq
  · rw [hlc]
    exact Link.addsNo_trans Work.formBudget_addsNo (Work.holdingsProgress_addsNo (by simpa [hbu] using hf))

theorem Link.atTime_frames (s : State) (t : Nat) :
    (s.atTime t).lc.queue = s.lc.queue ∧ (s.atTime t).lc.waiting = s.lc.waiting := by
  unfold State.atTime State.advance
  rw [pass_eq]
  exact ⟨rfl, rfl⟩

theorem calm_atTime {s : State} (h : s.calm) (t : Nat) : (s.atTime t).calm := by
  have hs : (s.atTime t).sessionEnding = s.sessionEnding := by
    rw [Bool.eq_iff_iff, sessionEnding_iff, sessionEnding_iff]
    unfold State.atTime
    rw [advance_session]
    cases s.ss.session <;> simp
  exact State.calm_congr (by simp) (by simp) hs h

/-- A state that keeps these blocks of another differs from it in the others only. -/
theorem State.eq_of_blocks {a t : State} (hnow : t.now = a.now) (hio : t.io = a.io) (hcpi : t.cpi = a.cpi)
    (hmc : t.mc = a.mc) (hptu : t.ptu = a.ptu) (hae : t.ae = a.ae) (hpend : t.pending = a.pending) :
    t = { a with map := t.map, bu := t.bu, lc := t.lc, hc := t.hc, ci := t.ci, ss := t.ss, bk := t.bk } := by
  rw [← hnow, ← hio, ← hcpi, ← hmc, ← hptu, ← hae, ← hpend]

/-- Settles O39: the offers of the source leave the list, and B_eff and the map are formed from those that remain. -/
theorem offerExpiryRemovesTheOffer : Obligations.OfferExpiryRemovesTheOffer := by
  intro src o a s ho hcalm hlen ha
  have hexec : exec (.offerExpiry src) s = .next (a.begin.removeOffer src.toNat).finish := by
    subst ha
    simp only [exec, execOfferExpiry, State.offerOf, ho, goOn_eq]
  refine ⟨_, hexec, ?_⟩
  have hkeep := atTime_keeps s (s.bk.startAt + o.expiry)
  have hcalm' := calm_atTime hcalm (s.bk.startAt + o.expiry)
  have hframes := Link.atTime_frames s (s.bk.startAt + o.expiry)
  rw [← ha] at hkeep hcalm' hframes
  clear ha hexec
  let w : Work := { a.begin with bu := { a.bu with offers := a.bu.offers.filter fun o => o.source ≠ src.toNat } }
  have hw : a.begin.removeOffer src.toNat = w.formBudget := rfl
  obtain ⟨hbu, hentry, hreq⟩ := Work.finish_formBudget (w := w) hcalm' rfl
  obtain ⟨hmc, -, -, hptu, hae, -, -, -, -⟩ :=
    Work.finish_calm (Work.formBudget_calm (w := w) hcalm') (by simp [w])
  have hout := finish_outer w.formBudget
  have hformed := finish_formed w.formBudget
  rw [hw]
  generalize w.formBudget.finish = t at *
  simp only [Work.formBudget_keeps] at hmc hptu hae hout
  obtain ⟨aio, acpi, amc, abu, amap, aptu, aae, ahc, aci, abk, apend, anow⟩ := hkeep
  obtain ⟨hnow, hio, hcpi, hpend⟩ := hout
  have hconf : a.conf = s.conf := by simp [State.conf, acpi]
  refine ⟨hnow, ?_, ?_, ?_, fun q hq => ?_, fun hf x hx hk => ?_, ?_, hformed⟩
  · rw [hbu]
    simp [w, abu]
  · rw [hbu]
    simp [w, abu]
  · rw [hbu, ← hconf, ← abu]
    exact effectiveBudget_eq _ _ _
  · rw [hentry q (by simpa [w, amap, hlen] using hq)]
    exact State.rebudgeted_congr hconf (congrArg Budget.bEff abu) amap _ _
  · have := hreq (by simpa [w, abu] using hf) x hx hk
    simpa [w, hframes] using this
  · exact State.eq_of_blocks hnow hio hcpi hmc hptu hae hpend

end Sys2Proof.Machine
end

section
/-! SUPPORT. A frame heard from another station: what hearing it does before the frame is applied, and BUDGET. -/

namespace Sys2Proof.Machine

/-! ## Hearing -/

/-- The working state once the PTU has taken a frame from station `u` and the mode has returned from ISOLATED (R44, R157). -/
def State.hearing (s : State) (u : Nat) (f : Frame) : Work :=
  let w := ({ s.begin with lc := s.lc.validFrame } : Work).hearPeer u f
  if w.mc.mode = .isolated then w.setMode .active else w

theorem Work.hearValid_takes {w v : Work} {k : FrameKind} {u : Nat} {f : Frame} (hv : v = { w with lc := w.lc.validFrame })
    (ht : v.toState.takesFrames = true) (ho : u ≠ v.toState.own) (hn : u < v.toState.conf.nSt) :
    w.hearValid k u f = v.takeFrame u f := by
  subst hv
  unfold Work.hearValid
  dsimp only at *
  rw [if_neg (by simp [ht]), if_neg ho, if_neg (Nat.not_le.2 hn)]

/-- A frame heard from another station below N_st is applied to the working state of its hearing. -/
theorem heard_applies {s : State} {k : FrameKind} {u : BitVec 5} {p : List Byte} {f : Frame} {x : Peer}
    (h : s.hears u.toNat x) (hp : parsePayload k p = some f) :
    s.heard k u p = ((s.hearing u.toNat f).applyFrame u.toNat f).finish := by
  obtain ⟨htakes, hlt, hown, -⟩ := h
  have hstarted : s.started = true := by
    unfold State.takesFrames at htakes
    exact (Bool.and_eq_true _ _ ▸ htakes : _ ∧ _).1
  unfold State.heard
  rw [if_neg (by simp [hstarted]), hp]
  dsimp only
  rw [Work.hearValid_takes rfl htakes hown hlt]
  rfl

/-- The frame neither announces its sender's state nor ends its presence: of the entry only the time of hearing changes, and
Silent or Expelled becomes Live (R44, R47). -/
def plainFrame (f : Frame) : Bool :=
  match f with
  | .leave => false
  | .report _ _ _ _ _ _ _ _ _ => false
  | .join _ _ _ => false
  | _ => true

/-- The entry of the sender after a plain frame. -/
def Peer.heardPlain (x : Peer) (now : Nat) : Peer :=
  { x with heardAt := some now, state := if x.state = .silent ∨ x.state = .expelled then .live else x.state }

theorem Peer.hear_plain {f : Frame} (hf : plainFrame f = true) (x : Peer) (now : Nat) (ok : Bool) :
    x.hear now ok f = x.heardPlain now := by
  have hstate : (match x.state with
      | .silent => { x with heardAt := some now, state := .live }
      | .expelled => { x with heardAt := some now, state := .live }
      | _ => { x with heardAt := some now } : Peer) = x.heardPlain now := by
    unfold Peer.heardPlain
    cases x.state <;> simp
  cases f with
  | leave => cases hf
  | report => cases hf
  | join => cases hf
  | _ => exact hstate

theorem announces_plain {f : Frame} (hf : plainFrame f = true) : announces f = false := by
  cases f with
  | leave => cases hf
  | report => cases hf
  | join => cases hf
  | _ => rfl

theorem Work.hearPeer_plain {w : Work} {u : Nat} {f : Frame} {x : Peer} (hf : plainFrame f = true)
    (hx : w.ptu.entries[u]? = some x) :
    (w.hearPeer u f).ptu = { w.ptu with entries := w.ptu.entries.set u (x.heardPlain w.now), lineHeard := some w.now } ∧
    (w.hearPeer u f).mc = { w.mc with solo := false } ∧
    (w.hearPeer u f).toState.sessionEnding = w.toState.sessionEnding ∧
    (w.hearPeer u f).sysNotices = w.sysNotices := by
  unfold Work.hearPeer
  rw [hx]
  dsimp only
  rw [Peer.hear_plain hf, announces_plain hf]
  split
  · exact ⟨rfl, rfl, rfl, rfl⟩
  · unfold Work.handPeer
    rw [Work.hand_sessionEnding]
    simp [State.sessionEnding, State.sessState]

/-- `w` is the working state of a step in which a plain frame of station `u`, with entry `x`, has been heard, before the frame
is applied. -/
structure State.Hearing (s : State) (u : Nat) (x : Peer) (w : Work) : Prop where
  outer : w.now = s.now ∧ w.io = s.io ∧ w.cpi = s.cpi ∧ w.pending = s.pending
  map : w.map = s.map
  bu : w.bu = s.bu
  ae : w.ae = s.ae
  ci : w.ci = s.ci
  hc : w.hc = { s.hc with needOpen := w.hc.needOpen }
  ptu : w.ptu = { s.ptu with entries := s.ptu.entries.set u (x.heardPlain s.now), lineHeard := some s.now }
  mc : w.mc = { s.mc with
    solo := false, mode := if s.mc.mode = .isolated then .active else s.mc.mode
    echoSince := w.mc.echoSince, errSince := w.mc.errSince }
  lc : w.lc = { s.lc with
    tx := if s.mc.mode = .isolated then .on else s.lc.tx, rxRun := 0, rateSuspect := false, quietUs := 0, heldUs := 0 }
  ending : w.toState.sessionEnding = s.sessionEnding
  startAt : w.bk.startAt = s.bk.startAt
  before : w.before = s
  conflictLost : w.conflictLost = []

theorem Work.setMode_sessionEnding (w : Work) (m : Mode) :
    (w.setMode m).toState.sessionEnding = w.toState.sessionEnding := by
  unfold Work.setMode Work.handMode
  rw [Work.hand_sessionEnding]
  rfl

theorem Work.hearPeer_startAt (w : Work) (u : Nat) (f : Frame) : (w.hearPeer u f).bk.startAt = w.bk.startAt := by
  unfold Work.hearPeer
  split
  · rfl
  · have hn : ∀ (b : Bool) (v : Work), (if b then v.notice .configMismatch u else v).bk.startAt = v.bk.startAt := fun b v => by
      cases b <;> rfl
    dsimp only
    split
    · rw [hn]
    · unfold Work.handPeer
      rw [Work.hand_startAt, hn]

theorem hearing_spec {s : State} {u : Nat} {f : Frame} {x : Peer} (hf : plainFrame f = true)
    (hx : s.ptu.entries[u]? = some x) : s.Hearing u x (s.hearing u f) := by
  obtain ⟨hptu, hmc, hend, -⟩ := Work.hearPeer_plain (w := { s.begin with lc := s.lc.validFrame }) hf hx
  have hkeep := Work.hearPeer_keeps { s.begin with lc := s.lc.validFrame } u f
  have hstart := Work.hearPeer_startAt { s.begin with lc := s.lc.validFrame } u f
  unfold State.hearing
  dsimp only
  generalize Work.hearPeer { s.begin with lc := s.lc.validFrame } u f = w at *
  obtain ⟨hnow, hio, hcpi, hlc, hbu, hmap, hae, hhc, hci, hpend, hbefore, -, hlost, -, -⟩ := hkeep
  have hmode : w.mc.mode = s.mc.mode := by rw [hmc]; rfl
  split
  · rename_i hiso
    have hsm : s.mc.mode = .isolated := hmode ▸ hiso
    refine ⟨by simp [hnow, hio, hcpi, hpend], by simp [hmap], by simp [hbu], by simp [hae], by simp [hci], ?_, by simp [hptu], ?_,
      ?_, ?_, ?_, by simp [hbefore], by simp [hlost]⟩
    · rw [Work.setMode_hc, hhc]
      rfl
    · rw [Work.setMode_mc, hmc]
      simp [hsm]
    · rw [Work.setMode_lc, hlc]
      simp [hsm, Link.validFrame, txOf]
    · rw [Work.setMode_sessionEnding, hend]
      rfl
    · rw [Work.setMode_startAt, hstart]
      rfl
  · rename_i hiso
    have hsm : s.mc.mode ≠ .isolated := hmode ▸ hiso
    refine ⟨⟨hnow, hio, hcpi, hpend⟩, hmap, hbu, hae, hci, by rw [hhc]; rfl, hptu, ?_, ?_, hend, hstart, hbefore, hlost⟩
    · rw [hmc, if_neg hsm]
      rfl
    · rw [hlc, if_neg hsm]
      rfl

section
variable {s : State} {u : Nat} {x : Peer} {w v : Work}

/-- What is applied to a heard frame's working state leaves these blocks as they are, but for the frames it queues. -/
def Work.appliesTo (w v : Work) : Prop :=
  (v.now = w.now ∧ v.io = w.io ∧ v.cpi = w.cpi ∧ v.pending = w.pending) ∧ v.mc = w.mc ∧ v.ptu = w.ptu ∧ v.ae = w.ae ∧
  v.ci = w.ci ∧ v.hc.stuck = w.hc.stuck ∧ w.lc.sameBut v.lc ∧ v.conflictLost = w.conflictLost ∧
  v.toState.sessionEnding = w.toState.sessionEnding

theorem State.Hearing.calm (h : s.Hearing u x w) (hv : w.appliesTo v) (hs : s.calm) : v.toState.calm := by
  obtain ⟨-, hmc, -, -, hci, -, -, -, hend⟩ := hv
  obtain ⟨hiso, hres, hse, hlost⟩ := hs
  refine ⟨?_, ?_, ?_, ?_⟩
  · rw [hmc, h.mc]
    exact hiso
  · rw [hmc, h.mc]
    exact hres
  · rw [hend, h.ending, hse]
  · rw [hci, h.ci]
    exact hlost

/-- A calm step in which a plain frame was heard and applied ends with the frame of a frame heard. -/
theorem State.Hearing.heardFrom (h : s.Hearing u x w) (hv : w.appliesTo v) (hs : s.calm) : s.heardFrom v.finish u := by
  have hcalm := h.calm hv hs
  obtain ⟨⟨hnow, hio, hcpi, hpend⟩, hmc, hptu, hae, hci, hstuck, hlc, hlost, -⟩ := hv
  have hcl : v.conflictLost = [] := hlost.trans h.conflictLost
  obtain ⟨fmc, -, -, fptu, fae, -, -, -, fci⟩ := Work.finish_calm hcalm hcl
  have fl := Link.sameBut_trans hlc (Work.finish_lc_sameBut hcalm hcl)
  obtain ⟨fnow, fio, fcpi, fpend⟩ := finish_outer v
  have hcause : v.toState.inhibitCause = s.inhibitCause := by
    have hw : w.hc.stuck = s.hc.stuck := by rw [h.hc]
    simp only [State.inhibitCause, hci, h.ci, hstuck, hw]
  have fformed := finish_formed v
  generalize v.finish = t at *
  obtain ⟨wnow, wio, wcpi, wpend⟩ := h.outer
  refine ⟨?_, ?_, ?_, ?_, ?_, ?_, fformed⟩
  · rw [← wnow, ← wio, ← wcpi, ← wpend, ← h.ae, ← hnow, ← hio, ← hcpi, ← hpend, ← hae, ← fnow, ← fio, ← fcpi, ← fpend, ← fae]
  · rw [fmc, hmc]
    exact h.mc
  · rw [fl, h.lc]
  · rw [fptu, hptu, h.ptu]
  · intro k _ hk
    rw [fptu, hptu, h.ptu]
    exact List.getElem?_set_ne (Ne.symm hk)
  · rw [fci, hci, h.ci, hcause]

/-- The entry of the sender after the step. -/
theorem State.Hearing.sender (h : s.Hearing u x w) (hv : w.appliesTo v) (hs : s.calm) (hx : s.ptu.entries[u]? = some x) :
    v.finish.ptu.entries[u]? = some (x.heardPlain s.now) := by
  have hcalm := h.calm hv hs
  obtain ⟨-, -, hptu, -, -, -, -, hlost, -⟩ := hv
  obtain ⟨-, -, -, fptu, -, -, -, -, -⟩ := Work.finish_calm hcalm (hlost.trans h.conflictLost)
  rw [fptu, hptu, h.ptu]
  have hlt : u < s.ptu.entries.length := (List.getElem?_eq_some_iff.1 hx).1
  simp [hlt]

end

end Sys2Proof.Machine
end

section
/-! SUPPORT. A BUDGET frame, heard or echoed: the table of R5, and what follows from a new offer. -/

namespace Sys2Proof.Machine

/-! ## The table of R5 -/

theorem newerSeq_iff (n o : Nat) :
    newerSeq n o = true ↔ 1 ≤ (n + 256 - o % 256) % 256 ∧ (n + 256 - o % 256) % 256 ≤ 127 := by
  simp [newerSeq]

theorem takeOffer_held {l : List Offer} {o old : Offer} (h : l.find? (fun x => x.source == o.source) = some old) :
    takeOffer l o = if newerSeq o.seq old.seq then some (l.map fun x => if x.source = o.source then o else x) else none := by
  unfold takeOffer
  rw [h]

theorem takeOffer_room {l : List Offer} {o : Offer} (h : l.find? (fun x => x.source == o.source) = none)
    (hl : l.length < 4) : takeOffer l o = some (l ++ [o]) := by
  unfold takeOffer
  rw [h]
  exact if_pos hl

theorem takeOffer_full {l : List Offer} {o : Offer} (h : l.find? (fun x => x.source == o.source) = none)
    (hl : l.length = 4) : takeOffer l o = match highestOffer l with
      | some p => if o.value < p.value then some (l.map fun x => if x.source = p.source then o else x) else none
      | none => none := by
  unfold takeOffer
  rw [h]
  exact if_neg (by simp [Config.offerPlaces, hl])

/-- The offer a full list gives up has the highest value, and among those the lowest source. -/
theorem highestOffer_spec {l : List Offer} {p : Offer} (h : highestOffer l = some p) :
    ∀ y ∈ l, y.value < p.value ∨ (y.value = p.value ∧ p.source ≤ y.source) := by
  induction l generalizing p with
  | nil => cases h
  | cons x l ih =>
    intro y hy
    unfold highestOffer at h
    split at h
    · rename_i hn
      cases h
      have hl : l = [] := by
        cases l with
        | nil => rfl
        | cons z l =>
          unfold highestOffer at hn
          split at hn
          · cases hn
          · split at hn <;> cases hn
      subst hl
      rw [List.mem_singleton.1 hy]
      exact .inr ⟨rfl, Nat.le_refl _⟩
    · rename_i r hr
      have htail := ih hr
      split at h <;> cases h <;> rcases List.mem_cons.1 hy with rfl | hy
      · exact .inr ⟨rfl, Nat.le_refl _⟩
      · have := htail y hy
        omega
      · omega
      · exact htail y hy

theorem highestOffer_isSome {l : List Offer} (h : l ≠ []) : ∃ p, highestOffer l = some p := by
  cases l with
  | nil => exact absurd rfl h
  | cons x l =>
    unfold highestOffer
    split
    · exact ⟨_, rfl⟩
    · split <;> exact ⟨_, rfl⟩

/-- An offer that is taken leaves a list that is not empty. -/
theorem takeOffer_ne_nil {l m : List Offer} {o : Offer} (h : takeOffer l o = some m) : m ≠ [] := by
  unfold takeOffer at h
  split at h
  · rename_i old hold
    split at h <;> cases h
    have hne : l ≠ [] := fun hl => by simp [hl] at hold
    simpa using hne
  · split at h
    · cases h
      simp
    · split at h
      · rename_i p hp
        have hne : l ≠ [] := fun hl => by simp [hl, highestOffer] at hp
        split at h <;> cases h
        simpa using hne
      · cases h

/-- `b'` follows from `b` when offer `o` is heard, under the B_cfg of the station (the table of R5, R7). -/
def Budget.hears (b : Budget) (o : Offer) (bCfg : Nat) (b' : Budget) : Prop :=
  (∀ old ∈ b.offers.find? (fun y : Offer => y.source == o.source),
    (1 ≤ (o.seq + 256 - old.seq % 256) % 256 ∧ (o.seq + 256 - old.seq % 256) % 256 ≤ 127 →
      b'.offers = b.offers.map fun y => if y.source = o.source then o else y) ∧
    (¬(1 ≤ (o.seq + 256 - old.seq % 256) % 256 ∧ (o.seq + 256 - old.seq % 256) % 256 ≤ 127) → b' = b)) ∧
  (b.offers.find? (fun y : Offer => y.source == o.source) = none →
    (b.offers.length < 4 → b'.offers = b.offers ++ [o]) ∧
    (b.offers.length = 4 → (∀ y ∈ b.offers, y.value ≤ o.value) → b' = b) ∧
    (b.offers.length = 4 → ∀ h ∈ b.offers, o.value < h.value →
      (∀ y ∈ b.offers, y.value < h.value ∨ (y.value = h.value ∧ h.source ≤ y.source)) →
      b'.offers = b.offers.map fun y => if y.source = h.source then o else y)) ∧
  (b'.offers ≠ b.offers → b'.seen = true ∧ b'.bEff = (b'.offers.map Offer.value).foldl min bCfg) ∧
  b'.ownSeq = b.ownSeq

/-- An offer the table of R5 ignores leaves the budget as it is; one it takes gives its list, and B_eff is formed from it. -/
theorem Budget.hears_of {b b' : Budget} {o : Offer} {c : Cfg}
    (hignored : takeOffer b.offers o = none → b' = b)
    (htaken : ∀ l, takeOffer b.offers o = some l →
      b' = { b with offers := l, seen := true, bEff := effectiveBudget c l true }) : b.hears o c.bCfg b' := by
  refine ⟨fun old hold => ?_, fun hnone => ⟨fun hl => ?_, fun hl hle => ?_, fun hl p hp hlt hmax => ?_⟩, fun hne => ?_, ?_⟩
  · have ht := takeOffer_held (o := o) hold
    rw [← newerSeq_iff]
    refine ⟨fun hnew => ?_, fun hold => ?_⟩
    · rw [if_pos hnew] at ht
      rw [htaken _ ht]
    · rw [if_neg hold] at ht
      exact hignored ht
  · rw [htaken _ (takeOffer_room hnone hl)]
  · refine hignored ?_
    have ht := takeOffer_full hnone hl
    cases hh : highestOffer b.offers with
    | none => rwa [hh] at ht
    | some p =>
      rw [hh] at ht
      exact ht.trans (if_neg (Nat.not_lt.2 (hle p (highestOffer_mem _ _ hh))))
  · obtain ⟨r, hr⟩ := highestOffer_isSome (List.ne_nil_of_mem hp)
    have hrp := highestOffer_spec hr p hp
    have hpr := hmax r (highestOffer_mem _ _ hr)
    have hsame : r.value = p.value ∧ r.source = p.source := by omega
    have ht := takeOffer_full hnone hl
    rw [hr] at ht
    rw [htaken _ (ht.trans (if_pos (hsame.1 ▸ hlt))), hsame.2]
  · cases ht : takeOffer b.offers o with
    | none => exact absurd (congrArg Budget.offers (hignored ht)) hne
    | some l =>
      rw [htaken l ht]
      exact ⟨rfl, (effectiveBudget_eq _ _ _).trans (if_neg (takeOffer_ne_nil ht))⟩
  · cases ht : takeOffer b.offers o with
    | none => rw [hignored ht]
    | some l => rw [htaken l ht]

/-! ## A new offer -/

/-- The offer of a BUDGET frame from station `u` (R5). -/
def Work.offerHeard (w : Work) (u value seq hold : Nat) : Offer :=
  { source := u, value := clamp 0 w.toState.conf.bCfg value, seq := seq
    expiry := w.toState.sinceStart + clamp 1 60 hold * 1000 }

/-- The working state with a new offer list, before B_eff is formed from it. -/
def Work.withOffers (w : Work) (l : List Offer) : Work := { w with bu := { w.bu with offers := l, seen := true } }

section
variable {w : Work} {u value seq hold : Nat}

theorem Work.hearBudget_ignored (h : takeOffer w.bu.offers (w.offerHeard u value seq hold) = none) :
    w.hearBudget u u value seq hold = w := by
  unfold Work.hearBudget
  dsimp only
  split
  · rfl
  · split
    · rename_i hl
      cases h.symm.trans hl
    · rfl

theorem Work.hearBudget_taken {l : List Offer} (hu : u < w.toState.conf.nSt) (hm : w.toState.peerIs u .mismatched = false)
    (h : takeOffer w.bu.offers (w.offerHeard u value seq hold) = some l) :
    w.hearBudget u u value seq hold = (w.withOffers l).formBudget := by
  unfold Work.hearBudget
  dsimp only
  rw [if_neg (by simp [hm]; omega)]
  split
  · rename_i hl
    cases h.symm.trans hl
    rfl
  · rename_i hl
    cases h.symm.trans hl

/-- A BUDGET with another station as source, or from a Mismatched one, is not taken. -/
theorem Work.hearBudget_refused {src : Nat} (h : src ≠ u ∨ w.toState.peerIs src .mismatched = true) :
    w.hearBudget u src value seq hold = w := by
  unfold Work.hearBudget
  dsimp only
  rw [if_pos (by tauto)]

/-- The end of a calm step in which a BUDGET was heard or echoed: the budget, the map and the requests queued. -/
theorem Work.finish_hearBudget (hcalm : w.toState.calm) (hc : w.conflictLost = []) (hb : w.before.bu = w.bu)
    (hu : u < w.toState.conf.nSt) (hm : w.toState.peerIs u .mismatched = false) {t : State}
    (ht : t = (w.hearBudget u u value seq hold).finish) :
    w.bu.hears (w.offerHeard u value seq hold) w.toState.conf.bCfg t.bu ∧
    (∀ q, q < w.map.length → t.entry q = w.toState.rebudgeted t.bu.bEff q) ∧
    (t.bu.bEff < w.bu.bEff → w.lc.addsNo .yieldReq t.lc) := by
  cases hl : takeOffer w.bu.offers (w.offerHeard u value seq hold) with
  | none =>
    rw [Work.hearBudget_ignored hl] at ht
    obtain ⟨-, hbu, hmap, -, -, -, -, -, -⟩ := Work.finish_calm hcalm hc
    rw [← ht] at hbu hmap
    refine ⟨Budget.hears_of (fun _ => hbu) (fun l h => by rw [hl] at h; cases h), fun q _ => ?_, fun hf => ?_⟩
    · rw [hbu, State.rebudgeted_same, State.entry, hmap]
      rfl
    · rw [hbu] at hf
      exact absurd hf (Nat.lt_irrefl _)
  | some l =>
    rw [Work.hearBudget_taken hu hm hl] at ht
    obtain ⟨hbu, hentry, hreq⟩ := Work.finish_formBudget (w := w.withOffers l) hcalm hc
    rw [← ht] at hbu hentry hreq
    refine ⟨Budget.hears_of (c := w.toState.conf) (fun h => by rw [hl] at h; cases h) (fun m h => ?_), fun q hq => ?_, fun hf => ?_⟩
    · rw [hl] at h
      cases h
      exact hbu
    · exact hentry q hq
    · exact hreq (by rw [show (w.withOffers l).before = w.before from rfl, hb]; exact hf)

theorem Work.leaveClaim_stuck (w : Work) (q : Nat) : (w.leaveClaim q).hc.stuck = w.hc.stuck := by
  unfold Work.leaveClaim
  split
  · split
    · split <;> rfl
    · rfl
  · rfl

theorem Work.budgetFall_appliesTo (w : Work) (b : Nat) : w.appliesTo (w.budgetFall b) := by
  have hlc : w.lc.sameBut (w.budgetFall b).lc := by
    rw [Work.budgetFall_eq]
    refine Link.sameBut_trans ?_ (Work.enqueue_sameBut _ _)
    rw [foldl_keeps (fun w : Work => w.lc) _ (fun a b => by simp) _ _, Work.fallMap_lc]
    exact Link.sameBut_refl _
  have hstuck : (w.budgetFall b).hc.stuck = w.hc.stuck := by
    rw [Work.budgetFall_eq]
    simp only [Work.enqueue_keeps]
    rw [foldl_keeps (fun w : Work => w.hc.stuck) _ (fun a b => a.leaveClaim_stuck b) _ _]
    rfl
  refine ⟨by simp, by simp, by simp, by simp, by simp, hstuck, hlc, by simp, ?_⟩
  simp [State.sessionEnding, State.sessState]

theorem Work.formBudget_appliesTo (w : Work) : w.appliesTo w.formBudget := by
  have hand : ∀ v : Work, w.appliesTo v → w.appliesTo v.handBudget := fun v hv => by
    obtain ⟨ho, hmc, hptu, hae, hci, hst, hl, hc, he⟩ := hv
    refine ⟨by simpa using ho, by simpa using hmc, by simpa using hptu, by simpa using hae, by simpa using hci, by simpa using hst,
      by simpa using hl, by simpa using hc, ?_⟩
    unfold Work.handBudget
    rw [Work.hand_sessionEnding, he]
  unfold Work.formBudget
  dsimp only
  split
  · exact hand _ (w.budgetFall_appliesTo _)
  · split
    · exact hand _ ⟨⟨rfl, rfl, rfl, rfl⟩, rfl, rfl, rfl, rfl, rfl, rfl, rfl, rfl⟩
    · exact ⟨⟨rfl, rfl, rfl, rfl⟩, rfl, rfl, rfl, rfl, rfl, rfl, rfl, rfl⟩

theorem Work.hearBudget_appliesTo (src : Nat) : w.appliesTo (w.hearBudget u src value seq hold) := by
  unfold Work.hearBudget
  dsimp only
  split
  · exact ⟨⟨rfl, rfl, rfl, rfl⟩, rfl, rfl, rfl, rfl, rfl, rfl, rfl, rfl⟩
  · split
    · rename_i l _
      exact (w.withOffers l).formBudget_appliesTo
    · exact ⟨⟨rfl, rfl, rfl, rfl⟩, rfl, rfl, rfl, rfl, rfl, rfl, rfl, rfl⟩

end

/-! ## A BUDGET heard -/

theorem exec_budget {s : State} {u : BitVec 5} {src value seq hold : Byte} {x : Peer} (h : s.hears u.toNat x) :
    exec (.budget u [src, value, seq, hold]) s =
      .next (((s.hearing u.toNat (.budget src.toNat value.toNat seq.toNat hold.toNat)).hearBudget u.toNat src.toNat
        value.toNat seq.toNat hold.toNat).finish) := by
  have hp : parsePayload .budget [src, value, seq, hold] =
      some (.budget src.toNat value.toNat seq.toNat hold.toNat) := rfl
  have := heard_applies h hp
  simp only [exec, execBudget, goOn_eq, this]
  rfl

/-- The sender of a plain frame is still Mismatched, or still not. -/
theorem State.Hearing.mismatched {s : State} {u : Nat} {x : Peer} {w : Work} (h : s.Hearing u x w)
    (hx : s.ptu.entries[u]? = some x) : w.toState.peerIs u .mismatched = decide (x.state = .mismatched) := by
  have hlt : u < s.ptu.entries.length := (List.getElem?_eq_some_iff.1 hx).1
  have hstate : (x.heardPlain s.now).state = .mismatched ↔ x.state = .mismatched := by
    unfold Peer.heardPlain
    cases x.state <;> simp
  rw [Bool.eq_iff_iff]
  simp [State.peerIs, State.peerState, h.ptu, hlt, hstate]

/-- Settles O29: the offer is taken by the table of R5, and where it is, B_eff and the map are formed from the new list. -/
theorem budgetHeardTakesTheOffer : Obligations.BudgetHeardTakesTheOffer := by
  refine ⟨fun u value seq hold x o s hh hcalm hx hshape ho => ⟨_, exec_budget hh, ?_⟩,
    fun u src value seq hold x s hh hcalm hx => ⟨_, exec_budget hh, ?_⟩⟩
  · have hsrc : (BitVec.ofNat 8 u.toNat).toNat = u.toNat := by
      have := u.isLt
      simp only [BitVec.toNat_ofNat]
      omega
    rw [hsrc]
    obtain ⟨-, hlt, -, hux⟩ := hh
    have hw := hearing_spec (f := .budget u.toNat value.toNat seq.toNat hold.toNat) rfl hux
    generalize s.hearing u.toNat (.budget u.toNat value.toNat seq.toNat hold.toNat) = w at hw ⊢
    have happ := w.hearBudget_appliesTo (u := u.toNat) (value := value.toNat) (seq := seq.toNat) (hold := hold.toNat) u.toNat
    have hconf : w.toState.conf = s.conf := by simp only [State.conf, hw.outer.2.2.1]
    have hoffer : w.offerHeard u.toNat value.toNat seq.toNat hold.toNat = o := by
      rw [ho]
      simp [Work.offerHeard, clamp, hconf, State.sinceStart, hw.outer.1, hw.startAt]
    have hkeep : w.appliesTo w := ⟨⟨rfl, rfl, rfl, rfl⟩, rfl, rfl, rfl, rfl, rfl, rfl, rfl, rfl⟩
    obtain ⟨hbu, hentry, hreq⟩ := Work.finish_hearBudget (u := u.toNat) (value := value.toNat) (seq := seq.toNat)
      (hold := hold.toNat) (hw.calm hkeep hcalm) hw.conflictLost (by rw [hw.before, hw.bu]) (hconf ▸ hlt)
      (by simpa [hx] using hw.mismatched hux) rfl
    have hfrom := hw.heardFrom happ hcalm
    have hsender := hw.sender happ hcalm hux
    generalize (w.hearBudget u.toNat u.toNat value.toNat seq.toNat hold.toNat).finish = t at *
    rw [hoffer, hw.bu, hconf] at hbu
    obtain ⟨htable, hnone, hformed, hseq⟩ := hbu
    refine ⟨htable, hnone, hformed, hseq, fun q hq => ?_, fun hf y hy hk => ?_, hsender, hfrom⟩
    · rw [hentry q (by rw [hw.map, hshape.1]; exact hq), State.rebudgeted_congr hconf (by rw [hw.bu]) hw.map]
    · have := hreq (by rwa [hw.bu]) y hy hk
      simpa [hw.lc] using this
  · have hw := hearing_spec (f := .budget src.toNat value.toNat seq.toNat hold.toNat) rfl hh.2.2.2
    generalize s.hearing u.toNat (.budget src.toNat value.toNat seq.toNat hold.toNat) = w at hw ⊢
    have hsame : w.hearBudget u.toNat src.toNat value.toNat seq.toNat hold.toNat = w := by
      by_cases hsrc : src.toNat = u.toNat
      · refine Work.hearBudget_refused (.inr ?_)
        rw [hsrc, hw.mismatched hh.2.2.2]
        simpa [hsrc] using hx
      · exact Work.hearBudget_refused (.inl hsrc)
    have happ := w.hearBudget_appliesTo (u := u.toNat) (value := value.toNat) (seq := seq.toNat) (hold := hold.toNat) src.toNat
    rw [hsame] at happ ⊢
    obtain ⟨-, hbu, hmap, -, -, -, -, -, -⟩ := Work.finish_calm (hw.calm happ hcalm) hw.conflictLost
    exact ⟨hmap.trans hw.map, hbu.trans hw.bu, hw.heardFrom happ hcalm⟩

end Sys2Proof.Machine
end

section
/-! SUPPORT. A RELEASE heard, entry by entry. -/

namespace Sys2Proof.Machine

/-! ## One quantum -/

/-- The entry of an arriving quantum, by the reason of R27 and R136. -/
def arrivedEntry : Option DrainReason → QEntry
  | none => .mine
  | some r => .draining r none

theorem Work.entry_takeMine (w : Work) {q : Nat} (r : Option DrainReason) (hq : q < w.map.length) :
    (w.takeMine q r).toState.entry q = arrivedEntry r := by
  have hm : (w.setEntry q .mine).toState.entry q = .mine := by rw [Work.entry_setEntry, if_pos ⟨rfl, hq⟩]
  cases r with
  | none => exact hm
  | some r =>
    change ((w.setEntry q .mine).startDrain r none [q]).toState.entry q = _
    rw [Work.entry_startDrain, if_pos ⟨List.mem_singleton.2 rfl, hm⟩]
    rfl

theorem Work.entry_takeMine_ne (w : Work) {q k : Nat} (r : Option DrainReason) (hk : k ≠ q) :
    (w.takeMine q r).toState.entry k = w.toState.entry k := by
  have hm : (w.setEntry q .mine).toState.entry k = w.toState.entry k := by
    rw [Work.entry_setEntry, if_neg fun h => hk h.1]
  cases r with
  | none => exact hm
  | some r =>
    change ((w.setEntry q .mine).startDrain r none [q]).toState.entry k = _
    rw [Work.entry_startDrain, if_neg fun h => hk (List.mem_singleton.1 h.1), hm]

/-- What a quantum that its holder has released becomes, by the beneficiary that counts; `marked` says that it carried the
promise-to-me mark (R23, R25, R27). -/
def State.passed (s : State) (b : Option Nat) (q : Nat) (marked : Bool) : QEntry :=
  match b with
  | none => .free
  | some u => if u = s.own then arrivedEntry (s.arrivalReason q marked) else .held u false

/-- Quantum `q` after a RELEASE of it by station `u`, with beneficiary `b` (R10, R23, R25). -/
def State.released (s : State) (u : Nat) (b : Option Nat) (q : Nat) : QEntry :=
  match s.entry q with
  | .held t m => if t = u then (if q < s.bu.bEff then s.passed b q m else .withdrawn) else .held t m
  | .free => s.passed b q false
  | e => e

theorem State.released_held {s : State} {u q : Nat} {m : Bool} (h : s.entry q = .held u m) (b : Option Nat) :
    s.released u b q = if q < s.bu.bEff then s.passed b q m else .withdrawn := by
  unfold State.released
  rw [h]
  exact if_pos rfl

theorem State.released_free {s : State} {q : Nat} (h : s.entry q = .free) (u : Nat) (b : Option Nat) :
    s.released u b q = s.passed b q false := by
  unfold State.released
  rw [h]

theorem State.released_other {s : State} {u q : Nat} (hh : (s.entry q).heldBy u = false) (hf : s.entry q ≠ .free)
    (b : Option Nat) : s.released u b q = s.entry q := by
  unfold State.released
  cases he : s.entry q with
  | held t m =>
    rw [he] at hh
    exact if_neg (by simpa [QEntry.heldBy] using hh)
  | free => exact absurd he hf
  | withdrawn => rfl
  | pending => rfl
  | mine => rfl
  | draining r x => rfl

theorem QEntry.heldBy_iff (e : QEntry) (u : Nat) : e.heldBy u = true ↔ ∃ m, e = .held u m := by
  cases e <;> simp [QEntry.heldBy]

theorem Work.entry_releasedBy (w : Work) (u : Nat) (b : Option Nat) {q : Nat} (hq : q < w.map.length) :
    (w.releasedBy u b q).toState.entry q = w.toState.released u b q := by
  have hset : ∀ e, (w.setEntry q e).toState.entry q = e := fun e => by rw [Work.entry_setEntry, if_pos ⟨rfl, hq⟩]
  have hpass : ∀ m, (match (generalizing := false) b with
      | none => w.setEntry q .free
      | some t => if t = w.toState.own then (w.setEntry q .free).takeMine q (w.toState.arrivalReason q m)
                  else w.setEntry q (.held t false) : Work).toState.entry q = w.toState.passed b q m := fun m => by
    cases b with
    | none => exact hset _
    | some t =>
      unfold State.passed
      dsimp only
      split
      · exact Work.entry_takeMine _ _ (by simpa using hq)
      · exact hset _
  unfold Work.releasedBy State.released
  dsimp only
  cases he : w.toState.entry q with
  | held t m =>
    dsimp only
    split
    · split
      · exact hpass m
      · exact hset _
    · exact he
  | free =>
    dsimp only
    exact hpass false
  | withdrawn => exact he
  | pending => exact he
  | mine => exact he
  | draining r x => exact he

theorem Work.entry_releasedBy_ne (w : Work) (u : Nat) (b : Option Nat) {q k : Nat} (hk : k ≠ q) :
    (w.releasedBy u b q).toState.entry k = w.toState.entry k := by
  have hset : ∀ e, (w.setEntry q e).toState.entry k = w.toState.entry k := fun e => by
    rw [Work.entry_setEntry, if_neg fun h => hk h.1]
  unfold Work.releasedBy
  dsimp only
  (repeat' split) <;> first
    | rfl
    | exact hset _
    | rw [Work.entry_takeMine_ne _ _ hk, hset]

@[simp] theorem Work.takeMine_length (w : Work) (q : Nat) (r : Option DrainReason) :
    (w.takeMine q r).map.length = w.map.length := by
  cases r with
  | none => exact Work.setEntry_length _ _ _
  | some r => exact (Work.startDrain_length _ _ _ _).trans (Work.setEntry_length _ _ _)

theorem Work.releasedBy_length (w : Work) (u : Nat) (b : Option Nat) (q : Nat) :
    (w.releasedBy u b q).map.length = w.map.length := by
  unfold Work.releasedBy
  dsimp only
  (repeat' split) <;> simp

theorem Work.takeMine_stuck (w : Work) (q : Nat) (r : Option DrainReason) : (w.takeMine q r).hc.stuck = w.hc.stuck := by
  cases r <;> rfl

theorem Work.releasedBy_stuck (w : Work) (u : Nat) (b : Option Nat) (q : Nat) : (w.releasedBy u b q).hc.stuck = w.hc.stuck := by
  unfold Work.releasedBy
  dsimp only
  (repeat' split) <;> first
    | rfl
    | exact Work.takeMine_stuck _ _ _

/-! ## The whole RELEASE -/

/-- What R27 and R136 read of the state but for the held count. -/
def Work.arrivesAs (w v : Work) : Prop :=
  v.mc = w.mc ∧ v.ci = w.ci ∧ v.cpi = w.cpi ∧ v.bu = w.bu ∧ v.ss = w.ss ∧ v.ae = w.ae ∧ v.map.length = w.map.length

section
variable {w v : Work} (h : w.arrivesAs v)
include h

theorem Work.arrivesAs.own : v.toState.own = w.toState.own := by
  obtain ⟨-, -, hcpi, -⟩ := h
  simp only [State.own, hcpi]

theorem Work.arrivesAs.bEff : v.bu.bEff = w.bu.bEff := by
  obtain ⟨-, -, -, hbu, -⟩ := h
  rw [hbu]

theorem Work.arrivesAs.conv : v.ci.conv = w.ci.conv := by
  obtain ⟨-, hci, -⟩ := h
  rw [hci]

theorem Work.arrivesAs.sessionEnding : v.toState.sessionEnding = w.toState.sessionEnding := by
  obtain ⟨-, -, -, -, hss, -⟩ := h
  simp only [State.sessionEnding, State.sessState, hss]

end

/-- One entry after the quanta of a RELEASE, each listed once, have been taken in their order: a listed one is judged on a
state that differs from the first in the entries of those before it. -/
theorem Work.entry_foldl_releasedBy (u : Nat) (b : Option Nat) (qs : List Nat) (hnd : qs.Nodup) (w : Work) {q : Nat}
    (hq : q < w.map.length) :
    ∃ v : Work, w.arrivesAs v ∧ v.toState.entry q = w.toState.entry q ∧
      (qs.foldl (fun (w : Work) q => w.releasedBy u b q) w).toState.entry q =
        if q ∈ qs then v.toState.released u b q else w.toState.entry q := by
  induction qs generalizing w with
  | nil => exact ⟨w, ⟨rfl, rfl, rfl, rfl, rfl, rfl, rfl⟩, rfl, by simp⟩
  | cons k qs ih =>
    obtain ⟨hk, hnd⟩ := List.nodup_cons.1 hnd
    have hlen := w.releasedBy_length u b k
    obtain ⟨v, hv, hve, hfold⟩ := ih hnd (w.releasedBy u b k) (hlen ▸ hq)
    rw [List.foldl_cons, hfold]
    by_cases hqk : q = k
    · subst hqk
      rw [if_neg hk, Work.entry_releasedBy _ _ _ hq]
      exact ⟨w, ⟨rfl, rfl, rfl, rfl, rfl, rfl, rfl⟩, rfl, by simp⟩
    · rw [Work.entry_releasedBy_ne _ _ _ hqk] at hve ⊢
      unfold Work.arrivesAs at hv ⊢
      rw [hlen] at hv
      simp only [Work.releasedBy_keeps] at hv
      exact ⟨v, hv, hve, by simp [hqk]⟩

/-- One entry after a RELEASE is heard (R10, R16, R23, R25). -/
theorem Work.entry_hearRelease (w : Work) (u : Nat) (b : Option Nat) (qs : List Nat) {q : Nat} (hq : q < w.map.length) :
    ∃ v : Work, w.arrivesAs v ∧ v.toState.entry q = w.toState.entry q ∧
      (w.hearRelease u b qs).toState.entry q =
        if q < w.toState.conf.bCfg ∧ q ∈ qs then v.toState.released u (w.toState.keptBeneficiary u b) q
        else w.toState.entry q := by
  obtain ⟨v, hv, hve, hfold⟩ := Work.entry_foldl_releasedBy u (w.toState.keptBeneficiary u b) (w.toState.listedQuanta qs)
    (listedQuanta_nodup _ _) w hq
  refine ⟨v, hv, hve, hfold.trans ?_⟩
  simp [State.listedQuanta, and_comm]

theorem Work.hearRelease_appliesTo (w : Work) (u : Nat) (b : Option Nat) (qs : List Nat) :
    w.appliesTo (w.hearRelease u b qs) := by
  have hstuck : (w.hearRelease u b qs).hc.stuck = w.hc.stuck :=
    foldl_keeps (fun w : Work => w.hc.stuck) _ (fun a b => a.releasedBy_stuck _ _ b) _ _
  refine ⟨by simp, by simp, by simp, by simp, by simp, hstuck, ?_, by simp, ?_⟩
  · rw [(Work.hearRelease_keeps _ _ _ _).2.2.2.2.1]
    exact Link.sameBut_refl _
  · simp [State.sessionEnding, State.sessState]

/-! ## Arrivals -/

theorem State.settledReason_cases (s : State) (q : Nat) :
    s.settledReason q = none ∨ s.settledReason q = some .isolation ∨ s.settledReason q = some .shutdown := by
  unfold State.settledReason
  split
  · exact .inr (.inr rfl)
  · split
    · exact .inr (.inl rfl)
    · exact .inl rfl

theorem State.arrivalReason_cases (s : State) (q : Nat) (m : Bool) :
    s.arrivalReason q m = none ∨ s.arrivalReason q m = some .surplus ∨ s.arrivalReason q m = some .isolation ∨
      s.arrivalReason q m = some .shutdown := by
  unfold State.arrivalReason
  split
  · exact .inr (.inr (.inr rfl))
  · rcases s.settledReason_cases q with h | h | h <;> rw [h]
    · dsimp only
      split
      · exact .inr (.inl rfl)
      · exact .inl rfl
    · exact .inr (.inr (.inl rfl))
    · exact .inr (.inr (.inr rfl))

/-- While the converter is LOST an arrival drains with Shutdown in every mode (R136). -/
theorem State.arrivalReason_lost {s : State} (h : s.ci.conv = .lost) (q : Nat) (m : Bool) :
    s.arrivalReason q m = some .shutdown := by
  unfold State.arrivalReason State.settledReason
  rw [if_pos h]
  split <;> rfl

theorem State.arrivalReason_offline {s : State} (h : s.mc.mode = .offline) (q : Nat) (m : Bool) :
    s.arrivalReason q m = some .shutdown := by
  unfold State.arrivalReason
  rw [if_pos (.inr (.inl h))]

/-- A promised arrival becomes Mine in ACTIVE and LISTENING (R27). -/
theorem State.arrivalReason_promised {s : State} (hs : s.sessionEnding = false) (hw : s.withdrawing = false)
    (hc : s.ci.conv ≠ .lost) (hm : s.mc.mode ≠ .offline ∧ s.mc.mode ≠ .muted ∧ s.mc.mode ≠ .isolated) (q : Nat) :
    s.arrivalReason q true = none := by
  obtain ⟨ho, hmu, hi⟩ := hm
  simp [State.arrivalReason, State.settledReason, hs, hw, hc, ho, hmu, hi]

theorem arrivedEntry_mem (s : State) (q : Nat) (m : Bool) :
    arrivedEntry (s.arrivalReason q m) ∈
      ([.mine, .draining .surplus none, .draining .isolation none, .draining .shutdown none] : List QEntry) := by
  rcases s.arrivalReason_cases q m with h | h | h | h <;> rw [h] <;> simp [arrivedEntry]

/-- A quantum passed on, by its beneficiary (R23, R25, R27, R136). -/
theorem State.passed_cases (s : State) (b : Option Nat) (q : Nat) (m : Bool) :
    (b = none → s.passed b q m = .free) ∧
    (∀ u ∈ b, (u = s.own → s.passed b q m ∈ ([.mine, .draining .surplus none, .draining .isolation none,
        .draining .shutdown none] : List QEntry)) ∧
      (u = s.own → s.ci.conv = .lost → s.passed b q m = .draining .shutdown none) ∧
      (u ≠ s.own → s.passed b q m = .held u false)) := by
  refine ⟨fun h => by rw [h]; rfl, fun u hu => ?_⟩
  cases hu
  unfold State.passed
  dsimp only
  refine ⟨fun h => ?_, fun h hl => ?_, fun h => if_neg h⟩
  · rw [if_pos h]
    exact arrivedEntry_mem _ _ _
  · rw [if_pos h, State.arrivalReason_lost hl]
    rfl

/-- The beneficiary of R24 as the statement of a RELEASE heard tells it. -/
theorem State.keptBeneficiary_eq (s : State) (u b : Nat) :
    s.keptBeneficiary u (some b) = if s.conf.nSt ≤ b ∨ b = u then none
      else if b = s.own ∨ s.peerIs b .live = true ∨ s.peerIs b .silent = true then some b else none := by
  unfold State.keptBeneficiary
  dsimp only
  split
  · rfl
  · by_cases hb : b = s.own <;> simp [hb]

theorem parsePayload_release (b : Byte) (p : List Byte) (h1 : 1 ≤ p.length) (h8 : p.length ≤ 8) :
    parsePayload .release (b :: p) = some (.release (if b.toNat = 255 then none else some b.toNat) (quantaOf p)) := by
  unfold parsePayload
  dsimp only
  rw [if_pos ⟨by simpa using h1, by simp; omega⟩]
  rfl

theorem exec_release {s : State} {u : BitVec 5} {b : Byte} {p : List Byte} {x : Peer} (h : s.hears u.toNat x)
    (h1 : 1 ≤ p.length) (h8 : p.length ≤ 8) {f : Frame}
    (hf : f = .release (if b.toNat = 255 then none else some b.toNat) (quantaOf p)) :
    exec (.release u (b :: p)) s = .next ((s.hearing u.toNat f).applyFrame u.toNat f).finish := by
  have := heard_applies h (f := f) (by rw [parsePayload_release b p h1 h8, hf])
  simp only [exec, execRelease, goOn_eq, this]

theorem Work.applyFrame_release (w : Work) (u : Nat) (b : Option Nat) (qs : List Nat) :
    w.applyFrame u (.release b qs) = if w.toState.peerIs u .mismatched then w else w.hearRelease u b qs := by
  unfold Work.applyFrame
  cases w.toState.peerIs u .mismatched <;> rfl

/-- Entries of other stations than the sender are as they were (R44). -/
theorem State.Hearing.peerIs_other {s : State} {u : Nat} {x : Peer} {w : Work} (h : s.Hearing u x w) {k : Nat} (hk : k ≠ u)
    (p : PeerState) : w.toState.peerIs k p = s.peerIs k p := by
  unfold State.peerIs State.peerState
  rw [h.ptu]
  dsimp only
  rw [List.getElem?_set_ne (Ne.symm hk)]

theorem State.Hearing.entry {s : State} {u : Nat} {x : Peer} {w : Work} (h : s.Hearing u x w) (q : Nat) :
    w.toState.entry q = s.entry q := by
  unfold State.entry
  rw [h.map]

/-- A listed quantum, told over the state `s` at the frame; it is judged on `z`, which has the entry, the own number, B_eff and
the converter state of `s`. -/
theorem State.released_spec {s z : State} {u q : Nat} {qs : List Nat} (hl : q < s.conf.bCfg ∧ q ∈ qs)
    (he : z.entry q = s.entry q) (ho : z.own = s.own) (hb : z.bu.bEff = s.bu.bEff) (hc : z.ci.conv = s.ci.conv)
    (v : Option Nat) :
    if q < s.conf.bCfg ∧ q ∈ qs ∧ ((s.entry q).heldBy u = true ∧ s.bu.bEff ≤ q) then z.released u v q = .withdrawn
    else if q < s.conf.bCfg ∧ q ∈ qs ∧ ((s.entry q).heldBy u = true ∨ s.entry q = .free) then
      (v = none → z.released u v q = .free) ∧
      (∀ k ∈ v, (k = s.own → z.released u v q ∈ ([.mine, .draining .surplus none, .draining .isolation none,
          .draining .shutdown none] : List QEntry)) ∧
        (k = s.own → s.ci.conv = .lost → z.released u v q = .draining .shutdown none) ∧
        (k ≠ s.own → z.released u v q = .held k false))
    else z.released u v q = s.entry q := by
  have hpassed := fun m => z.passed_cases v q m
  rw [ho, hc] at hpassed
  by_cases hheld : (s.entry q).heldBy u = true
  · obtain ⟨m, hm⟩ := (QEntry.heldBy_iff _ _).1 hheld
    rw [State.released_held (he.trans hm), hb]
    by_cases hq : q < s.bu.bEff
    · rw [if_neg fun h => Nat.not_le.2 hq h.2.2.2, if_pos ⟨hl.1, hl.2, .inl hheld⟩, if_pos hq]
      exact hpassed m
    · rw [if_pos ⟨hl.1, hl.2, hheld, Nat.le_of_not_lt hq⟩, if_neg hq]
  · rw [if_neg fun h => hheld h.2.2.1]
    by_cases hf : s.entry q = .free
    · rw [if_pos ⟨hl.1, hl.2, .inr hf⟩, State.released_free (he.trans hf)]
      exact hpassed false
    · rw [if_neg fun h => h.2.2.elim hheld hf, State.released_other (by rw [he]; simpa using hheld) (he ▸ hf), he]

/-- In TRIPPED, and from a number at or above N_st, a frame ends the receive error run and is passed over (R44). -/
theorem Work.hearValid_passes {w v : Work} {k : FrameKind} {u : Nat} {f : Frame} (hv : v = { w with lc := w.lc.validFrame })
    (h : v.toState.takesFrames = false ∨ v.toState.conf.nSt ≤ u) (ho : u ≠ v.toState.own) : w.hearValid k u f = v := by
  subst hv
  unfold Work.hearValid
  dsimp only at *
  rcases h with h | h
  · exact if_pos (by rw [h]; rfl)
  · by_cases ht : (!w.toState.takesFrames) = true
    · exact if_pos ht
    · exact (if_neg ht).trans ((if_neg ho).trans (if_pos h))

/-- Settles O26: each listed quantum is judged once, on a state that differs from the one at the frame in other entries only. -/
theorem releaseHeardFreesOrPassesQuanta : Obligations.ReleaseHeardFreesOrPassesQuanta := by
  refine ⟨fun u b p x v s hh hcalm hx h1 h8 hlen hv => ⟨_, exec_release hh h1 h8 rfl, ?_⟩,
    fun u b p x s hh hcalm hx h1 h8 => ⟨_, exec_release hh h1 h8 rfl, ?_⟩,
    fun u b p s hst hout hown h1 h8 hcalm => ?_⟩
  · obtain ⟨-, hlt, hown, hux⟩ := hh
    generalize hb : (if b.toNat = 255 then none else some b.toNat) = beneficiary
    have hw := hearing_spec (f := .release beneficiary (quantaOf p)) rfl hux
    generalize s.hearing u.toNat (.release beneficiary (quantaOf p)) = w at hw ⊢
    rw [Work.applyFrame_release, if_neg (by rw [hw.mismatched hux]; simpa using hx)]
    have happ := w.hearRelease_appliesTo u.toNat beneficiary (quantaOf p)
    have hfrom := hw.heardFrom happ hcalm
    have hsender := hw.sender happ hcalm hux
    obtain ⟨-, hbu, hmap, -, -, -, -, -, -⟩ :=
      Work.finish_calm (w := w.hearRelease u.toNat beneficiary (quantaOf p)) (hw.calm happ hcalm) (by simp [hw.conflictLost])
    have hentry : ∀ q, (w.hearRelease u.toNat beneficiary (quantaOf p)).finish.entry q =
        (w.hearRelease u.toNat beneficiary (quantaOf p)).toState.entry q := fun q => by rw [State.entry, hmap]; rfl
    have hbu' : (w.hearRelease u.toNat beneficiary (quantaOf p)).finish.bu = s.bu := by
      rw [hbu, ← hw.bu]
      simp
    have hconf : w.toState.conf = s.conf := by simp only [State.conf, hw.outer.2.2.1]
    have howns : w.toState.own = s.own := by simp only [State.own, hw.outer.2.2.1]
    have hkept : w.toState.keptBeneficiary u.toNat beneficiary = v := by
      rw [hv, ← hb]
      by_cases h255 : b.toNat = 255
      · simp [h255, State.keptBeneficiary]
      · rw [if_neg h255, State.keptBeneficiary_eq, hconf, howns]
        by_cases hbu : b.toNat = u.toNat
        · rw [if_pos (.inr hbu), if_pos (.inr (.inr hbu))]
        · simp [h255, hbu, hw.peerIs_other hbu]
    generalize (w.hearRelease u.toNat beneficiary (quantaOf p)).finish = t at *
    refine ⟨fun q hq => ?_, fun q hp hq hvo hheld hbe => ?_, hsender, hbu', hfrom⟩
    · obtain ⟨z, hz, hze, hr⟩ := w.entry_hearRelease u.toNat beneficiary (quantaOf p) (q := q) (by rw [hw.map, hlen]; exact hq)
      have hzs : z.toState.entry q = s.entry q := by rw [hze, hw.entry]
      rw [hentry, hr, hkept, hw.entry, hconf]
      by_cases hl : q < s.conf.bCfg ∧ q ∈ quantaOf p
      · rw [if_pos hl]
        exact State.released_spec hl hzs (hz.own.trans howns) (hz.bEff.trans (by rw [hw.bu])) (hz.conv.trans (by rw [hw.ci])) v
      · rw [if_neg hl, if_neg fun h => hl ⟨h.1, h.2.1⟩, if_neg fun h => hl ⟨h.1, h.2.1⟩]
    · have hqs : quantaOf p = [q] := hp
      have hlt128 : q < w.map.length := by
        rw [hw.map]
        by_contra hge
        rw [entry_ge s q (Nat.le_of_not_lt hge)] at hheld
        cases hheld
      obtain ⟨z, hz, hze, hr⟩ := w.entry_hearRelease u.toNat beneficiary (quantaOf p) hlt128
      have hzmode : z.mc.mode = if s.mc.mode = .isolated then .active else s.mc.mode := by rw [hz.1, hw.mc]
      have hzq : q < z.bu.bEff := by rwa [hz.bEff, hw.bu]
      rw [hentry, hr, hkept, if_pos ⟨hconf ▸ hq, by rw [hqs]; exact List.mem_singleton.2 rfl⟩,
        State.released_held (hze.trans ((hw.entry q).trans hheld)), if_pos hzq, hvo, State.passed,
        if_pos (hz.own.trans howns).symm]
      refine ⟨fun ho => ?_, fun ho hmu hc => ?_⟩
      · rw [State.arrivalReason_offline (by rw [hzmode, ho]; rfl)]
        rfl
      · have hwith : z.toState.withdrawing = false := by
          obtain ⟨hi, hre, -⟩ := hcalm
          simp only [State.withdrawing, hz.1]
          rw [hw.mc]
          simp [hi, hre]
        rw [State.arrivalReason_promised (hz.sessionEnding.trans (hw.ending.trans hcalm.2.2.1)) hwith
          (by rw [hz.conv, hw.ci]; exact hc) ?_]
        · rfl
        · rw [hzmode]
          split <;> simp_all
  · obtain ⟨-, hlt, -, hux⟩ := hh
    have hw := hearing_spec (f := .release (if b.toNat = 255 then none else some b.toNat) (quantaOf p)) rfl hux
    generalize s.hearing u.toNat (.release (if b.toNat = 255 then none else some b.toNat) (quantaOf p)) = w at hw ⊢
    rw [Work.applyFrame_release, if_pos (by rw [hw.mismatched hux]; simpa using hx)]
    have happ : w.appliesTo w := ⟨⟨rfl, rfl, rfl, rfl⟩, rfl, rfl, rfl, rfl, rfl, rfl, rfl, rfl⟩
    obtain ⟨-, hbu, hmap, -, -, -, -, -, -⟩ := Work.finish_calm (hw.calm happ hcalm) hw.conflictLost
    refine ⟨hmap.trans hw.map, ?_, hbu.trans hw.bu, hw.heardFrom happ hcalm⟩
    rw [hw.sender happ hcalm hux]
    simp [Peer.heardPlain, hx]
  · have hheard : s.heard .release u (b :: p) = Work.finish { s.begin with lc := s.lc.validFrame } := by
      unfold State.heard
      rw [if_neg (by simp [hst]), parsePayload_release b p h1 h8]
      dsimp only
      rw [Work.hearValid_passes rfl ?_ hown]
      · rfl
      · rcases hout with ht | hn
        · exact .inl (by simp [State.takesFrames, ht])
        · exact .inr hn
    refine ⟨_, by simp only [exec, execRelease, goOn_eq]; rfl, ?_⟩
    rw [hheard]
    exact Work.finish_endOf { s.begin with lc := s.lc.validFrame } hcalm rfl rfl rfl

end Sys2Proof.Machine
end

section
/-! SUPPORT. A good echo: the frame that leaves the queue, and what the end of a step keeps of the queue and the claim. -/

namespace Sys2Proof.Machine

/-! ## What every frame offered keeps -/

section
variable {P : Link → Prop} (hP : ∀ l f, P l → P (l.enqueue f)) {w : Work} (h : P w.lc)
include hP h

theorem Work.enqueue_link (f : Frame) : P (w.enqueue f).lc := by
  rcases w.enqueue_lc f with e | e <;> rw [e]
  · exact h
  · exact hP _ _ h

theorem Work.considerClaiming_link : P w.considerClaiming.lc := by
  unfold Work.considerClaiming
  dsimp only
  split
  · exact Work.enqueue_link hP (by exact h) _
  · exact h

theorem Work.sweepMove_link : P w.sweepMove.lc := by
  unfold Work.sweepMove Work.sendRequest
  dsimp only
  (repeat' split) <;> first
    | exact h
    | exact Work.enqueue_link hP (by exact h) _

theorem Work.sweepProgress_link : P w.sweepProgress.lc := by
  unfold Work.sweepProgress
  split
  · unfold Work.sweepRun
    refine foldl_induct (fun v : Work => P v.lc) _ (fun v _ hv => Work.sweepMove_link hP hv) _ _ ?_
    unfold Work.considerSweep
    dsimp only
    split <;> exact h
  · split <;> exact h

/-- What every frame offered to the queue keeps, the claims and requests of the end of a step keep. -/
theorem Work.holdingsProgress_link : P w.holdingsProgress.lc := by
  obtain ⟨v, hv, hl, -, -⟩ := w.holdingsProgress_eq
  rw [hv]
  exact Work.sweepProgress_link hP (Work.considerClaiming_link hP (hl ▸ h))

theorem Work.formBudget_link : P w.formBudget.lc := by
  unfold Work.formBudget
  dsimp only
  split
  · rw [(Work.handBudget_keeps _).2.2.2.2.1, Work.budgetFall_eq]
    refine Work.enqueue_link hP ?_ _
    rw [foldl_keeps (fun w : Work => w.lc) _ (fun a b => by simp) _ _, Work.fallMap_lc]
    exact h
  · split
    · simp only [Work.handBudget_keeps, Work.budgetRise_keeps]
      exact h
    · exact h

theorem Work.hearBudget_link (u src value seq hold : Nat) : P (w.hearBudget u src value seq hold).lc := by
  unfold Work.hearBudget
  dsimp only
  split
  · exact h
  · split
    · exact Work.formBudget_link hP (by exact h)
    · exact h

end

/-! ## The frame that has gone -/

/-- The frame with age stamp `id` is not queued, and no later one will have its stamp. -/
def Link.lacks (id : Nat) (l : Link) : Prop := id < l.nextId ∧ id ∉ (l.queue ++ l.waiting).map QFrame.id

section
variable {id : Nat} {l : Link}

theorem Link.place_lacks (h : l.lacks id) (f : Frame) : (l.place f).lacks id := by
  obtain ⟨hlt, hno⟩ := h
  simp only [List.mem_map, List.mem_append, not_exists, not_and] at hno
  unfold Link.place Link.lacks
  dsimp only
  (repeat' split) <;> simp only [List.mem_map, List.mem_append, mem_insertFrame, List.mem_filter, not_exists, not_and] <;>
    refine ⟨Nat.lt_succ_of_lt hlt, fun x hx he => ?_⟩
  · rcases hx with (rfl | hx) | hx
    · exact Nat.lt_irrefl _ (he ▸ hlt)
    · exact hno x (.inl hx) he
    · exact hno x (.inr hx) he
  · exact hno x hx he
  · rcases hx with (rfl | ⟨hx, -⟩) | hx
    · exact Nat.lt_irrefl _ (he ▸ hlt)
    · exact hno x (.inl hx) he
    · exact hno x (.inr hx) he
  · rcases hx with hx | rfl | hx
    · exact hno x (.inl hx) he
    · exact Nat.lt_irrefl _ (he ▸ hlt)
    · exact hno x (.inr hx) he

theorem Link.lacks_of_map_ids {m : Link} (h : l.lacks id) (hq : m.queue.map QFrame.id = l.queue.map QFrame.id)
    (hw : m.waiting.map QFrame.id = l.waiting.map QFrame.id) (hn : m.nextId = l.nextId) : m.lacks id := by
  unfold Link.lacks at *
  rwa [List.map_append, hq, hw, hn, ← List.map_append]

theorem Link.mergeOrPlace_lacks (h : l.lacks id) (sel : QFrame → Option (List Nat)) (put : List Nat → Frame)
    (qs : List Nat) : (l.mergeOrPlace sel put qs).lacks id :=
  foldl_induct (Link.lacks id) _ (fun m _ hm => m.place_lacks hm _) _ _
    (Link.lacks_of_map_ids h (mergeInto_ids _ _ _ _) (mergeInto_ids _ _ _ _) rfl)

theorem Link.coalesceOrPlace_lacks (h : l.lacks id) (same : Frame → Bool) (f : Frame) :
    (l.coalesceOrPlace same f).lacks id := by
  unfold Link.coalesceOrPlace
  dsimp only
  split
  · refine Link.lacks_of_map_ids h ?_ ?_ rfl <;>
    · rw [List.map_map]
      refine List.map_congr_left fun x _ => ?_
      simp only [Function.comp]
      split <;> rfl
  · exact l.place_lacks h f

theorem Link.enqueue_lacks (l : Link) (f : Frame) (h : l.lacks id) : (l.enqueue f).lacks id := by
  cases f with
  | contest qs => exact l.mergeOrPlace_lacks h _ _ _
  | release b qs => exact l.mergeOrPlace_lacks h _ _ _
  | report => exact l.coalesceOrPlace_lacks h _ _
  | budget => exact l.coalesceOrPlace_lacks h _ _
  | claim => exact l.place_lacks h _
  | yieldReq => exact l.place_lacks h _
  | yieldAns => exact l.place_lacks h _
  | join => exact l.place_lacks h _
  | leave => exact l.place_lacks h _

/-- A queued frame that is taken out is gone. -/
theorem Link.dropId_lacks (h : l.fresh) {x : QFrame} (hx : l.queue.find? (fun y => y.id == id) = some x) :
    (l.dropId id).lacks id := by
  have hmem : x ∈ l.queue := List.mem_of_find?_eq_some hx
  have hid : x.id = id := by simpa using List.find?_some hx
  refine ⟨hid ▸ h.2 x.id (List.mem_map_of_mem (List.mem_append_left _ hmem)), fun hm => ?_⟩
  obtain ⟨y, hy, hyid⟩ := List.mem_map.1 hm
  have hyq := (Link.promote_perm _).mem_iff.1 hy
  simp only [List.mem_append, List.mem_filter] at hyq
  rcases hyq with ⟨-, hne⟩ | hw
  · simp [hyid] at hne
  · have heq := List.inj_on_of_nodup_map h.1 (List.mem_append_left _ hmem) (List.mem_append_right _ hw) (hid.trans hyid.symm)
    have hnd := h.1
    rw [List.map_append] at hnd
    exact (List.nodup_append.1 hnd).2.2 _ (List.mem_map_of_mem hmem) _ (List.mem_map_of_mem hw) (by rw [heq])

end

/-! ## The claim and the request at the end of a step -/

/-- What a sweep leaves of the Holdings Controller: the claim, and a request that is outstanding with its target and the
time of its echo. -/
def Holdings.outlasts (a b : Holdings) : Prop :=
  b.claim = a.claim ∧ ∀ r, a.request = some r → b.request.map (fun m => (m.target, m.echoAt)) = some (r.target, r.echoAt)

theorem Holdings.outlasts_of_same {a b : Holdings} (hc : b.claim = a.claim) (hr : b.request = a.request) : a.outlasts b :=
  ⟨hc, fun r h => by rw [hr, h]; rfl⟩

theorem Holdings.outlasts_trans {a b c : Holdings} (h : a.outlasts b) (k : b.outlasts c) : a.outlasts c := by
  refine ⟨k.1.trans h.1, fun r hr => ?_⟩
  obtain ⟨m, hm, he⟩ := Option.map_eq_some_iff.1 (h.2 r hr)
  obtain ⟨ht, hecho⟩ := Prod.mk.inj he
  rw [k.2 m hm, ht, hecho]

theorem Work.endSweep_outlasts (w : Work) : w.hc.outlasts w.endSweep.hc :=
  ⟨rfl, fun r hr => by simp [Work.endSweep, hr]⟩

theorem Work.sweepMove_outlasts (w : Work) : w.hc.outlasts w.sweepMove.hc := by
  have send : ∀ (v : Work) (t : Nat) (d : Disposition) (c : Nat) (qs : List Nat), v.hc.claim = w.hc.claim →
      w.hc.request = none → w.hc.outlasts (v.sendRequest t d c qs).hc := fun v t d c qs hc hr =>
    ⟨by simpa [Work.sendRequest] using hc, fun r h => by simp [hr] at h⟩
  unfold Work.sweepMove
  dsimp only
  split
  · exact Holdings.outlasts_of_same rfl rfl
  · split
    · exact w.endSweep_outlasts
    · split
      · exact Holdings.outlasts_of_same rfl rfl
      · rename_i hno
        have hr : w.hc.request = none := by simpa using fun h : w.hc.request.isSome = true => hno (by simp [h])
        split
        · exact Holdings.outlasts_of_same rfl rfl
        · split
          · exact send _ _ _ _ _ rfl hr
          · exact Holdings.outlasts_of_same rfl rfl
        · exact w.endSweep_outlasts
        · split
          · exact Holdings.outlasts_of_same rfl rfl
          · exact send _ _ _ _ _ rfl hr

theorem Work.sweepProgress_outlasts (w : Work) : w.hc.outlasts w.sweepProgress.hc := by
  unfold Work.sweepProgress
  split
  · unfold Work.sweepRun
    refine foldl_induct (fun v : Work => w.hc.outlasts v.hc) _
      (fun v _ hv => Holdings.outlasts_trans hv v.sweepMove_outlasts) _ _ ?_
    unfold Work.considerSweep
    dsimp only
    split <;> exact Holdings.outlasts_of_same rfl rfl
  · split
    · exact w.endSweep_outlasts
    · exact Holdings.outlasts_of_same rfl rfl

/-- A claim is made only where there is none, and then it is one by a frame. -/
theorem Work.considerClaiming_claim (w : Work) : w.considerClaiming.hc = w.hc ∨
    (w.hc.claim = none ∧ ∃ qs, w.considerClaiming.hc = { w.hc with claim := some (.queued qs) }) := by
  unfold Work.considerClaiming
  dsimp only
  split
  · rename_i h
    simp only [Bool.and_eq_true, Option.isNone_iff_eq_none] at h
    exact .inr ⟨h.1.1.2, w.toState.eligibleQuanta.take (min w.toState.need 8), by simp only [Work.enqueue_keeps]⟩
  · exact .inl rfl

/-- The end of a step leaves a claim that stands and a request that is outstanding; a claim it makes is not in settle. -/
theorem Work.holdingsProgress_hc (w : Work) :
    (w.hc.claim ≠ none → w.holdingsProgress.hc.claim = w.hc.claim) ∧
    (w.hc.claim = none → w.holdingsProgress.toState.settling = []) ∧
    (∀ r, w.hc.request = some r →
      w.holdingsProgress.hc.request.map (fun m => (m.target, m.echoAt)) = some (r.target, r.echoAt)) := by
  have hbegin : ∃ v : Work, w.holdingsProgress = v.considerClaiming.sweepProgress ∧ w.hc.outlasts v.hc := by
    unfold Work.holdingsProgress
    dsimp only
    refine ⟨_, rfl, ?_⟩
    dsimp only
    split
    · exact Holdings.outlasts_of_same rfl rfl
    · exact Work.endSweep_outlasts _
  obtain ⟨v, hv, hbefore⟩ := hbegin
  have hafter := v.considerClaiming.sweepProgress_outlasts
  rw [← hv] at hafter
  rcases v.considerClaiming_claim with hsame | ⟨hnone, qs, hqs⟩
  · rw [hsame] at hafter
    have hall := Holdings.outlasts_trans hbefore hafter
    exact ⟨fun _ => hall.1, fun h => by rw [State.settling, hall.1, h], hall.2⟩
  · have hw : w.hc.claim = none := hbefore.1.symm.trans hnone
    have hclaim : w.holdingsProgress.hc.claim = some (.queued qs) := by rw [hafter.1, hqs]
    refine ⟨fun h => absurd hw h, fun _ => by rw [State.settling, hclaim], ?_⟩
    intro r hr
    obtain ⟨m, hm, he⟩ := Option.map_eq_some_iff.1 (hbefore.2 r hr)
    exact (hafter.2 m (by rw [hqs]; exact hm)).trans (congrArg some he)

end Sys2Proof.Machine
end

section
/-! SUPPORT. The working state of a good echo, and the echoes of a CLAIM, a RELEASE and a YIELD-REQ. -/

namespace Sys2Proof.Machine

/-! ## The working state -/

/-- The step of the good echo of the frame with age stamp `id`, before the frame is applied (R147). -/
def State.echoing (s : State) (id : Nat) : Work := ({ s.begin with lc := s.lc.dropId id } : Work).goodEcho

/-- The Link Controller once a good echo has ended the attempt: queue and waiting frames are told elsewhere. -/
def Link.echoed (l : Link) : Link :=
  { l with
    attempt := if l.breakDue then some (.brk 0) else none
    breakDue := false, txErrors := 0, muteHold := 1000, rxRun := 0, rateSuspect := false, quietUs := 0, heldUs := 0 }

/-- The Mode Controller once a good echo has restarted the watch for silence (R158). -/
def State.echoedModes (s : State) : ModeCtl :=
  { s.mc with echoSince := s.mc.echoSince.map fun _ => s.now, errSince := false }

theorem State.echoing_lc (s : State) (id : Nat) : s.lc.echoed.sameBut (s.echoing id).lc := rfl

section
variable {s : State} {id us : Nat} {last : Bool} {x : QFrame}

theorem State.echoing_lacks (hst : s.stamped) (hx : s.lc.queue.find? (fun y => y.id == id) = some x) :
    (s.echoing id).lc.lacks id :=
  Link.dropId_lacks (Link.fresh_of_stamped hst) hx

theorem exec_goodEcho (ha : s.lc.attempt = some (.frame id us last))
    (hx : s.lc.queue.find? (fun y => y.id == id) = some x) (ht : s.takesFrames = true) :
    exec .goodEcho s = .next ((s.echoing id).applyEcho x.frame).finish := by
  have hfind : s.begin.lc.find id = some x.frame := by
    change (s.lc.queue.find? fun y => y.id == id).map QFrame.frame = some x.frame
    rw [hx]
    rfl
  have htakes : (s.echoing id).toState.takesFrames = true := ht
  simp only [exec, execGoodEcho, ha, goOn_eq, Work.echoFrame, hfind]
  exact congrArg (fun w : Work => Host.Outcome.next w.finish) (if_pos htakes)

/-- What the step of a good echo makes of the link and the modes, where applying the frame changes the queue only. -/
theorem Work.finish_echo {v : Work} (hcalm : v.toState.calm) (hc : v.conflictLost = []) (hm : v.mc = s.echoedModes)
    (hl : s.lc.echoed.sameBut v.lc) (hno : v.lc.lacks id) :
    s.lc.echoed.sameBut v.finish.lc ∧ v.finish.mc = s.echoedModes ∧
    ∀ f ∈ v.finish.lc.queue ++ v.finish.lc.waiting, f.id ≠ id := by
  obtain ⟨hmc, -, -, -, -, -, hlc, -, -⟩ := Work.finish_calm hcalm hc
  refine ⟨Link.sameBut_trans hl (Work.finish_lc_sameBut hcalm hc), hmc.trans hm, fun f hf he => ?_⟩
  rw [hlc] at hf
  have hlacks : v.holdingsProgress.lc.lacks id := Work.holdingsProgress_link (fun l f h => l.enqueue_lacks f h) hno
  exact hlacks.2 (List.mem_map.2 ⟨f, hf, he⟩)

/-- A state of the step that differs from the one at the echo in the map, the Holdings Controller and the link. -/
def State.echoes (s : State) (v : Work) : Prop :=
  v.toState = { s with map := v.map, mc := s.echoedModes, lc := v.lc, hc := v.hc } ∧ v.conflictLost = [] ∧
    v.sysNotices = [] ∧ v.firings = []

theorem State.echoes_calm {v : Work} (h : s.echoes v) (hs : s.calm) : v.toState.calm := by
  rw [h.1]
  exact hs

/-- The frame of the echo of a CLAIM, a RELEASE and a frame that changes neither the map nor the budget. -/
theorem State.echoes_finish {v : Work} (h : s.echoes v) (hs : s.calm) (hl : s.lc.echoed.sameBut v.lc)
    (hno : v.lc.lacks id) {t : State} (ht : v.finish = t) :
    t.map = v.map ∧ t.hc = v.holdingsProgress.hc ∧
    t = { s with map := t.map, mc := t.mc, lc := t.lc, hc := t.hc, ci := t.ci } ∧
    s.lc.echoed.sameBut t.lc ∧ t.mc = s.echoedModes ∧ ∀ f ∈ t.lc.queue ++ t.lc.waiting, f.id ≠ id := by
  have hcalm := State.echoes_calm h hs
  obtain ⟨hv, hc, hsys, hfir⟩ := h
  have hmc : v.mc = s.echoedModes := by rw [hv]
  have hrest := Work.finish_echo hcalm hc hmc hl hno
  have hend := (Work.finish_endOf v hcalm hc hsys hfir).1
  obtain ⟨-, -, hmap, -, -, -, -, hhc, -⟩ := Work.finish_calm hcalm hc
  rw [ht] at hrest hend hmap hhc
  refine ⟨hmap, hhc, hend.trans ?_, hrest⟩
  rw [hv, hrest.2.1, hmap]

end

/-! ## CLAIM (R19) -/

section
variable {w : Work} {qs old : List Nat}

theorem Work.echoClaim_none (hc : w.hc.claim = some (.queued old))
    (h : (w.toState.listedQuanta qs).filter (fun q => w.toState.entry q == .free) = []) :
    w.echoClaim qs = w.endClaim := by
  unfold Work.echoClaim
  rw [hc]
  dsimp only
  rw [h]
  rfl

theorem Work.echoClaim_some (hc : w.hc.claim = some (.queued old)) (hs : w.toState.sessionEnding = false) {got : List Nat}
    (hg : (w.toState.listedQuanta qs).filter (fun q => w.toState.entry q == .free) = got) (h : got ≠ []) :
    w.echoClaim qs = { w with
      map := got.foldl (fun m q => m.set q .pending) w.map
      hc := { w.hc with claim := some (.settling got (w.now + 50)) } } := by
  unfold Work.echoClaim
  rw [hc]
  dsimp only
  rw [hg, if_neg (by simpa using h)]
  exact if_neg fun hend => Bool.noConfusion (hs.symm.trans hend)

/-- The echo of the own CLAIM, told over the state at the echo. -/
theorem State.echoes_claim {s : State} (id : Nat) (hc : s.hc.claim = some (.queued old)) (hs : s.sessionEnding = false)
    {got : List Nat} (hg : (s.listedQuanta qs).filter (fun q => s.entry q == .free) = got) :
    s.echoes ((s.echoing id).echoClaim qs) ∧ ((s.echoing id).echoClaim qs).lc = (s.echoing id).lc ∧
    ((s.echoing id).echoClaim qs).hc.claim = (if got = [] then none else some (.settling got (s.now + 50))) ∧
    ((s.echoing id).echoClaim qs).map = got.foldl (fun m q => m.set q .pending) s.map := by
  by_cases h : got = []
  · rw [Work.echoClaim_none (w := s.echoing id) hc (hg.trans h), if_pos h, h]
    exact ⟨⟨rfl, rfl, rfl, rfl⟩, rfl, rfl, rfl⟩
  · rw [Work.echoClaim_some (w := s.echoing id) hc hs hg h, if_neg h]
    exact ⟨⟨rfl, rfl, rfl, rfl⟩, rfl, rfl, rfl⟩

end

/-! ## RELEASE (R24, R26) -/

/-- One entry after folding over quanta of which those with `p` take the value of `f`. -/
theorem getD_foldl_setIf {α : Type} (p : Nat → Bool) (f : Nat → α) (l : List Nat) (m : List α) (d : α) (r : Nat) :
    (l.foldl (fun m q => if p q then m.set q (f q) else m) m).getD r d =
      if r ∈ l ∧ p r = true ∧ r < m.length then f r else m.getD r d := by
  induction l generalizing m with
  | nil => simp
  | cons q l ih =>
    rw [List.foldl_cons, ih]
    by_cases hp : p q = true
    · rw [if_pos hp, List.length_set, getD_set]
      by_cases hr : r = q
      · subst hr
        by_cases hlt : r < m.length <;> simp [hp, hlt]
      · simp [hr]
    · rw [if_neg hp]
      by_cases hr : r = q
      · subst hr
        simp [hp]
      · simp [hr]

/-- A Draining quantum that has gone to beneficiary `b`, or to nobody. -/
def State.freedTo (s : State) (b : Option Nat) (q : Nat) : QEntry :=
  match b with
  | some t => if q < s.bu.bEff then .held t false else .withdrawn
  | none => s.vacant q

/-- The echo of a RELEASE takes the listed Draining quanta from the map and from the drain list. -/
theorem Work.echoRelease_eq (w : Work) (b : Option Nat) (qs : List Nat) :
    w.echoRelease b qs = { w with
      map := (w.toState.listedQuanta qs).foldl (fun m q => if (w.toState.entry q).isDraining then
        m.set q (w.toState.freedTo (w.toState.keptBeneficiary w.toState.own b) q) else m) w.map
      hc := { w.hc with drains := w.hc.drains.filter fun d =>
        !(w.toState.listedQuanta qs).any fun q => q == d.quantum && (w.toState.entry q).isDraining } } := by
  have key : ∀ (s : State) (b : Option Nat) (l : List Nat) (w : Work),
      l.foldl (fun (w : Work) q => if (s.entry q).isDraining then
        let w : Work := { w with hc := { w.hc with drains := w.hc.drains.filter fun d => d.quantum ≠ q } }
        match b with
        | some t => w.setEntry q (if q < s.bu.bEff then .held t false else .withdrawn)
        | none => w.setEntry q (s.vacant q)
        else w) w =
      { w with
        map := l.foldl (fun m q => if (s.entry q).isDraining then m.set q (s.freedTo b q) else m) w.map
        hc := { w.hc with drains := w.hc.drains.filter fun d => !l.any fun q => q == d.quantum && (s.entry q).isDraining } } := by
    intro s b l
    induction l with
    | nil => intro w; simp
    | cons q l ih =>
      intro w
      rw [List.foldl_cons, ih, List.foldl_cons]
      by_cases hd : (s.entry q).isDraining = true
      · rw [if_pos hd, if_pos hd]
        have hand : ∀ d : Drain, (decide (d.quantum ≠ q) && !l.any fun q => q == d.quantum && (s.entry q).isDraining) =
            !(q :: l).any fun q => q == d.quantum && (s.entry q).isDraining := fun d => by
          simp [hd, eq_comm (a := q), Bool.beq_eq_decide_eq]
        cases b <;> simp only [State.freedTo, Work.setEntry, List.filter_filter, Bool.and_comm _ (decide _), hand]
      · rw [if_neg hd, if_neg hd]
        simp [hd]
  exact key _ _ _ _

/-- One entry after the echo of a RELEASE. -/
theorem Work.entry_echoRelease (w : Work) (b : Option Nat) (qs : List Nat) (q : Nat) :
    (w.echoRelease b qs).toState.entry q =
      if q < w.toState.conf.bCfg ∧ q ∈ qs ∧ (w.toState.entry q).isDraining = true then
        w.toState.freedTo (w.toState.keptBeneficiary w.toState.own b) q
      else w.toState.entry q := by
  rw [Work.echoRelease_eq]
  refine (getD_foldl_setIf _ _ _ _ _ _).trans ?_
  have hlen : (w.toState.entry q).isDraining = true → q < w.map.length := fun hd => by
    by_contra hge
    rw [entry_ge w.toState q (Nat.le_of_not_lt hge)] at hd
    cases hd
  refine if_congr ?_ rfl rfl
  rw [mem_listedQuanta]
  tauto

/-- Whom a freed quantum goes to (R24). -/
theorem State.freedTo_kept (s : State) (v : Option Nat) (q : Nat) :
    s.freedTo (s.keptBeneficiary s.own v) q = match v with
      | none => s.vacant q
      | some u =>
        if u < s.conf.nSt ∧ u ≠ s.own ∧ (s.peerIs u .live = true ∨ s.peerIs u .silent = true) then
          (if q < s.bu.bEff then .held u false else .withdrawn)
        else s.vacant q := by
  cases v with
  | none => rfl
  | some u =>
    rw [State.keptBeneficiary_eq]
    dsimp only
    by_cases hout : s.conf.nSt ≤ u ∨ u = s.own
    · rw [if_pos hout, if_neg (by omega)]
      rfl
    · rw [if_neg hout]
      by_cases hp : s.peerIs u .live = true ∨ s.peerIs u .silent = true
      · rw [if_pos (.inr hp), if_pos ⟨by omega, by omega, hp⟩]
        rfl
      · rw [if_neg (by tauto), if_neg (by tauto)]
        rfl

/-! ## Frames that change neither the map nor the budget -/

/-- The echo of a YIELD-REQ starts the answer timeout, and that of any other such frame does nothing more (R44, R96). -/
theorem State.echoes_other {f : Frame} (s : State) (id : Nat) (h1 : kindOf f ≠ .claim) (h2 : kindOf f ≠ .release)
    (h3 : kindOf f ≠ .budget) :
    s.echoes ((s.echoing id).applyEcho f) ∧ ((s.echoing id).applyEcho f).lc = (s.echoing id).lc ∧
    ((s.echoing id).applyEcho f).map = s.map ∧
    ∀ r ∈ s.hc.request, f = .yieldReq r.target r.count r.disp r.listed → r.echoAt = none →
      ((s.echoing id).applyEcho f).hc.request = some { r with echoAt := some s.now } := by
  cases f with
  | claim => exact absurd rfl h1
  | release => exact absurd rfl h2
  | budget => exact absurd rfl h3
  | yieldReq target count disp listed =>
    refine ⟨⟨rfl, rfl, rfl, rfl⟩, rfl, rfl, fun r hr hf hecho => ?_⟩
    obtain ⟨rfl, -, -, -⟩ := Frame.yieldReq.inj hf
    change s.hc.request.map _ = _
    rw [show s.hc.request = some r from hr]
    exact congrArg some (if_pos ⟨rfl, hecho⟩)
  | contest => exact ⟨⟨rfl, rfl, rfl, rfl⟩, rfl, rfl, fun _ _ h => by cases h⟩
  | yieldAns => exact ⟨⟨rfl, rfl, rfl, rfl⟩, rfl, rfl, fun _ _ h => by cases h⟩
  | report => exact ⟨⟨rfl, rfl, rfl, rfl⟩, rfl, rfl, fun _ _ h => by cases h⟩
  | join => exact ⟨⟨rfl, rfl, rfl, rfl⟩, rfl, rfl, fun _ _ h => by cases h⟩
  | leave => exact ⟨⟨rfl, rfl, rfl, rfl⟩, rfl, rfl, fun _ _ h => by cases h⟩

end Sys2Proof.Machine
end

section
/-! SUPPORT. The good echo of the probe, and the withdrawals at the entry to ISOLATED. -/

namespace Sys2Proof.Machine

section
variable (w : Work)

theorem Work.removeQueuedClaim_lc : w.lc.sameBut w.removeQueuedClaim.lc := by
  unfold Work.removeQueuedClaim
  dsimp only
  split
  · exact Link.sameBut_refl _
  · exact w.lc.removeOffLine_sameBut fun f => kindOf f == .claim

theorem Work.removeQueuedRequest_lc : w.lc.sameBut w.removeQueuedRequest.lc := by
  unfold Work.removeQueuedRequest
  dsimp only
  split
  · exact Link.sameBut_refl _
  · exact w.lc.removeOffLine_sameBut fun f => kindOf f == .yieldReq

theorem Work.giveUpPending_lc (b : Bool) (qs : List Nat) : w.lc.sameBut (w.giveUpPending b qs).lc := by
  unfold Work.giveUpPending
  dsimp only
  split
  · refine Link.sameBut_trans ?_ (Work.enqueue_sameBut _ _)
    rw [foldl_keeps (fun w : Work => w.lc) _ (fun a b => by simp) _ _]
    exact Link.sameBut_refl _
  · rw [foldl_keeps (fun w : Work => w.lc) _ (fun a b => by simp) _ _]
    exact Link.sameBut_refl _

theorem Work.enterIsolated_mc : w.enterIsolated.mc = (w.setMode .isolated).mc := by simp [Work.enterIsolated]

/-- The CLAIM and the YIELD-REQ that are not on the line leave the queue, and the sweep ends. -/
theorem Work.endQueued_lc : w.lc.sameBut w.removeQueuedClaim.removeQueuedRequest.endSweep.lc :=
  Link.sameBut_trans w.removeQueuedClaim_lc w.removeQueuedClaim.removeQueuedRequest_lc

theorem Work.enterIsolated_lc : (w.setMode .isolated).lc.sameBut w.enterIsolated.lc := by
  unfold Work.enterIsolated
  generalize w.setMode .isolated = v
  dsimp only
  have hdrain := (v.drainMine_keeps .isolation v.toState.foreign).2.2.2.2.1
  generalize v.drainMine .isolation v.toState.foreign = u at *
  have hgive := u.giveUpPending_lc true (u.toState.settling.filter u.toState.foreign)
  rw [hdrain] at hgive
  exact Link.sameBut_trans hgive (Work.endQueued_lc _)

theorem Work.enterIsolated_sessionEnding : w.enterIsolated.toState.sessionEnding = w.toState.sessionEnding := by
  rw [← w.setMode_sessionEnding .isolated]
  simp [Work.enterIsolated, State.sessionEnding, State.sessState]

end

/-- The return to ACTIVE after the echo of the probe, where isolation is judged (R150, R157, R158). -/
theorem Work.judgeIsolation_active (w : Work) :
    ((w.setMode .active).judgeIsolation).mc.mode =
      (if w.mc.solo = false ∧ w.toState.conf.silenceMs ≤ w.toState.sinceLineHeard then .isolated else .active) ∧
    (w.setMode .active).judgeIsolation.mc.isolateReq = w.mc.isolateReq ∧
    (w.setMode .active).judgeIsolation.mc.restarting = w.mc.restarting ∧
    ({ w.lc with tx := .on } : Link).sameBut (w.setMode .active).judgeIsolation.lc ∧
    (w.setMode .active).judgeIsolation.toState.sessionEnding = w.toState.sessionEnding ∧
    ((w.setMode .active).judgeIsolation.mc.mode = .active → (w.setMode .active).judgeIsolation.map = w.map) := by
  have hmc := w.setMode_mc .active
  have hlc : (w.setMode .active).lc = { w.lc with tx := .on } := w.setMode_lc .active
  have hend := w.setMode_sessionEnding .active
  have hmap : (w.setMode .active).map = w.map := by simp
  have hsilent : (w.setMode .active).mc.mode = .active ∧ (w.setMode .active).mc.solo = false ∧
      (w.setMode .active).toState.conf.silenceMs ≤ (w.setMode .active).toState.sinceLineHeard ↔
      w.mc.solo = false ∧ w.toState.conf.silenceMs ≤ w.toState.sinceLineHeard := by
    simp [hmc, State.conf, State.sinceLineHeard]
  generalize w.setMode .active = v at *
  unfold Work.judgeIsolation
  by_cases h : w.mc.solo = false ∧ w.toState.conf.silenceMs ≤ w.toState.sinceLineHeard
  · rw [if_pos (hsilent.2 h), if_pos h, Work.enterIsolated_mc, Work.enterIsolated_sessionEnding, Work.setMode_mc, hmc, hend]
    refine ⟨rfl, rfl, rfl, ?_, rfl, fun hm => by cases hm⟩
    have := v.enterIsolated_lc
    rwa [Work.setMode_lc, hlc] at this
  · rw [if_neg (mt hsilent.1 h), if_neg h, hmc, hend, hlc]
    exact ⟨rfl, rfl, rfl, Link.sameBut_refl _, rfl, fun _ => hmap⟩

/-- The good echo of a probe that has not been abandoned. -/
theorem exec_goodEcho_probe {s : State} {join : Frame} {us : Nat} (ha : s.lc.attempt = some (.probe join us false))
    (hm : s.mc.mode = .muted) : exec .goodEcho s = .next ((s.begin.goodEcho.setMode .active).judgeIsolation).finish := by
  simp only [exec, execGoodEcho, ha, goOn_eq, Work.echoProbe]
  refine congrArg (fun w : Work => Host.Outcome.next w.finish) (if_neg ?_)
  exact fun h => h.elim (fun h => Bool.noConfusion h) (fun h => h hm)

end Sys2Proof.Machine
end

section
/-! SUPPORT. The end of a session in ENDING in the step of the echo of its last RELEASE. -/

namespace Sys2Proof.Machine

/-! ## Nothing held -/

/-- The map counts no entry with `p` where no quantum has one; a number beyond the map stands for Withdrawn. -/
theorem State.countP_eq_zero_iff (s : State) {p : QEntry → Bool} (hp : p .withdrawn = false) :
    s.map.countP p = 0 ↔ ∀ q, p (s.entry q) = false := by
  rw [List.countP_eq_zero]
  constructor
  · intro h q
    by_cases hq : q < s.map.length
    · have := h _ (List.getElem_mem hq)
      simpa [State.entry, List.getD, hq] using this
    · rw [entry_ge s q (Nat.le_of_not_lt hq), hp]
  · intro h e he
    obtain ⟨q, hq, rfl⟩ := List.getElem_of_mem he
    have := h q
    simpa [State.entry, List.getD, hq] using this

theorem State.mineCount_eq_zero_iff (s : State) : s.mineCount = 0 ↔ ∀ q, s.entry q ≠ .mine :=
  (s.countP_eq_zero_iff rfl).trans (by simp)

theorem State.pendingCount_eq_zero_iff (s : State) : s.pendingCount = 0 ↔ ∀ q, s.entry q ≠ .pending :=
  (s.countP_eq_zero_iff rfl).trans (by simp)

theorem State.drainingCount_eq_zero_iff (s : State) : s.drainingCount = 0 ↔ ∀ q, (s.entry q).isDraining = false :=
  s.countP_eq_zero_iff rfl

theorem State.holdsNothing_iff (s : State) : s.holdsNothing = true ↔
    ∀ q, s.entry q ≠ .mine ∧ s.entry q ≠ .pending ∧ (s.entry q).isDraining = false := by
  simp only [State.holdsNothing, Bool.and_eq_true, beq_iff_eq, State.mineCount_eq_zero_iff,
    State.pendingCount_eq_zero_iff, State.drainingCount_eq_zero_iff]
  exact ⟨fun h q => ⟨h.1.1 q, h.1.2 q, h.2 q⟩, fun h => ⟨⟨fun q => (h q).1, fun q => (h q).2.1⟩, fun q => (h q).2.2⟩⟩

/-! ## ENDING comes to EMPTY (R126) -/

/-- A quantity under which no condition holds sets no mark and fires no booking. -/
theorem Work.hand_unmet (w : Work) {sel : Trigger → Option (Bool × Bool × Nat)} (h : ∀ g r, sel g = some r → r.1 = false) :
    w.hand sel = { w with bk := { w.bk with table := (w.hand sel).bk.table } } := by
  unfold Work.hand
  refine foldl_induct (fun v : Work => v = { w with bk := { w.bk with table := v.bk.table } }) _ (fun v i hv => ?_) _ _ rfl
  split
  · rename_i holds event value hsel
    obtain ⟨b, -, hb⟩ := Option.bind_eq_some_iff.1 hsel
    have hholds : holds = false := h _ _ hb
    subst hholds
    unfold Work.evaluate
    split
    · exact hv
    · dsimp only
      rw [if_neg (by simp [Booking.fires]), hv]
  · exact hv

/-- With no session no energy condition holds. -/
theorem Work.handEnergy_empty {w : Work} (h : w.ss.session = none) :
    w.handEnergy = { w with bk := { w.bk with table := w.handEnergy.bk.table } } := by
  unfold Work.handEnergy
  dsimp only
  refine Work.hand_unmet _ fun g r hr => ?_
  split at hr
  · cases hr
    simp [State.holds, h]
  · cases hr

/-- The session in ENDING goes, and SESSION_END is offered. -/
theorem Work.testSessionEnd_ends {w : Work} {y : Session} (hy : w.ss.session = some y) (he : w.toState.sessionEnding = true)
    (hn : w.toState.holdsNothing = true) (hc : w.toState.noClaimAwaiting = true) :
    w.testSessionEnd = { w with
      ss := { w.ss with session := none, bid := Bid.null }
      bk := { w.bk with table := w.testSessionEnd.bk.table }
      sysNotices := w.sysNotices ++ [(.sessionEnd, y.delivered, sessionEndTags y)] } := by
  have hends : w.testSessionEnd = (({ w.notice .sessionEnd y.delivered (sessionEndTags y) with
      ss := { w.ss with session := none } } : Work).derive).handEnergy := by
    unfold Work.testSessionEnd
    rw [hy]
    dsimp only
    rw [he, hn, hc]
    rfl
  have hquiet := Work.handEnergy_empty (w := ({ w.notice .sessionEnd y.delivered (sessionEndTags y) with
      ss := { w.ss with session := none } } : Work).derive) rfl
  rw [← hends] at hquiet
  exact hquiet

/-- One system notice is posted where there is room (R171, R172). -/
theorem Work.flushNotices_one {w : Work} {c : SysCode} {v : Nat} {tags : List Byte} (hs : w.sysNotices = [(c, v, tags)])
    (hf : w.firings = []) (hroom : w.bk.notices.length < 16) :
    w.flushNotices.bk = { w.bk with
      notices := w.bk.notices ++ [systemNotice c v tags w.toState.noticeTime] } := by
  have hfir : (List.range Config.bookings).flatMap (fun _ => ([] : List (Nat × Nat))) = [] := by simp
  have hsys : sysOrder.flatMap (fun d => [(c, v, tags)].filter fun n => n.1 == d) = [(c, v, tags)] := by
    cases c <;> rfl
  unfold Work.flushNotices
  simp only [hs, hf, List.filter_nil, hfir, hsys, List.foldl_nil, List.foldl_cons, postUrgent]
  rw [if_pos (show w.bk.notices.length < Config.noticePlaces from hroom)]

/-- The end of the step in which the session in ENDING goes. -/
theorem Work.finish_ends {w : Work} {y : Session} (hl : ¬(w.ci.conv = .lost ∧ w.ci.lostQuiesce = .expired))
    (hd : w.toState.draining = false) (hc : w.conflictLost = []) (h1 : w.sysNotices = []) (h2 : w.firings = [])
    (hy : w.ss.session = some y) (he : w.toState.sessionEnding = true) (hn : w.toState.holdsNothing = true)
    (hclaim : w.toState.noClaimAwaiting = true) :
    w.finish.ss = { w.ss with session := none, bid := Bid.null } ∧ w.finish.bu = w.bu ∧ w.finish.map = w.map ∧
    w.finish.ptu = w.ptu ∧ w.finish.ae = w.ae ∧
    (w.bk.notices.length < 16 → w.finish.bk = { w.bk with
      table := w.finish.bk.table
      notices := w.bk.notices ++ [systemNotice .sessionEnd y.delivered (sessionEndTags y) w.toState.noticeTime] }) := by
  have hend := Work.testSessionEnd_ends hy he hn hclaim
  generalize hu : w.testSessionEnd = u at hend
  have hss : u.ss = { w.ss with session := none, bid := Bid.null } := congrArg (fun v : Work => v.ss) hend
  have hbk : u.bk = { w.bk with table := u.bk.table } := congrArg (fun v : Work => v.bk) hend
  have hsys : u.sysNotices = w.sysNotices ++ [(.sessionEnd, y.delivered, sessionEndTags y)] :=
    congrArg (fun v : Work => v.sysNotices) hend
  have hfir : u.firings = w.firings := by rw [hend]
  have hmc : u.mc = w.mc := by rw [hend]
  have hrest : u.bu = w.bu ∧ u.map = w.map ∧ u.ptu = w.ptu ∧ u.ae = w.ae ∧ u.now = w.now :=
    ⟨by rw [hend], by rw [hend], by rw [hend], by rw [hend], by rw [hend]⟩
  clear hend
  have hdrain : u.testDrainDone = u := Work.testDrainDone_idle ((draining_congr hmc).trans hd)
  have hagain : u.testSessionEnd = u := by
    unfold Work.testSessionEnd
    rw [show u.ss.session = none by rw [hss]]
  have hconf : w.lostCompletes.handConflict = w := by
    unfold Work.lostCompletes Work.handConflict
    rw [if_neg hl, hc]
  have hsettle : w.settle = u.holdingsProgress.formAndSend.flushNotices := by
    rw [Work.settle, hconf, hu, hdrain, hagain]
  unfold Work.finish
  rw [hsettle]
  obtain ⟨hbu, hmap, hptu, hae, hnow⟩ := hrest
  refine ⟨by simp [hss], by simp [hbu], by simp [hmap], by simp [hptu], by simp [hae], fun hroom => ?_⟩
  have hsame : u.holdingsProgress.formAndSend.bk = u.bk := by simp
  have hnot : u.bk.notices = w.bk.notices := by rw [hbk]
  have hstart : u.bk.startAt = w.bk.startAt := by rw [hbk]
  have htime : u.holdingsProgress.formAndSend.toState.noticeTime = w.toState.noticeTime := by
    simp [State.noticeTime, State.sinceStart, hnow, hstart]
  rw [Work.flushNotices_one (c := .sessionEnd) (v := y.delivered) (tags := sessionEndTags y) (by simp [hsys, h1])
    (by simp [hfir, h2]) (by rw [hsame, hnot]; exact hroom), hsame, htime, hnot]
  exact congrArg (fun k : Bookings => ({ k with notices := w.bk.notices ++
    [systemNotice .sessionEnd y.delivered (sessionEndTags y) w.toState.noticeTime] } : Bookings)) hbk

end Sys2Proof.Machine
end

section
/-! SUPPORT. The good echo of each kind of frame. -/

namespace Sys2Proof.Machine

/-- After the echo of a RELEASE that lists every Draining quantum nothing is held, where nothing was Mine or Pending. -/
theorem echoRelease_holdsNothing {s : State} {w : Work} (hw : w.map = s.map) (hb : w.toState.conf = s.conf) {v : Option Nat}
    {qs : List Nat} (hmine : s.mineCount = 0) (hpend : s.pendingCount = 0)
    (hdr : ∀ q, (s.entry q).isDraining = true → q ∈ qs ∧ q < s.conf.bCfg) :
    (w.echoRelease v qs).toState.holdsNothing = true := by
  have hentry : ∀ q, w.toState.entry q = s.entry q := entry_eq_of_map _ _ hw
  have hfreed : ∀ b q, w.toState.freedTo b q ≠ .mine ∧ w.toState.freedTo b q ≠ .pending ∧
      (w.toState.freedTo b q).isDraining = false := fun b q => by
    unfold State.freedTo State.vacant
    cases b <;> dsimp only <;> split <;> simp [QEntry.isDraining]
  rw [State.holdsNothing_iff]
  intro q
  rw [Work.entry_echoRelease, hentry, hb]
  split
  · exact hfreed _ _
  · rename_i hno
    refine ⟨(s.mineCount_eq_zero_iff.1 hmine) q, (s.pendingCount_eq_zero_iff.1 hpend) q, Bool.eq_false_iff.2 fun hd => hno ?_⟩
    obtain ⟨hm, hlt⟩ := hdr q hd
    exact ⟨hlt, hm, hd⟩

/-- With no session P_set is formed to 0 (R107, R129). -/
theorem State.pSet_noSession {s : State} (h : s.setpointFormed) (hs : s.ss.session = none) : s.ci.pSet = 0 := by
  rw [((setpointFormed_iff s).1 h).1]
  unfold State.formSetpoint State.capTerm
  rw [hs]
  simp

/-- A state that keeps these blocks of another differs from it in the others only. -/
theorem State.eq_of_kept {a t : State} (hnow : t.now = a.now) (hio : t.io = a.io) (hcpi : t.cpi = a.cpi)
    (hpend : t.pending = a.pending) (hbu : t.bu = a.bu) (hptu : t.ptu = a.ptu) (hae : t.ae = a.ae) :
    t = { a with map := t.map, mc := t.mc, lc := t.lc, hc := t.hc, ci := t.ci, ss := t.ss, bk := t.bk } := by
  rw [← hnow, ← hio, ← hcpi, ← hpend, ← hbu, ← hptu, ← hae]

/-- The end of the step in which a session in ENDING holds nothing more: it is EMPTY, and SESSION_END is posted (R126). -/
theorem State.echoes_ends {s t : State} {w : Work} {y : Session} {why : EndReason} {left : SessState} (hv : s.echoes w)
    (hiso : s.mc.isolateReq = false) (hre : s.mc.restarting = false)
    (hlost : ¬(s.ci.conv = .lost ∧ s.ci.lostQuiesce = .expired)) (hy : s.ss.session = some y)
    (hph : y.phase = .ending why left) (hnothing : w.toState.holdsNothing = true)
    (hclaim : w.toState.noClaimAwaiting = true) (ht : w.finish = t) :
    t.ss.session = none ∧ t.ss.bid = Bid.null ∧ t.holdsNothing = true ∧ t.ci.pSet = 0 ∧
    (s.bk.notices.length < 16 → t.bk = { s.bk with
      table := t.bk.table
      notices := s.bk.notices ++ [systemNotice .sessionEnd y.delivered
        [byteOf y.stepsDone, byteOf (endReasonCode why), byteOf (sessCode left)] s.noticeTime] }) ∧
    t = { s with map := t.map, mc := t.mc, lc := t.lc, hc := t.hc, ci := t.ci, ss := t.ss, bk := t.bk } := by
  obtain ⟨hw, hc, hsys, hfir⟩ := hv
  have hss : w.ss = s.ss := by rw [hw]
  have hbk : w.bk = s.bk := by rw [hw]
  have hci : w.ci = s.ci := by rw [hw]
  have hend : w.toState.sessionEnding = true := by
    rw [sessionEnding_iff, hss]
    exact ⟨y, hy, why, left, hph⟩
  have hdrain : w.toState.draining = false := by
    rw [hw]
    simp [State.draining, State.echoedModes, hiso, hre]
  obtain ⟨fss, fbu, fmap, fptu, fae, fbk⟩ :=
    Work.finish_ends (by rw [hci]; exact hlost) hdrain hc hsys hfir (hss ▸ hy) hend hnothing hclaim
  have hformed := finish_formed w
  obtain ⟨hnow, hio, hcpi, hpending⟩ := finish_outer w
  have htime : w.toState.noticeTime = s.noticeTime := by
    rw [hw]
    rfl
  have htags : sessionEndTags y = [byteOf y.stepsDone, byteOf (endReasonCode why), byteOf (sessCode left)] := by
    unfold sessionEndTags
    rw [hph]
  rw [ht] at fss fbu fmap fptu fae fbk hformed hnow hio hcpi hpending
  rw [hbk, htime, htags] at fbk
  refine ⟨by rw [fss], by rw [fss], ?_, State.pSet_noSession hformed (by rw [fss]), fbk, ?_⟩
  · simpa only [State.holdsNothing, State.mineCount, State.pendingCount, State.drainingCount, fmap] using hnothing
  · rw [hw] at hnow hio hcpi hpending fbu fptu fae
    exact State.eq_of_kept hnow hio hcpi hpending fbu fptu fae

/-- The end of the step of the probe's echo: ACTIVE, or ISOLATED after a silent line (R150, R158). -/
theorem State.probeEcho_finish {s t : State} (hcalm : s.calm)
    (ht : ((s.begin.goodEcho.setMode .active).judgeIsolation).finish = t) :
    (t.mc.mode = if s.mc.solo = false ∧ s.conf.lSil * s.conf.tEp ≤ s.sinceLineHeard then .isolated else .active) ∧
    t.lc.tx = .on ∧ t.lc.txErrors = 0 ∧ t.lc.muteHold = 1000 ∧
    (t.lc.attempt = if s.lc.breakDue then some (.brk 0) else none) ∧ (t.mc.mode = .active → t.map = s.map) ∧
    (t.bu = s.bu ∧ t.ptu = s.ptu ∧ t.ae = s.ae) := by
  obtain ⟨hmode, hisoreq, hrest, hlc, hend, hmap⟩ := s.begin.goodEcho.judgeIsolation_active
  have hkeep := (s.begin.goodEcho.setMode .active).judgeIsolation_keeps
  simp only [Work.setMode_keeps] at hkeep
  generalize (s.begin.goodEcho.setMode .active).judgeIsolation = v at *
  obtain ⟨-, -, -, hbu, hptu, hae, hci, -, -, -, hlost, -⟩ := hkeep
  have hcalm' : v.toState.calm := by
    obtain ⟨h1, h2, h3, h4⟩ := hcalm
    refine ⟨hisoreq.trans h1, hrest.trans h2, hend.trans h3, ?_⟩
    rw [hci]
    exact h4
  obtain ⟨fmc, fbu, fmap, fptu, fae, -, -, -, -⟩ := Work.finish_calm hcalm' hlost
  have flc := Work.finish_lc_sameBut hcalm' hlost
  rw [ht] at fmc fbu fmap fptu fae flc
  have hlink := Link.sameBut_trans hlc flc
  refine ⟨by rw [fmc, hmode]; rfl, ?_, ?_, ?_, ?_, fun ha => ?_, fbu.trans hbu, fptu.trans hptu, fae.trans hae⟩
  · rw [hlink]
  · rw [hlink]
    rfl
  · rw [hlink]
    rfl
  · rw [hlink]
    rfl
  · rw [fmap]
    exact hmap (by rw [← fmc, ha])

/-- Settles O37. The echo of each kind of frame changes what that kind says, and the end of the step, calm or the one in
which the session goes, keeps it. -/
theorem goodEchoAppliesTheOwnFrame : Obligations.GoodEchoAppliesTheOwnFrame := by
  refine ⟨fun qs old id us last x s ha hx ht hcalm hst hf hc => ⟨_, exec_goodEcho ha hx ht, ?_⟩,
    fun v qs id us last x s ha hx ht hcalm hst hf hsh => ⟨_, exec_goodEcho ha hx ht, ?_⟩,
    fun v qs why left y id us last x s ha hx ht hiso hre hlost hf hsh hy hph hmine hpend hno hdr =>
      ⟨_, exec_goodEcho ha hx ht, ?_⟩,
    fun value seq hold o id us last x s ha hx ht hcalm hst hf hsh hown hmis ho => ⟨_, exec_goodEcho ha hx ht, ?_⟩,
    fun id us last x s ha hx ht hcalm hst hk1 hk2 hk3 => ⟨_, exec_goodEcho ha hx ht, ?_⟩,
    fun join us s ha hm hcalm => ⟨_, exec_goodEcho_probe ha hm, ?_⟩⟩
  · rw [hf, show (s.echoing id).applyEcho (.claim qs) = (s.echoing id).echoClaim qs from rfl]
    obtain ⟨hv, hlc, hclaim, hmap⟩ := State.echoes_claim (qs := qs) id hc hcalm.2.2.1 rfl
    have hrun := State.echoes_finish hv hcalm (id := id) (hlc ▸ s.echoing_lc id) (hlc ▸ s.echoing_lacks hst hx) rfl
    have hafter := ((s.echoing id).echoClaim qs).holdingsProgress_hc
    generalize Work.finish ((s.echoing id).echoClaim qs) = t at *
    obtain ⟨tmap, thc, tframe⟩ := hrun
    rw [hclaim, State.settling, ← thc] at hafter
    have hgot : ∀ q, q ∈ (s.listedQuanta qs).filter (fun q => s.entry q == .free) ↔
        q < s.conf.bCfg ∧ q ∈ qs ∧ s.entry q = .free := fun q => by simp; tauto
    refine ⟨fun q hq => ?_, fun hex => ?_, fun hall => ?_, tframe⟩
    · have hlen : s.entry q = .free → q < s.map.length := fun hfree => by
        by_contra hge
        rw [entry_ge s q (Nat.le_of_not_lt hge)] at hfree
        cases hfree
      rw [State.entry, tmap, hmap, getD_foldl_set]
      exact if_congr (by rw [hgot]; tauto) rfl rfl
    · obtain ⟨q, hq, hlt, hfree⟩ := hex
      have hne := List.ne_nil_of_mem ((hgot q).2 ⟨hlt, hq, hfree⟩)
      rw [if_neg hne] at hafter
      exact hafter.1 (by simp)
    · have hnil : (s.listedQuanta qs).filter (fun q => s.entry q == .free) = [] :=
        List.eq_nil_iff_forall_not_mem.2 fun q hq => by
          obtain ⟨hlt, hm, hfree⟩ := (hgot q).1 hq
          exact hall q hm hlt hfree
      rw [if_pos hnil] at hafter
      exact hafter.2.1 rfl
  · rw [hf, show (s.echoing id).applyEcho (.release v qs) = (s.echoing id).echoRelease v qs from rfl]
    have hentry := fun q => (s.echoing id).entry_echoRelease v qs q
    have hdrains : ((s.echoing id).echoRelease v qs).hc.drains = s.hc.drains.filter fun d =>
        !(s.listedQuanta qs).any fun q => q == d.quantum && (s.entry q).isDraining := by
      rw [Work.echoRelease_eq]
      rfl
    have hv : s.echoes ((s.echoing id).echoRelease v qs) := by
      rw [Work.echoRelease_eq]
      exact ⟨rfl, rfl, rfl, rfl⟩
    have hlc : ((s.echoing id).echoRelease v qs).lc = (s.echoing id).lc := by simp
    have hrun := State.echoes_finish hv hcalm (id := id) (hlc ▸ s.echoing_lc id) (hlc ▸ s.echoing_lacks hst hx) rfl
    have hafter := congrArg Holdings.drains ((s.echoing id).echoRelease v qs).holdingsProgress_onlyClaims.2
    generalize Work.finish ((s.echoing id).echoRelease v qs) = t at *
    obtain ⟨tmap, thc, tframe⟩ := hrun
    refine ⟨fun q hq => ?_, fun d hd => ?_, tframe⟩
    · rw [State.entry, tmap]
      refine (hentry q).trans ?_
      rw [State.freedTo_kept]
      rfl
    · rw [thc, hafter] at hd
      dsimp only at hd
      rw [hdrains] at hd
      simp only [List.mem_filter, Bool.not_eq_true', List.any_eq_false, mem_listedQuanta, Bool.and_eq_true, beq_iff_eq] at hd
      exact ⟨hd.1, fun h => hd.2 _ ⟨h.2.1, h.1⟩ ⟨rfl, h.2.2⟩⟩
  · rw [hf, show (s.echoing id).applyEcho (.release v qs) = (s.echoing id).echoRelease v qs from rfl]
    have hnothing := echoRelease_holdsNothing (s := s) (w := s.echoing id) rfl rfl (v := v) hmine hpend
      (fun q hd => hdr q (by
        by_contra hge
        rw [entry_ge s q (by rw [hsh.1]; exact Nat.le_of_not_lt hge)] at hd
        cases hd) hd)
    have hv : s.echoes ((s.echoing id).echoRelease v qs) := by
      rw [Work.echoRelease_eq]
      exact ⟨rfl, rfl, rfl, rfl⟩
    have hclaim : ((s.echoing id).echoRelease v qs).toState.noClaimAwaiting = true := by
      rw [Work.echoRelease_eq]
      exact hno
    exact State.echoes_ends hv hiso hre hlost hy hph hnothing hclaim rfl
  · rw [hf, show (s.echoing id).applyEcho (.budget s.own value seq hold) =
      (s.echoing id).hearBudget s.own s.own value seq hold from rfl]
    have hoffer : (s.echoing id).offerHeard s.own value seq hold = o := ho.symm
    have happ := (s.echoing id).hearBudget_appliesTo (u := s.own) (value := value) (seq := seq) (hold := hold) s.own
    obtain ⟨hbu, hentry, hreq⟩ := Work.finish_hearBudget (w := s.echoing id) (u := s.own) (value := value) (seq := seq)
      (hold := hold) hcalm rfl rfl hown hmis rfl
    have hgone := Work.hearBudget_link (fun l f h => l.enqueue_lacks f h) (s.echoing_lacks hst hx) s.own s.own value seq hold
    obtain ⟨-, hmc, -, -, hci, -, hl, hlost, hend⟩ := happ
    have hlink := Work.finish_echo (State.calm_congr hmc hci hend hcalm) hlost hmc
      (Link.sameBut_trans (s.echoing_lc id) hl) hgone
    generalize Work.finish ((s.echoing id).hearBudget s.own s.own value seq hold) = t at *
    rw [hoffer] at hbu
    subst ho
    obtain ⟨htable, hnone, hformed, hseq⟩ := hbu
    refine ⟨htable, hnone, hformed, hseq, fun q hq => ?_, fun hlt z hz hk => ?_, hlink⟩
    · exact hentry q (hsh.1.symm ▸ hq)
    · have hdrop := hreq hlt z hz hk
      rw [show (s.echoing id).lc.queue ++ (s.echoing id).lc.waiting = (s.lc.dropId id).queue ++ (s.lc.dropId id).waiting from rfl,
        Link.mem_dropId] at hdrop
      exact List.mem_append.2 (hdrop.imp_left And.left)
  · obtain ⟨hv, hlc, hmap, hreq⟩ := s.echoes_other id hk1 hk2 hk3
    have hrun := State.echoes_finish hv hcalm (id := id) (hlc ▸ s.echoing_lc id) (hlc ▸ s.echoing_lacks hst hx) rfl
    have hafter := ((s.echoing id).applyEcho x.frame).holdingsProgress_hc
    generalize Work.finish ((s.echoing id).applyEcho x.frame) = t at *
    obtain ⟨tmap, thc, tframe, tlink⟩ := hrun
    refine ⟨?_, fun r hr hf hecho => ?_, tlink⟩
    · rwa [tmap, hmap] at tframe
    · rw [thc]
      exact hafter.2.2 _ (hreq r hr hf hecho)
  · exact State.probeEcho_finish hcalm rfl

end Sys2Proof.Machine
end

section
/-! SUPPORT. The session at a suspension, the drain that is done, and the end of the step of a withdrawal. -/

namespace Sys2Proof.Machine

/-! ## The session -/

/-- A booking that only notifies leaves the session as it is, and only notifies afterwards. -/
theorem Work.hand_notify {w : Work} (h : w.toState.bookingsNotify) (sel : Trigger → Option (Bool × Bool × Nat)) :
    (w.hand sel).ss = w.ss ∧ (w.hand sel).toState.bookingsNotify := by
  unfold Work.hand
  refine foldl_induct (fun v : Work => v.ss = w.ss ∧ v.toState.bookingsNotify) _ (fun v i hv => ?_) _ _ ⟨rfl, h⟩
  obtain ⟨hss, hn⟩ := hv
  split
  · rename_i holds event value _
    unfold Work.evaluate
    split
    · exact ⟨hss, hn⟩
    · rename_i b hb
      have hact : b.action = .notify := by
        have hmem : some b ∈ v.bk.table := by
          rw [List.getD_eq_getElem?_getD] at hb
          cases hi : v.bk.table[i]? with
          | none => simp [hi] at hb
          | some o =>
            rw [hi] at hb
            exact hb ▸ List.mem_of_getElem? hi
        simpa using List.all_eq_true.1 hn _ hmem
      have hset : ∀ b' : Booking, b'.action = .notify →
          ((v.bk.table.set i (some b')).all fun o => o.all fun b => b.action == .notify) = true := fun b' hb' => by
        refine List.all_eq_true.2 fun o ho => ?_
        rcases List.mem_or_eq_of_mem_set ho with ho | rfl
        · exact List.all_eq_true.1 hn o ho
        · simp [hb']
      dsimp only
      rw [hact]
      split
      · exact ⟨hss, hset _ rfl⟩
      · exact ⟨hss, hset _ rfl⟩
  · exact ⟨hss, hn⟩

/-- Where the session is not CHARGING the bid is the null bid (R60). -/
def State.bidFollows (s : State) : Prop := s.charging = false → s.ss.bid = Bid.null

theorem Work.derive_bidFollows (w : Work) : w.derive.toState.bidFollows := by
  intro h
  have hc : w.toState.charging = false := h
  change w.toState.deriveBid = Bid.null
  unfold State.deriveBid
  unfold State.charging at hc
  split
  · rfl
  · rename_i x hx
    rw [hx] at hc
    dsimp only at hc
    rw [if_neg (by simpa using hc)]

theorem Work.suspendCause_bidFollows {w : Work} (h : w.toState.bidFollows) (r : SuspReason) :
    (w.suspendCause r).toState.bidFollows := by
  unfold Work.suspendCause
  split
  · exact h
  · exact Work.derive_bidFollows _

theorem Work.hand_bidFollows {w : Work} (h : w.toState.bidFollows) (sel : Trigger → Option (Bool × Bool × Nat)) :
    (w.hand sel).toState.bidFollows := by
  unfold Work.hand
  refine foldl_induct (fun v : Work => v.toState.bidFollows) _ (fun v i hv => ?_) _ _ h
  split
  · unfold Work.evaluate
    split
    · exact hv
    · rename_i b _
      dsimp only
      split
      · cases b.action with
        | notify => exact hv
        | shed => exact Work.derive_bidFollows _
        | freeze => exact hv
        | suspend => exact Work.suspendCause_bidFollows (by exact hv) _
      · exact hv
  · exact hv

theorem Work.testSessionEnd_bidFollows {w : Work} (h : w.toState.bidFollows) : w.testSessionEnd.toState.bidFollows := by
  unfold Work.testSessionEnd
  split
  · exact h
  · split
    · unfold Work.handEnergy
      dsimp only
      exact Work.hand_bidFollows (Work.derive_bidFollows _) _
    · exact h

theorem sessionEnding_of_suspended {s : State} {r : SuspReason}
    (h : s.ss.session.map Session.phase = some (.suspended r)) : s.sessionEnding = false := by
  obtain ⟨x, hx, hp⟩ := Option.map_eq_some_iff.1 h
  unfold State.sessionEnding State.sessState
  rw [hx]
  dsimp only
  rw [hp]
  rfl

/-- A CHARGING session takes the cause of a suspension (R120). -/
theorem Work.suspendCause_charging {w : Work} (h : w.toState.charging = true) (r : SuspReason) :
    (w.suspendCause r).ss.session.map Session.phase = some (.suspended r) := by
  unfold State.charging at h
  unfold Work.suspendCause
  split
  · rename_i hn
    rw [hn] at h
    cases h
  · rename_i x hx
    rw [hx] at h
    simp only [beq_iff_eq] at h
    simp [Session.suspendFor, h]

/-- The test of ENDING made twice is made once. -/
theorem Work.testSessionEnd_again (w : Work) : w.testSessionEnd.testSessionEnd = w.testSessionEnd := by
  cases hy : w.ss.session with
  | none =>
    have hsame : w.testSessionEnd = w := by
      unfold Work.testSessionEnd
      rw [hy]
    rw [hsame, hsame]
  | some y =>
    by_cases h : w.toState.sessionEnding = true ∧ w.toState.holdsNothing = true ∧ w.toState.noClaimAwaiting = true
    · have hend := congrArg (fun v : Work => v.ss) (Work.testSessionEnd_ends hy h.1 h.2.1 h.2.2)
      generalize w.testSessionEnd = u at hend ⊢
      unfold Work.testSessionEnd
      rw [show u.ss.session = none by rw [hend]]
    · have hsame : w.testSessionEnd = w := by
        unfold Work.testSessionEnd
        rw [hy]
        exact if_neg (by simp only [Bool.and_eq_true]; tauto)
      rw [hsame, hsame]

/-! ## Drains under an expired LOST quiesce -/

/-- With no Draining quantum, the drains that complete under an expired LOST quiesce leave the drain list and nothing more. -/
theorem Work.lostCompletes_none {w : Work} (h : ∀ q, (w.toState.entry q).isDraining = false) :
    w.lostCompletes = { w with hc := { w.hc with drains := w.lostCompletes.hc.drains } } := by
  have hdrained : ∀ (q : Nat) (e : QEntry), e.isDraining = false → w.toState.drained q e = e := fun q e he => by
    cases e with
    | draining => cases he
    | _ => rfl
  have hrelease : ∀ q, w.toState.releaseTo q = none := fun q => by
    have hq := h q
    unfold State.releaseTo
    cases he : w.toState.entry q with
    | draining => rw [he] at hq; cases hq
    | _ => rfl
  have hmap : ∀ qs : List Nat, qs.foldl (fun m q => m.set q (w.toState.drained q (m.getD q .free))) w.map = w.map := fun qs => by
    refine foldl_induct (fun m => m = w.map) _ (fun m q hm => ?_) _ _ rfl
    subst hm
    by_cases hq : q < w.map.length
    · have he := h q
      simp only [State.entry, List.getD, List.getElem?_eq_getElem hq, Option.getD_some] at he ⊢
      rw [hdrained q _ he, List.set_getElem_self]
    · exact List.set_eq_of_length_le (Nat.le_of_not_lt hq)
  unfold Work.lostCompletes
  split
  · unfold Work.completeAll Work.completeDrains
    dsimp only
    rw [hmap]
    simp only [hrelease, List.filterMap_none, onceEach, List.foldl_nil]
  · rfl

theorem Work.lostCompletes_noDrains {w : Work} (h : w.hc.drains = []) : w.lostCompletes = w := by
  unfold Work.lostCompletes
  split
  · unfold Work.completeAll Work.completeDrains
    rw [h]
    exact congrArg (fun d => ({ w with hc := { w.hc with drains := d } } : Work)) h.symm
  · rfl

end Sys2Proof.Machine
end

section
/-! SUPPORT. The drain of a restart, and its clearing point. -/

namespace Sys2Proof.Machine

/-! ## The drain begins (R181) -/

theorem Work.giveUpPending_noClaimAwaiting {w : Work} (h : w.toState.noClaimAwaiting = true) (b : Bool) (qs : List Nat) :
    (w.giveUpPending b qs).toState.noClaimAwaiting = true := by
  have hleave : ∀ (v : Work) (q : Nat), v.toState.noClaimAwaiting = true → (v.leaveClaim q).toState.noClaimAwaiting = true := by
    intro v q hv
    unfold Work.leaveClaim
    split
    · split
      · split <;> rfl
      · exact hv
    · exact hv
  have hfold : ∀ (st : State) (qs : List Nat),
      (qs.foldl (fun (w : Work) q => (w.setEntry q (st.vacant q)).leaveClaim q) w).toState.noClaimAwaiting = true :=
    fun st qs => foldl_induct (fun v : Work => v.toState.noClaimAwaiting = true) _ (fun v q hv => hleave _ _ (by exact hv)) _ _ h
  unfold Work.giveUpPending
  dsimp only
  split
  · rw [State.noClaimAwaiting, (Work.enqueue_keeps _ _).2.2.2.2.2.2.2.2.1]
    exact hfold _ _
  · exact hfold _ _

theorem Work.endQueued_noClaimAwaiting {w : Work} (h : w.toState.noClaimAwaiting = true) :
    w.removeQueuedClaim.removeQueuedRequest.endSweep.toState.noClaimAwaiting = true := by
  have hclaim : w.removeQueuedClaim.toState.noClaimAwaiting = true := by
    unfold Work.removeQueuedClaim
    dsimp only
    split
    · exact h
    · rfl
  generalize w.removeQueuedClaim = v at hclaim
  change v.removeQueuedRequest.toState.noClaimAwaiting = true
  unfold Work.removeQueuedRequest
  dsimp only
  split
  · exact hclaim
  · exact hclaim

/-- The drain with which a restart begins, before its withdrawals from the queue. -/
def Work.drainAll (w : Work) : Work := (w.suspendCause .offline).drainMine .shutdown fun _ => true

theorem Work.drainAll_entry (w : Work) (q : Nat) : w.drainAll.toState.entry q =
    if w.toState.entry q = .mine then .draining .shutdown none else w.toState.entry q := by
  unfold Work.drainAll
  rw [Work.entry_drainMine, entry_eq_of_map _ w.toState (by simp)]
  simp

theorem Work.drainAll_claim (w : Work) : w.drainAll.hc.claim = w.hc.claim := by
  have h := (w.suspendCause_keeps .offline).2.2.2.2.2.2.2.2.2.1
  rw [← h]
  rfl

theorem Work.beginDrain_eq (w : Work) : w.beginDrain =
    (w.drainAll.giveUpPending (w.drainAll.lc.tx == .on) w.drainAll.toState.settling).removeQueuedClaim.removeQueuedRequest.endSweep :=
  rfl

section
variable {w : Work}

/-- Mine becomes Draining with reason Shutdown, and Pending is given up. -/
theorem Work.beginDrain_entry (hp : w.toState.pendingSettles) (q : Nat) :
    w.beginDrain.toState.entry q = w.toState.drainedFor .shutdown q := by
  have hset : w.drainAll.toState.settling = w.toState.settling := by
    unfold State.settling
    rw [w.drainAll_claim]
  have hmap : w.beginDrain.map = (w.drainAll.giveUpPending (w.drainAll.lc.tx == .on) w.drainAll.toState.settling).map := by
    rw [Work.beginDrain_eq]
    simp
  have hvacant : w.drainAll.toState.vacant q = w.toState.vacant q := by
    unfold State.vacant
    rw [show w.drainAll.bu = w.bu by simp [Work.drainAll]]
  rw [entry_eq_of_map _ _ hmap, Work.entry_giveUpPending, w.drainAll_entry, hset, hvacant]
  have hq := hp.2 q
  unfold State.drainedFor
  cases he : w.toState.entry q with
  | mine => simp
  | pending => simp [hq.1 he]
  | _ => simp

theorem Work.beginDrain_lc (w : Work) : w.lc.sameBut w.beginDrain.lc := by
  have hall : w.drainAll.lc = w.lc := by simp [Work.drainAll]
  have hgive := w.drainAll.giveUpPending_lc (w.drainAll.lc.tx == .on) w.drainAll.toState.settling
  rw [hall] at hgive
  rw [Work.beginDrain_eq, hall]
  exact Link.sameBut_trans hgive (Work.endQueued_lc _)

theorem Work.beginDrain_noClaimAwaiting (h : w.toState.noClaimAwaiting = true) :
    w.beginDrain.toState.noClaimAwaiting = true := by
  rw [Work.beginDrain_eq]
  refine Work.endQueued_noClaimAwaiting (Work.giveUpPending_noClaimAwaiting ?_ _ _)
  unfold State.noClaimAwaiting at h ⊢
  rwa [w.drainAll_claim]

/-! No part of the drain moves the rotate pointer (R95). -/

theorem Work.leaveClaim_rotate (w : Work) (q : Nat) : (w.leaveClaim q).hc.rotate = w.hc.rotate := by
  unfold Work.leaveClaim
  split
  · split
    · split <;> rfl
    · rfl
  · rfl

theorem Work.giveUpPending_rotate (w : Work) (b : Bool) (qs : List Nat) :
    (w.giveUpPending b qs).hc.rotate = w.hc.rotate := by
  have hfold : ∀ (st : State) (qs : List Nat),
      (qs.foldl (fun (w : Work) q => (w.setEntry q (st.vacant q)).leaveClaim q) w).hc.rotate = w.hc.rotate := fun st qs =>
    foldl_keeps (fun w : Work => w.hc.rotate) _ (fun a q => by rw [Work.leaveClaim_rotate]; rfl) _ _
  unfold Work.giveUpPending
  dsimp only
  split
  · rw [(Work.enqueue_keeps _ _).2.2.2.2.2.2.2.2.1]
    exact hfold _ _
  · exact hfold _ _

theorem Work.endQueued_rotate (w : Work) :
    w.removeQueuedClaim.removeQueuedRequest.endSweep.hc.rotate = w.hc.rotate := by
  have hclaim : w.removeQueuedClaim.hc.rotate = w.hc.rotate := by
    unfold Work.removeQueuedClaim
    dsimp only
    split <;> rfl
  generalize w.removeQueuedClaim = v at hclaim
  change v.removeQueuedRequest.hc.rotate = w.hc.rotate
  unfold Work.removeQueuedRequest
  dsimp only
  split <;> exact hclaim

theorem Work.drainAll_rotate (w : Work) : w.drainAll.hc.rotate = w.hc.rotate := by
  have h := (w.suspendCause_keeps .offline).2.2.2.2.2.2.2.2.2.1
  rw [← h]
  rfl

theorem Work.beginDrain_rotate (w : Work) : w.beginDrain.hc.rotate = w.hc.rotate := by
  rw [Work.beginDrain_eq, Work.endQueued_rotate, Work.giveUpPending_rotate, Work.drainAll_rotate]

theorem Work.beginDrain_ss (w : Work) : w.beginDrain.ss = (w.suspendCause .offline).ss := by
  rw [Work.beginDrain_eq]
  simp [Work.drainAll]

end

/-! ## Room for the frames of the drain -/

/-- The queue has `n` free places, and no frame waits for one. -/
def Link.roomFor (n : Nat) (l : Link) : Prop := l.queue.length + n ≤ 8 ∧ l.waiting = []

section
variable {n : Nat} {l : Link}

theorem Link.roomFor_place (h : l.roomFor (n + 1)) (f : Frame) : (l.place f).roomFor n := by
  obtain ⟨hq, hw⟩ := h
  unfold Link.place
  dsimp only
  rw [if_pos (by simp only [Config.queuePlaces]; omega)]
  refine ⟨?_, hw⟩
  simp only [insertFrame_length]
  omega

theorem Link.roomFor_removeOffLine (h : l.roomFor n) (p : Frame → Bool) : (l.removeOffLine p).roomFor n := by
  obtain ⟨hq, hw⟩ := h
  unfold Link.removeOffLine Link.promote Link.roomFor
  simp only [hw, List.filter_nil, List.take_nil, List.drop_nil, List.foldl_nil, and_true]
  have := List.length_filter_le (fun x : QFrame => l.onLine x || !p x.frame) l.queue
  omega

theorem runsOf8_length {qs : List Nat} (h : qs.length ≤ 8) (n : Nat) : (runsOf8 n qs).length ≤ 1 := by
  have hnil : ∀ m, runsOf8 m [] = [] := fun m => by cases m <;> rfl
  cases n with
  | zero => simp [runsOf8]
  | succ n =>
    cases qs with
    | nil => simp [runsOf8]
    | cons q qs =>
      rw [runsOf8, List.drop_eq_nil_of_le h, hnil]
      simp

theorem mergeInto_rest_length (sel : QFrame → Option (List Nat)) (put : List Nat → Frame) (qs : List Nat) (l : List QFrame) :
    (mergeInto sel put qs l).2.length ≤ qs.length := by
  induction l generalizing qs with
  | nil => simp [mergeInto]
  | cons x l ih =>
    unfold mergeInto
    split
    · exact ih _
    · exact (ih _).trans (by simp)

theorem onceEach_length {α : Type} [DecidableEq α] (l : List α) : (onceEach l).length ≤ l.length := by
  induction l with
  | nil => simp [onceEach]
  | cons x l ih =>
    simp only [onceEach, List.length_cons]
    have := List.length_filter_le (fun y => decide (y ≠ x)) (onceEach l)
    omega

/-- Up to 8 quanta take one place at most. -/
theorem Link.roomFor_mergeOrPlace (h : l.roomFor (n + 1)) (sel : QFrame → Option (List Nat)) (put : List Nat → Frame)
    {qs : List Nat} (h8 : qs.length ≤ 8) : (l.mergeOrPlace sel put qs).roomFor n := by
  have hfold : ∀ (rs : List (List Nat)) (m : Link), rs.length ≤ 1 → m.roomFor (n + 1) →
      (rs.foldl (fun l qs => l.place (put qs)) m).roomFor n := fun rs m hr hm => by
    match rs, hr with
    | [], _ => exact ⟨by have := hm.1; dsimp only [List.foldl_nil]; omega, hm.2⟩
    | [r], _ => exact Link.roomFor_place hm _
  obtain ⟨hq, hw⟩ := h
  unfold Link.mergeOrPlace
  dsimp only
  refine hfold _ _ (runsOf8_length ?_ _) ⟨?_, ?_⟩
  · refine (mergeInto_rest_length _ _ _ _).trans ((mergeInto_rest_length _ _ _ _).trans ?_)
    exact (List.length_filter_le _ _).trans ((onceEach_length _).trans h8)
  · have := congrArg List.length (mergeInto_ids (fun f => if l.onLine f then none else sel f) put ((onceEach qs).filter fun q =>
      !((l.queue ++ l.waiting).flatMap fun f => (if l.onLine f then none else sel f).getD []).contains q) l.queue)
    simp only [List.length_map] at this
    dsimp only
    omega
  · simp [hw, mergeInto]

end

section
variable {n : Nat} {w : Work}

theorem Work.roomFor_giveUpPending (h : w.lc.roomFor (n + 1)) (b : Bool) {qs : List Nat} (h8 : qs.length ≤ 8) :
    (w.giveUpPending b qs).lc.roomFor n := by
  have hless : w.lc.roomFor n := ⟨by have := h.1; omega, h.2⟩
  have hfold : ∀ (st : State) (qs : List Nat),
      (qs.foldl (fun (w : Work) q => (w.setEntry q (st.vacant q)).leaveClaim q) w).lc = w.lc := fun st qs =>
    foldl_keeps (fun w : Work => w.lc) _ (fun a b => by simp) _ _
  unfold Work.giveUpPending
  dsimp only
  split
  · rcases Work.enqueue_lc _ _ with e | e <;> rw [e, hfold]
    · exact hless
    · exact Link.roomFor_mergeOrPlace h _ _ ((List.length_filter_le _ _).trans h8)
  · rw [hfold]
    exact hless

theorem Work.roomFor_endQueued (h : w.lc.roomFor n) : w.removeQueuedClaim.removeQueuedRequest.endSweep.lc.roomFor n := by
  have hclaim : w.removeQueuedClaim.lc.roomFor n := by
    unfold Work.removeQueuedClaim
    dsimp only
    split
    · exact h
    · exact Link.roomFor_removeOffLine h fun f => kindOf f == .claim
  generalize w.removeQueuedClaim = v at hclaim
  change v.removeQueuedRequest.lc.roomFor n
  unfold Work.removeQueuedRequest
  dsimp only
  split
  · exact hclaim
  · exact Link.roomFor_removeOffLine hclaim fun f => kindOf f == .yieldReq

/-- No more quanta settle than are Pending. -/
theorem State.settling_length {s : State} (hp : s.pendingSettles) : s.settling.length ≤ s.pendingCount := by
  have hsub : s.settling ⊆ quantaWhere s.map fun _ e => e == .pending := fun q hq => by
    have he := (hp.2 q).2 hq
    have hlt : q < s.map.length := by
      by_contra hge
      rw [entry_ge s q (Nat.le_of_not_lt hge)] at he
      cases he
    simpa [State.entry, List.getD, hlt] using he
  have hlen : (quantaWhere s.map fun _ e => e == .pending).length = s.pendingCount := by
    unfold quantaWhere State.pendingCount
    rw [List.length_filterMap_eq_countP, ← List.zipIdx_map_fst 0 s.map, List.countP_map, List.zipIdx_map_fst]
    exact List.countP_congr fun x _ => by simp
  exact hlen ▸ (hp.1.subperm hsub).length_le

/-- After the RELEASE of up to 8 Pending quanta a place is left, where two were free. -/
theorem Work.beginDrain_room (hp : w.toState.pendingSettles) (h8 : w.toState.pendingCount ≤ 8) (h : w.lc.roomFor 2) :
    w.beginDrain.lc.roomFor 1 := by
  have hall : w.drainAll.lc = w.lc := by simp [Work.drainAll]
  have hset : w.drainAll.toState.settling = w.toState.settling := by
    unfold State.settling
    rw [w.drainAll_claim]
  rw [Work.beginDrain_eq]
  refine Work.roomFor_endQueued (Work.roomFor_giveUpPending (by rw [hall]; exact h) _ ?_)
  rw [hset]
  exact (State.settling_length hp).trans h8

end

/-! ## The clearing point (R182) -/

theorem Work.emptyQueue_rotate (w : Work) : w.emptyQueue.hc.rotate = w.hc.rotate := by
  have hlost : ∀ (v : Work) (x : QFrame), (v.lostFrame x.frame).hc.rotate = v.hc.rotate := fun v x => by
    unfold Work.lostFrame
    split
    · rfl
    · split <;> rfl
    · rfl
    · rfl
    · rfl
    · rfl
    · rfl
    · rfl
    · rfl
  unfold Work.emptyQueue Work.loseFrames
  dsimp only
  rw [foldl_keeps (fun w : Work => w.hc.rotate) _ hlost _ _]

/-- The blocks at the clearing point of a restart. -/
theorem Work.clearBlocks_spec (w : Work) :
    w.clearBlocks.mc = { w.mc with duplicate := false, restarting := false, leaving := false } ∧
    w.clearBlocks.map = startMap w.toState.conf.bCfg ∧
    w.clearBlocks.bu = { w.bu with offers := [], seen := false, bEff := w.toState.conf.bCfg } ∧
    w.clearBlocks.ptu =
      { entries := freshTable w.toState.conf.nSt w.toState.own, lineHeard := none, lineCleared := w.now } ∧
    w.clearBlocks.ae = { w.ae with sticky := CompFlags.clear } ∧
    w.clearBlocks.hc = { Holdings.reset w.toState.own with rotate := w.hc.rotate } ∧
    w.clearBlocks.lc = { w.lc.lastAttempt.removeOffLine (fun _ => true) with
      txErrors := 0, rxErrors := 0, listenErrors := 0, rxRun := 0, rateSuspect := false
      muteHold := Config.muteHoldMin, muteAt := none, probeDue := false } ∧
    w.clearBlocks.ss = { w.ss with bid := Bid.null } ∧ w.clearBlocks.bk.startAt = w.bk.startAt ∧
    (w.toState.bookingsNotify → w.clearBlocks.toState.bookingsNotify) := by
  have hlc := w.emptyQueue_lc
  have hrotate := w.emptyQueue_rotate
  have hkeep := w.emptyQueue_keeps
  unfold Work.clearBlocks
  generalize w.emptyQueue = v at *
  obtain ⟨hnow, -, hcpi, hmc, hbu, hptu, hae, hss, -, hbk, -⟩ := hkeep
  have hconf : v.toState.conf = w.toState.conf := by simp only [State.conf, hcpi]
  have hown : v.toState.own = w.toState.own := by simp only [State.own, hcpi]
  simp only [Work.refreshMarks_keeps, hconf, hown, hlc, hrotate, hnow, hmc, hbu, hae, hss, true_and]
  refine ⟨show v.bk.startAt = w.bk.startAt by rw [hbk], fun hn => ?_⟩
  rw [State.bookingsNotify, ← hbk] at hn
  refine List.all_eq_true.2 fun o ho => ?_
  obtain ⟨p, hp, rfl⟩ := List.mem_map.1 ho
  have := List.all_eq_true.1 hn p hp
  cases p with
  | none => rfl
  | some b => exact this

theorem State.bidFollows_congr {s t : State} (h : t.ss = s.ss) (hs : s.bidFollows) : t.bidFollows := by
  unfold State.bidFollows State.charging at *
  rwa [h]

theorem State.bookingsNotify_congr {s t : State} (h : t.bk = s.bk) (hs : s.bookingsNotify) : t.bookingsNotify := by
  unfold State.bookingsNotify at *
  rwa [h]

theorem Work.handMode_session (w : Work) : (w.toState.bidFollows → w.handMode.toState.bidFollows) ∧
    (w.toState.bookingsNotify → w.handMode.ss = w.ss ∧ w.handMode.toState.bookingsNotify) := by
  unfold Work.handMode
  dsimp only
  exact ⟨fun h => Work.hand_bidFollows h _, fun h => Work.hand_notify h _⟩

theorem Work.handTarget_session (w : Work) : (w.toState.bidFollows → w.handTarget.toState.bidFollows) ∧
    (w.toState.bookingsNotify → w.handTarget.ss = w.ss) := by
  unfold Work.handTarget
  dsimp only
  exact ⟨fun h => Work.hand_bidFollows h _, fun h => (Work.hand_notify h _).1⟩

/-- A change of mode ends and resumes no session by itself; what a booking does, the bid follows. -/
theorem Work.setMode_session (w : Work) (m : Mode) :
    (w.toState.bidFollows → (w.setMode m).toState.bidFollows) ∧
    (w.toState.bookingsNotify → (w.setMode m).ss = w.ss ∧ (w.setMode m).toState.bookingsNotify) := by
  unfold Work.setMode
  refine ⟨fun h => (Work.handMode_session _).1 ?_, fun h => (Work.handMode_session _).2 ?_⟩
  · exact State.bidFollows_congr (s := w.toState) rfl h
  · exact State.bookingsNotify_congr (s := w.toState) rfl h

/-- What the entry to LISTENING makes of the session and its bid. -/
theorem Work.enterListening_session {w : Work} (h : w.io.trip = false) :
    (w.toState.bidFollows → w.enterListening.toState.bidFollows) ∧
    (w.toState.bookingsNotify → w.enterListening.ss = w.ss) := by
  have hset := w.setMode_session .listening
  have hio : (w.setMode .listening).io = w.io := by simp
  unfold Work.enterListening
  generalize w.setMode .listening = v at *
  dsimp only
  rw [if_neg (by simp [hio, h])]
  refine ⟨fun hb => (Work.handTarget_session _).1 ?_, fun hn => ((Work.handTarget_session _).2 ?_).trans (hset.2 hn).1⟩
  · exact State.bidFollows_congr (s := v.toState) rfl (hset.1 hb)
  · exact State.bookingsNotify_congr (s := v.toState) rfl (hset.2 hn).2

/-! ## The end of the step of a restart -/

/-- The session at the end of a step in which no drain is under way. -/
theorem Work.finish_idle_ss {w : Work} (hl : w.lostCompletes = w) (hd : w.toState.draining = false)
    (hc : w.conflictLost = []) : w.finish.ss = w.testSessionEnd.ss := by
  have hconf : w.handConflict = w := by
    unfold Work.handConflict
    rw [hc]
  have hdrain : w.testSessionEnd.testDrainDone = w.testSessionEnd :=
    Work.testDrainDone_idle (by rw [draining_congr (s := w.toState) (by simp), hd])
  unfold Work.finish Work.settle
  rw [hl, hconf, hdrain, Work.testSessionEnd_again]
  simp

/-- Where the drain that is done has brought the step to `v`, the step ends as it would end from `v`. -/
theorem Work.finish_of_drainDone {w v : Work} (h : w.lostCompletes.handConflict.testSessionEnd.testDrainDone = v)
    (hl : v.lostCompletes = v) (hd : v.toState.draining = false) (hc : v.conflictLost = []) : w.finish = v.finish := by
  have hconf : v.handConflict = v := by
    unfold Work.handConflict
    rw [hc]
  have hdrain : v.testSessionEnd.testDrainDone = v.testSessionEnd :=
    Work.testDrainDone_idle (by rw [draining_congr (s := v.toState) (by simp), hd])
  unfold Work.finish Work.settle
  rw [h, hl, hconf, hdrain, Work.testSessionEnd_again]

/-- At the clearing point in LISTENING nothing drains. -/
theorem Work.clearingPoint_idle {w : Work} (hm : w.mc.mode ≠ .tripped) (ht : w.io.trip = false) :
    w.clearingPoint = w.clearBlocks.enterListening ∧ w.clearingPoint.lostCompletes = w.clearingPoint ∧
    w.clearingPoint.toState.draining = false ∧ w.clearingPoint.mc.mode = .listening := by
  obtain ⟨hmc, -, -, -, -, hhc, -⟩ := w.clearBlocks_spec
  have heq : w.clearingPoint = w.clearBlocks.enterListening := by
    unfold Work.clearingPoint
    exact if_neg (by rw [hmc]; exact hm)
  obtain ⟨lmc, -, lhc, -⟩ := Work.enterListening_untripped (w := w.clearBlocks) (by simpa using ht)
  rw [heq]
  have hmode : w.clearBlocks.enterListening.mc.mode = .listening := by rw [lmc]
  refine ⟨rfl, Work.lostCompletes_noDrains ?_, draining_of_idle (by simp [State.working, hmode]) (by simp [hmode]), hmode⟩
  rw [lhc, hhc]
  rfl

end Sys2Proof.Machine
end

section
/-! SUPPORT. The step of a RESTART. -/

namespace Sys2Proof.Machine

/-- What is left in a queue that has been emptied is on the line. -/
theorem Link.onLine_of_emptied {l : Link} {x : QFrame}
    (hx : x ∈ (l.lastAttempt.removeOffLine fun _ => true).queue ++ (l.lastAttempt.removeOffLine fun _ => true).waiting) :
    l.lastAttempt.onLine x = true := by
  rw [Link.mem_removeOffLine] at hx
  simpa using hx.2

theorem freshTable_peer {n k : Nat} (own : Nat) (h : k < n) :
    ((freshTable n own)[k]?).map (fun y => (y.state, y.fpSeen)) = some (if k = own then .self else .absent, false) := by
  rw [freshTable_getElem? own h]
  split <;> rfl

/-- The end of a step whose clearing point enters LISTENING. -/
theorem Work.clearingPoint_cleared {w : Work} (hm : w.mc.mode ≠ .tripped) (ht : w.io.trip = false)
    (hc : w.conflictLost = []) {t : State} (h : w.clearingPoint.finish = t) :
    w.toState.cleared t ∧ t.lc.attempt = w.lc.attempt.map Attempt.asLast ∧ t.bk.startAt = w.bk.startAt ∧
    ∀ r, w.ss.session.map Session.phase = some (.suspended r) → w.toState.bookingsNotify →
      t.ss.session.map Session.phase = some (.suspended r) := by
  obtain ⟨heq, hl, hd, hmode⟩ := Work.clearingPoint_idle hm ht
  have hss := Work.finish_idle_ss hl hd (by simp [hc])
  obtain ⟨fmc, fbu, fmap, fptu, fae, flc, fhc, fci, fst⟩ := Work.finish_idle hl hd (by simp [hmode])
  have hformed := finish_formed w.clearingPoint
  rw [h] at hss fmc fbu fmap fptu fae flc fhc fci fst hformed
  have htrip : w.clearBlocks.io.trip = false := by simpa using ht
  obtain ⟨cmc, cmap, cbu, cptu, cae, chc, clc, css, cst, cnote⟩ := w.clearBlocks_spec
  have cci : w.clearBlocks.ci = w.ci := by simp
  have cnow : w.clearBlocks.now = w.now := by simp
  have cconf : w.clearBlocks.toState.conf = w.toState.conf := by simp [State.conf]
  obtain ⟨lmc, llc, lhc, lptu, lae, lmap, lbu, lci, lst⟩ := Work.enterListening_untripped htrip
  obtain ⟨lbid, lss⟩ := Work.enterListening_session htrip
  have cbid : w.clearBlocks.toState.bidFollows := fun _ => by rw [css]
  rw [heq] at *
  generalize w.clearBlocks.enterListening = v at *
  generalize w.clearBlocks = u at *
  rw [lmc, cmc, cnow, cconf] at fmc
  rw [lmap, cmap] at fmap
  rw [lbu, cbu] at fbu
  rw [lptu, cptu, cnow] at fptu
  rw [lae, cae] at fae
  rw [llc, clc] at flc
  rw [lhc, chc] at fhc
  have vhc : v.hc.stuck = false := by
    rw [lhc, chc]
    rfl
  have vci : v.ci = w.ci := lci.trans cci
  have hcause : v.toState.inhibitCause = (w.ci.causeTripped || w.ci.causeLost) := by
    simp [State.inhibitCause, vhc, vci]
  rw [hcause, vci, ← Bool.or_assoc] at fci
  obtain ⟨hp, hsend⟩ := State.setpointFormed_zero hformed (by simp [State.working, fmc])
  rw [hp, hsend] at fci
  refine ⟨⟨fmc, fun q hq => ?_, fbu, by rw [fptu], fun k hk => ?_, fae, fhc, fun hnc => ?_, ?_, ?_, fun x hx => ?_, fci⟩, ?_, ?_, ?_⟩
  · rw [State.entry, fmap, startMap_getD _ _ hq]
  · rw [fptu]
    exact freshTable_peer _ hk
  · exact State.bidFollows_congr hss (Work.testSessionEnd_bidFollows (lbid cbid)) hnc
  · rw [flc]
    exact ⟨rfl, rfl, rfl, rfl, rfl⟩
  · rw [flc]
    exact ⟨rfl, rfl, rfl, rfl⟩
  · rw [flc] at hx ⊢
    exact Link.onLine_of_emptied hx
  · rw [flc]
    rfl
  · rw [fst, lst, cst]
  · intro r hr hn
    have hv : v.ss.session.map Session.phase = some (.suspended r) := by
      rw [lss (cnote hn), css]
      exact hr
    rw [hss, Work.testSessionEnd_calm _ (sessionEnding_of_suspended hv), hv]

/-- The end of a step whose clearing point leaves the station in TRIPPED. -/
theorem Work.clearingPoint_tripped {w : Work} (hm : w.mc.mode = .tripped) (hc : w.conflictLost = []) {t : State}
    (h : w.clearingPoint.finish = t) :
    t.mc = { w.mc with duplicate := false, restarting := false, leaving := false } ∧
    t.map = startMap w.toState.conf.bCfg ∧
    t.bu = { w.bu with offers := [], seen := false, bEff := w.toState.conf.bCfg } ∧
    t.ptu = { entries := freshTable w.toState.conf.nSt w.toState.own, lineHeard := none, lineCleared := w.now } ∧
    t.ae = { w.ae with sticky := CompFlags.clear } ∧
    t.hc = { Holdings.reset w.toState.own with rotate := w.hc.rotate } ∧
    t.lc = { w.lc.lastAttempt.removeOffLine (fun _ => true) with
      txErrors := 0, rxErrors := 0, listenErrors := 0, rxRun := 0, rateSuspect := false
      muteHold := Config.muteHoldMin, muteAt := none, probeDue := false } ∧
    t.ci = { w.ci with
      pSet := 0, sendValue := 0, outbox := t.ci.outbox
      inhibit := w.ci.inhibit || w.ci.causeTripped || w.ci.causeLost } ∧
    t.bk.startAt = w.bk.startAt ∧
    ∀ r, w.ss.session.map Session.phase = some (.suspended r) → t.ss.session.map Session.phase = some (.suspended r) := by
  have heq : w.clearingPoint = w.clearBlocks := by
    unfold Work.clearingPoint
    exact if_pos (w.clearBlocks_stays.2.1.trans hm)
  rw [heq] at h
  obtain ⟨cmc, cmap, cbu, cptu, cae, chc, clc, css, cst, -⟩ := w.clearBlocks_spec
  have cci : w.clearBlocks.ci = w.ci := by simp
  have clost : w.clearBlocks.conflictLost = [] := by simp [hc]
  generalize w.clearBlocks = v at *
  have hmode : v.mc.mode = .tripped := by rw [cmc, hm]
  have hl : v.lostCompletes = v := Work.lostCompletes_noDrains (by rw [chc]; rfl)
  have hd : v.toState.draining = false := draining_of_idle (by simp [State.working, hmode]) (by simp [hmode])
  have hss := Work.finish_idle_ss hl hd clost
  obtain ⟨fmc, fbu, fmap, fptu, fae, flc, fhc, fci, fst⟩ := Work.finish_idle hl hd (by simp [hmode])
  have hformed := finish_formed v
  rw [h] at hss fmc fbu fmap fptu fae flc fhc fci fst hformed
  have vhc : v.hc.stuck = false := by
    rw [chc]
    rfl
  have hcause : v.toState.inhibitCause = (w.ci.causeTripped || w.ci.causeLost) := by
    simp [State.inhibitCause, vhc, cci]
  rw [hcause, cci, ← Bool.or_assoc] at fci
  obtain ⟨hp, hsend⟩ := State.setpointFormed_zero hformed (by simp [State.working, fmc, hmode])
  rw [hp, hsend] at fci
  rw [chc] at fhc
  refine ⟨fmc.trans cmc, fmap.trans cmap, fbu.trans cbu, fptu.trans cptu, fae.trans cae, fhc, flc.trans clc, fci,
    fst.trans cst, fun r hr => ?_⟩
  have hv : v.ss.session.map Session.phase = some (.suspended r) := by
    rw [css]
    exact hr
  rw [hss, Work.testSessionEnd_calm _ (sessionEnding_of_suspended hv), hv]

/-- The clearing point reads these blocks of the state it clears. -/
theorem State.cleared_congr {r s t : State} (hnow : r.now = s.now) (hcpi : r.cpi = s.cpi)
    (hmc : r.mc = { s.mc with restarting := r.mc.restarting, leaving := r.mc.leaving })
    (hseq : r.bu.ownSeq = s.bu.ownSeq) (hae : r.ae = s.ae) (hrotate : r.hc.rotate = s.hc.rotate) (hci : r.ci = s.ci)
    (h : r.cleared t) : s.cleared t := by
  have hconf : r.conf = s.conf := by simp only [State.conf, hcpi]
  have hown : r.own = s.own := by simp only [State.own, hcpi]
  unfold State.cleared at h ⊢
  rw [hnow, hconf, hown, hseq, hae, hrotate, hci] at h
  obtain ⟨tmc, trest⟩ := h
  exact ⟨tmc.trans (by rw [hmc]), trest⟩

end Sys2Proof.Machine
end

section
/-! SUPPORT. The drain of a restart at the end of its step, and RESTART. -/

namespace Sys2Proof.Machine

/-! ## The tests at the end of the step -/

section
variable {w : Work}

theorem Work.testSessionEnd_holding (h : w.toState.holdsNothing = false) : w.testSessionEnd = w := by
  unfold Work.testSessionEnd
  split
  · rfl
  · simp [h]

theorem Work.testDrainDone_holding (h : w.toState.holdsNothing = false) (hl : w.mc.leaving = false) :
    w.testDrainDone = w := by
  unfold Work.testDrainDone
  split
  · rfl
  · simp [State.drainIsDone, h, hl]

theorem Work.enqueue_leave (w : Work) : w.enqueue .leave = { w with lc := w.lc.place .leave } := by
  simp [Work.enqueue, State.mayQueue, ofHoldings, kindOf, Link.enqueue]

/-- With the drain done and the transmitter on, a LEAVE is queued and waited for (R181). -/
theorem Work.testDrainDone_leaves (hd : w.toState.draining = true) (hl : w.mc.leaving = false)
    (hdone : w.toState.drainIsDone = true) (htx : w.lc.tx = .on) (hroom : w.lc.roomFor 1) :
    w.testDrainDone = { w with lc := w.lc.place .leave, mc := { w.mc with leaving := true } } := by
  have hq : (w.lc.place .leave).leaveQueued = true := by
    have hx := w.lc.place_mem .leave hroom.1
    rw [Link.leaveQueued, Link.anyQueued, ← List.any_append]
    exact List.any_eq_true.2 ⟨_, List.mem_append_left _ hx, rfl⟩
  have hon : (w.lc.place .leave).tx = .on := by
    rw [w.lc.place_sameBut .leave]
    exact htx
  unfold Work.testDrainDone
  rw [if_neg (by simp [hd])]
  simp [hl, hdone, htx, Work.enqueue_leave, hq, hon]

/-- With the drain done and the transmitter in probe or off, a restart reaches its clearing point (R181). -/
theorem Work.testDrainDone_concludes (hd : w.toState.draining = true) (hl : w.mc.leaving = false)
    (hdone : w.toState.drainIsDone = true) (htx : w.lc.tx ≠ .on) (hr : w.mc.restarting = true) :
    w.testDrainDone = ({ w with mc := { w.mc with leaving := false } } : Work).clearingPoint := by
  unfold Work.testDrainDone
  rw [if_neg (by simp [hd])]
  simp [hl, hdone, htx, Work.concludeDrain, hr]

/-- Where nothing is held, the beginning of the end of a step changes the drain list, the session and the bookings only. -/
theorem Work.endBegins_nothing (h : w.toState.holdsNothing = true) (hc : w.conflictLost = []) {v : Work}
    (hv : w.lostCompletes.handConflict.testSessionEnd = v) :
    (v.now = w.now ∧ v.io = w.io ∧ v.cpi = w.cpi ∧ v.pending = w.pending) ∧ v.mc = w.mc ∧ v.lc = w.lc ∧ v.map = w.map ∧
    v.bu = w.bu ∧ v.ptu = w.ptu ∧ v.ae = w.ae ∧ v.ci = w.ci ∧ v.hc = { w.hc with drains := v.hc.drains } ∧
    v.conflictLost = [] ∧ v.bk.startAt = w.bk.startAt ∧
    (w.toState.sessionEnding = false → v.ss = w.ss ∧ v.bk = w.bk) := by
  have hlost := Work.lostCompletes_none fun q => ((w.toState.holdsNothing_iff.1 h) q).2.2
  have hkeep := w.lostCompletes_keeps
  generalize w.lostCompletes = u at *
  have hlc : u.lc = w.lc := by rw [hlost]
  have hmap : u.map = w.map := by rw [hlost]
  have hhc : u.hc = { w.hc with drains := u.hc.drains } := congrArg (fun x : Work => x.hc) hlost
  clear hlost
  have hconf : u.handConflict = u := by
    unfold Work.handConflict
    rw [show u.conflictLost = [] by simp [hkeep, hc]]
  rw [hconf] at hv
  have hstart := u.testSessionEnd_startAt
  have hcalm := u.testSessionEnd_calm
  have hend := u.testSessionEnd_keeps
  rw [hv] at hstart hcalm hend
  obtain ⟨know, kio, kcpi, kmc, kbu, kptu, kae, kss, kci, kbk, kpend, -, -, -, -, klost, -⟩ := hkeep
  obtain ⟨enow, eio, ecpi, emc, elc, ebu, emap, eptu, eae, ehc, eci, epend, -, -, elost, -⟩ := hend
  refine ⟨⟨enow.trans know, eio.trans kio, ecpi.trans kcpi, epend.trans kpend⟩, emc.trans kmc, elc.trans hlc, emap.trans hmap,
    ebu.trans kbu, eptu.trans kptu, eae.trans kae, eci.trans kci, ?_, elost.trans (klost.trans hc), hstart.trans (by rw [kbk]),
    fun hs => ?_⟩
  · rw [ehc]
    exact hhc
  · have hu : u.toState.sessionEnding = false := by
      rwa [State.sessionEnding, State.sessState, kss]
    rw [hcalm hu]
    exact ⟨kss, kbk⟩

/-- The end of a step of a withdrawal, after its tests: the blocks that stay. -/
theorem Work.wrapUp_idle (h : w.toState.mayTake = false) {t : State}
    (ht : w.holdingsProgress.formAndSend.flushNotices.toState = t) :
    (t.now = w.now ∧ t.io = w.io ∧ t.cpi = w.cpi ∧ t.pending = w.pending) ∧ t.mc = w.mc ∧ t.lc = w.lc ∧ t.map = w.map ∧
    t.bu = w.bu ∧ t.ptu = w.ptu ∧ t.ae = w.ae ∧ t.ss = w.ss := by
  have hlc := (Work.holdingsProgress_idle h).1
  subst ht
  simp [hlc]

end

end Sys2Proof.Machine
end

section
/-! SUPPORT. RESTART. -/

namespace Sys2Proof.Machine

/-- The step of a RESTART that is taken, once it is marked as in progress (R181). -/
def State.restartWork (s : State) : Work := { s.begin with mc := { s.mc with restarting := true } }

section
variable {s : State}

theorem exec_restart (h : s.started = true) :
    exec (.restart (.whole [])) s = .next (s.begin.restart.finish.respond (.accepted 0x23 [])) := by
  have hr : firstRefusal [badLength (.whole []) 0, s.notStarted] = none := by
    simp [badLength, State.notStarted, h]
  simp only [exec, execRestart, command_taken _ _ _ _ hr, goOn_eq]

theorem restart_clears (hr : s.mc.restarting = false) (hm : s.mc.mode = .listening ∨ s.mc.mode = .tripped) :
    s.begin.restart = (s.restartWork.suspendCause .offline).clearingPoint :=
  (if_neg (fun h => Bool.noConfusion (hr.symm.trans h))).trans (if_pos hm)

theorem restart_drains (hr : s.mc.restarting = false) (hm : s.working = true ∨ s.mc.mode = .offline) :
    s.begin.restart = s.restartWork.beginDrain := by
  refine (if_neg (fun h => Bool.noConfusion (hr.symm.trans h))).trans (if_neg fun h => ?_)
  change s.mc.mode = .listening ∨ s.mc.mode = .tripped at h
  rcases h with h | h <;> simp [State.working, h] at hm

/-! ## What a restart drains -/

theorem State.drainedFor_held (s : State) (r : DrainReason) (q : Nat) :
    s.drainedFor r q ≠ .mine ∧ s.drainedFor r q ≠ .pending ∧
    ((s.drainedFor r q).isDraining = true ↔ s.entry q = .mine ∨ (s.entry q).isDraining = true) := by
  have hvacant : s.vacant q ≠ .mine ∧ s.vacant q ≠ .pending ∧ (s.vacant q).isDraining = false := by
    unfold State.vacant
    split <;> simp [QEntry.isDraining]
  unfold State.drainedFor
  cases he : s.entry q with
  | pending => simpa [QEntry.isDraining] using hvacant
  | _ => simp [QEntry.isDraining]

/-- With no Mine quantum P_set is formed to 0 (R129). -/
theorem State.pSet_noMine (h : s.setpointFormed) (hm : s.mineCount = 0) : s.ci.pSet = 0 := by
  rw [((setpointFormed_iff s).1 h).1]
  unfold State.formSetpoint
  simp [hm]

/-- What the beginning of a restart's drain keeps, and what it makes of the map and the session. -/
theorem State.restartDrain (hp : s.pendingSettles) {v : Work} (hv : s.restartWork.beginDrain = v) :
    (v.now = s.now ∧ v.io = s.io ∧ v.cpi = s.cpi ∧ v.pending = s.pending) ∧ v.mc = { s.mc with restarting := true } ∧
    s.lc.sameBut v.lc ∧ v.bu = s.bu ∧ v.ptu = s.ptu ∧ v.ae = s.ae ∧ v.ci = s.ci ∧ v.bk = s.bk ∧ v.conflictLost = [] ∧
    v.hc.rotate = s.hc.rotate ∧ (∀ q, v.toState.entry q = s.drainedFor .shutdown q) ∧
    (s.charging = true → v.ss.session.map Session.phase = some (.suspended .offline)) := by
  have hentry := Work.beginDrain_entry (w := s.restartWork) hp
  have hlc := s.restartWork.beginDrain_lc
  have hrotate := s.restartWork.beginDrain_rotate
  have hss := s.restartWork.beginDrain_ss
  have hkeep := s.restartWork.beginDrain_keeps
  rw [hv] at hentry hlc hrotate hss hkeep
  obtain ⟨know, kio, kcpi, kmc, kbu, kptu, kae, kci, kbk, kpend, -, -, -, klost, -⟩ := hkeep
  refine ⟨⟨know, kio, kcpi, kpend⟩, kmc, hlc, kbu, kptu, kae, kci, kbk, klost, hrotate, hentry, fun hc => ?_⟩
  rw [hss]
  exact Work.suspendCause_charging (w := s.restartWork) hc _

/-- Where a quantum is held, the step of a restart ends with its drain under way. -/
theorem State.restart_holding (hheld : 0 < s.mineCount + s.drainingCount)
    (hl : s.mc.leaving = false) (hlost : ¬(s.ci.conv = .lost ∧ s.ci.lostQuiesce = .expired)) (hp : s.pendingSettles)
    {t : State} (ht : s.restartWork.beginDrain.finish = t) :
    t.mc = { s.mc with restarting := true } ∧ (∀ q, t.entry q = s.drainedFor .shutdown q) ∧
    (s.charging = true → t.ss.session.map Session.phase = some (.suspended .offline)) ∧
    t.bu = s.bu ∧ t.ptu = s.ptu ∧ t.ae = s.ae := by
  obtain ⟨-, hmc, -, hbu, hptu, hae, hci, -, hconf, -, hentry, hphase⟩ := State.restartDrain hp rfl
  generalize s.restartWork.beginDrain = v at *
  have hholds : v.toState.holdsNothing = false := by
    refine Bool.eq_false_iff.2 fun hn => ?_
    rw [State.holdsNothing_iff] at hn
    have hnone : ∀ q, ¬(s.entry q = .mine ∨ (s.entry q).isDraining = true) := fun q hq => by
      have := (hn q).2.2
      rw [hentry, (s.drainedFor_held .shutdown q).2.2.2 hq] at this
      cases this
    have hmine := s.mineCount_eq_zero_iff.2 fun q hq => hnone q (.inl hq)
    have hdrain := s.drainingCount_eq_zero_iff.2 fun q => Bool.eq_false_iff.2 fun hq => hnone q (.inr hq)
    omega
  have hsettle : v.finish = v.holdingsProgress.formAndSend.flushNotices.toState := by
    have h1 : v.lostCompletes = v := if_neg (by rw [hci]; exact hlost)
    have h2 : v.handConflict = v := by
      unfold Work.handConflict
      rw [hconf]
    rw [Work.finish, Work.settle, h1, h2, Work.testSessionEnd_holding hholds,
      Work.testDrainDone_holding hholds (by rw [hmc]; exact hl), Work.testSessionEnd_holding hholds]
  obtain ⟨-, tmc, -, tmap, tbu, tptu, tae, tss⟩ :=
    Work.wrapUp_idle (w := v) (by simp [State.mayTake, State.withdrawing, hmc]) (hsettle.symm.trans ht)
  refine ⟨tmc.trans hmc, fun q => (entry_eq_of_map _ _ tmap q).trans (hentry q), fun hc => ?_, tbu.trans hbu,
    tptu.trans hptu, tae.trans hae⟩
  rw [tss]
  exact hphase hc

/-- Where nothing is held and no own CLAIM awaits its echo, the step of a restart comes to its drain's end. -/
theorem State.restart_nothing (hm : s.working = true ∨ s.mc.mode = .offline) (hmine : s.mineCount = 0)
    (hdrain : s.drainingCount = 0) (hno : s.noClaimAwaiting = true) (hp : s.pendingSettles) {v : Work}
    (hv : s.restartWork.beginDrain.lostCompletes.handConflict.testSessionEnd = v) :
    (v.now = s.now ∧ v.io = s.io ∧ v.cpi = s.cpi ∧ v.pending = s.pending) ∧ v.mc = { s.mc with restarting := true } ∧
    v.lc = s.restartWork.beginDrain.lc ∧ v.bu = s.bu ∧ v.ptu = s.ptu ∧ v.ae = s.ae ∧ v.ci = s.ci ∧ v.conflictLost = [] ∧
    v.hc.rotate = s.hc.rotate ∧ (∀ q, v.toState.entry q = s.drainedFor .shutdown q) ∧
    v.toState.draining = true ∧ v.toState.drainIsDone = true ∧ v.bk.startAt = s.bk.startAt ∧
    (s.charging = true → v.ss.session.map Session.phase = some (.suspended .offline) ∧ v.bk = s.bk) := by
  obtain ⟨⟨bnow, bio, bcpi, bpend⟩, bmc, -, bbu, bptu, bae, bci, bbk, bconf, brotate, bentry, bphase⟩ :=
    State.restartDrain hp rfl
  have bclaim := Work.beginDrain_noClaimAwaiting (w := s.restartWork) hno
  generalize s.restartWork.beginDrain = w at *
  have hnothing : w.toState.holdsNothing = true := w.toState.holdsNothing_iff.2 fun q => by
    rw [bentry]
    obtain ⟨h1, h2, h3⟩ := s.drainedFor_held .shutdown q
    refine ⟨h1, h2, Bool.eq_false_iff.2 fun hd => ?_⟩
    rcases h3.1 hd with h | h
    · exact s.mineCount_eq_zero_iff.1 hmine q h
    · exact Bool.noConfusion ((s.drainingCount_eq_zero_iff.1 hdrain q).symm.trans h)
  obtain ⟨⟨vnow, vio, vcpi, vpend⟩, vmc, vlc, vmap, vbu, vptu, vae, vci, vhc, vconf, vstart, vss⟩ :=
    Work.endBegins_nothing hnothing bconf hv
  have vcount : v.toState.holdsNothing = true := by
    simpa only [State.holdsNothing, State.mineCount, State.pendingCount, State.drainingCount, vmap] using hnothing
  have vclaim : v.toState.noClaimAwaiting = true := by
    unfold State.noClaimAwaiting at bclaim ⊢
    rwa [show v.hc.claim = w.hc.claim by rw [vhc]]
  refine ⟨⟨vnow.trans bnow, vio.trans bio, vcpi.trans bcpi, vpend.trans bpend⟩, vmc.trans bmc, vlc, vbu.trans bbu,
    vptu.trans bptu, vae.trans bae, vci.trans bci, vconf, ?_, fun q => (entry_eq_of_map _ _ vmap q).trans (bentry q), ?_, ?_,
    vstart.trans (by rw [bbk]), fun hc => ?_⟩
  · rw [vhc]
    exact brotate
  · have hmode : v.mc.mode = s.mc.mode := by rw [vmc, bmc]
    rcases hm with hm | hm
    · have hw : v.toState.working = true := by simpa [State.working, hmode] using hm
      simp [State.draining, hw, vmc, bmc]
    · simp [State.draining, hm, vmc, bmc]
  · rw [State.drainIsDone, vcount, vclaim]
    rfl
  · obtain ⟨hss, hbk⟩ := vss (sessionEnding_of_suspended (bphase hc))
    rw [hss, hbk]
    exact ⟨bphase hc, bbk⟩

/-- With the transmitter on and room in the queue, the LEAVE is queued (R181). -/
theorem State.restart_leaves (hm : s.working = true ∨ s.mc.mode = .offline) (hmine : s.mineCount = 0)
    (hdrain : s.drainingCount = 0) (hno : s.noClaimAwaiting = true) (hl : s.mc.leaving = false) (hp : s.pendingSettles)
    (htx : s.lc.tx = .on) (h8 : s.pendingCount ≤ 8) (hroom : s.lc.roomFor 2) {t : State}
    (ht : s.restartWork.beginDrain.finish = t) :
    t.mc = { s.mc with restarting := true, leaving := true } ∧ (∀ q, t.entry q = s.drainedFor .shutdown q) ∧
    t.queues (fun f => f == .leave) ∧
    (s.charging = true → t.ss.session.map Session.phase = some (.suspended .offline)) ∧
    t.bu = s.bu ∧ t.ptu = s.ptu ∧ t.ae = s.ae := by
  have broom := Work.beginDrain_room (w := s.restartWork) hp h8 hroom
  have btx : s.restartWork.beginDrain.lc.tx = .on := by
    rw [s.restartWork.beginDrain_lc]
    exact htx
  generalize hv : s.restartWork.beginDrain.lostCompletes.handConflict.testSessionEnd = v
  obtain ⟨-, vmc, vlc, vbu, vptu, vae, -, -, -, ventry, vdrain, vdone, -, vphase⟩ :=
    State.restart_nothing hm hmine hdrain hno hp hv
  rw [← vlc] at broom btx
  have hsettle : s.restartWork.beginDrain.finish =
      v.testDrainDone.testSessionEnd.holdingsProgress.formAndSend.flushNotices.toState := by
    rw [Work.finish, Work.settle, hv]
  rw [Work.testDrainDone_leaves vdrain (by rw [vmc]; exact hl) vdone btx broom] at hsettle
  generalize hu : ({ v with lc := v.lc.place .leave, mc := { v.mc with leaving := true } } : Work) = u at hsettle
  have umc : u.mc = { s.mc with restarting := true, leaving := true } := by rw [← hu, vmc]
  have uss : u.ss = v.ss := by rw [← hu]
  have ulc : u.lc = v.lc.place .leave := by rw [← hu]
  obtain ⟨-, tmc, tlc, tmap, tbu, tptu, tae, tss⟩ := Work.wrapUp_idle (w := u.testSessionEnd)
    (by simp [State.mayTake, State.withdrawing, umc]) (hsettle.symm.trans ht)
  simp only [Work.testSessionEnd_keeps] at tmc tlc tmap tbu tptu tae
  refine ⟨tmc.trans umc, fun q => ?_, ?_, fun hc => ?_, ?_, ?_, ?_⟩
  · rw [entry_eq_of_map _ v.toState (by rw [tmap, ← hu]), ventry]
  · rw [State.queues, tlc, ulc]
    exact List.any_eq_true.2 ⟨_, List.mem_append_left _ (v.lc.place_mem .leave broom.1), by simp⟩
  · rw [tss, Work.testSessionEnd_calm _ (sessionEnding_of_suspended (by rw [uss]; exact (vphase hc).1)), uss]
    exact (vphase hc).1
  · rw [tbu, ← hu, vbu]
  · rw [tptu, ← hu, vptu]
  · rw [tae, ← hu, vae]

/-- With the transmitter in probe or off, the clearing point comes in the step (R181, R182). -/
theorem State.restart_clearsAtOnce (hm : s.working = true ∨ s.mc.mode = .offline) (hmine : s.mineCount = 0)
    (hdrain : s.drainingCount = 0) (hno : s.noClaimAwaiting = true) (hl : s.mc.leaving = false) (hp : s.pendingSettles)
    (htx : s.lc.tx ≠ .on) (htrip : s.io.trip = false) {t : State} (ht : s.restartWork.beginDrain.finish = t) :
    s.cleared t ∧ t.bk.startAt = s.bk.startAt ∧
    (s.charging = true → s.bookingsNotify → t.ss.session.map Session.phase = some (.suspended .offline)) := by
  have btx : s.restartWork.beginDrain.lc.tx = s.lc.tx := by
    rw [s.restartWork.beginDrain_lc]
    rfl
  generalize hv : s.restartWork.beginDrain.lostCompletes.handConflict.testSessionEnd = v
  obtain ⟨⟨vnow, vio, vcpi, -⟩, vmc, vlc, vbu, -, vae, vci, vconf, vrotate, -, vdrain, vdone, vstart, vphase⟩ :=
    State.restart_nothing hm hmine hdrain hno hp hv
  have hconclude := Work.testDrainDone_concludes vdrain (by rw [vmc]; exact hl) vdone (by rw [vlc, btx]; exact htx) (by rw [vmc])
  generalize hu : ({ v with mc := { v.mc with leaving := false } } : Work) = u at hconclude
  have umc : u.mc = { s.mc with restarting := true, leaving := false } := by rw [← hu, vmc]
  have umode : u.mc.mode ≠ .tripped := by
    rw [umc]
    intro h
    change s.mc.mode = .tripped at h
    rcases hm with hm | hm
    · simp [State.working, h] at hm
    · simp [h] at hm
  have utrip : u.io.trip = false := by rw [← hu, vio, htrip]
  have uconf : u.conflictLost = [] := by rw [← hu, vconf]
  obtain ⟨-, hidle, hstill, -⟩ := Work.clearingPoint_idle umode utrip
  rw [Work.finish_of_drainDone ((congrArg Work.testDrainDone hv).trans hconclude) hidle hstill (by simp [uconf])] at ht
  obtain ⟨hcleared, -, hstart, hphase⟩ := Work.clearingPoint_cleared umode utrip uconf ht
  refine ⟨State.cleared_congr (by rw [← hu, vnow]) (by rw [← hu, vcpi]) (by rw [umc]) (by rw [← hu, vbu]) (by rw [← hu, vae])
    (by rw [← hu, vrotate]) (by rw [← hu, vci]) hcleared, hstart.trans (by rw [← hu, vstart]), fun hc hn => ?_⟩
  obtain ⟨hsusp, hbk⟩ := vphase hc
  exact hphase _ (by rw [← hu]; exact hsusp) (by rw [← hu]; exact State.bookingsNotify_congr hbk hn)

end

end Sys2Proof.Machine
end

section
/-! SUPPORT. RESTART in LISTENING and TRIPPED, and the settlement. -/

namespace Sys2Proof.Machine

/-- With no attempt in progress no frame is on the line. -/
theorem Link.empty_of_onLine {l : Link} (ha : l.attempt = none) (h : ∀ f ∈ l.queue ++ l.waiting, l.onLine f = true) :
    l.queue = [] ∧ l.waiting = [] := by
  rw [← List.append_eq_nil_iff]
  refine List.eq_nil_iff_forall_not_mem.2 fun f hf => ?_
  have := h f hf
  unfold Link.onLine at this
  rw [ha] at this
  cases this

section
variable {s t : State}

/-- The blocks that the clearing point leaves alike in LISTENING and TRIPPED (R182). -/
structure State.ClearedBlocks (s t : State) : Prop where
  mode : t.mc.mode = s.mc.mode
  restarting : t.mc.restarting = false
  duplicate : t.mc.duplicate = false
  isolateReq : t.mc.isolateReq = s.mc.isolateReq
  entry : ∀ q, q < 128 → t.entry q = if q < s.conf.bCfg then .free else .withdrawn
  bu : t.bu = { offers := [], seen := false, bEff := s.conf.bCfg, ownSeq := s.bu.ownSeq }
  peers : ∀ k, k < s.conf.nSt → (t.ptu.entries[k]?).map (fun y => (y.state, y.fpSeen)) =
    some (if k = s.own then .self else .absent, false)
  lineHeard : t.ptu.lineHeard = none
  sticky : t.ae.sticky = CompFlags.clear
  hc : t.hc = { Holdings.reset s.own with rotate := s.hc.rotate }
  counts : t.lc.txErrors = 0 ∧ t.lc.rxErrors = 0 ∧ t.lc.muteHold = 1000
  frames : s.lc.attempt = none → t.lc.queue = [] ∧ t.lc.waiting = []
  phase : s.charging = true → s.bookingsNotify → t.ss.session.map Session.phase = some (.suspended .offline)
  startAt : t.bk.startAt = s.bk.startAt
  ci : t.ci = { s.ci with
    pSet := 0, sendValue := 0, outbox := t.ci.outbox
    inhibit := s.ci.inhibit || s.ci.causeTripped || s.ci.causeLost }

/-- A restart in LISTENING enters LISTENING afresh. -/
theorem State.restart_listening (hm : s.mc.mode = .listening) (htrip : s.io.trip = false)
    (ht : ((s.restartWork.suspendCause .offline).clearingPoint).finish = t) :
    s.ClearedBlocks t ∧ t.mc.listenAt = some (s.now + s.conf.lSil * s.conf.tEp) ∧ t.mc.solo = false ∧ t.ae.seq = 0 ∧
    t.ae.result = none ∧ t.ae.epochAt = none := by
  have hcharge : s.charging = true →
      (s.restartWork.suspendCause .offline).ss.session.map Session.phase = some (.suspended .offline) :=
    fun hc => Work.suspendCause_charging (w := s.restartWork) hc _
  have hkeep := s.restartWork.suspendCause_keeps .offline
  generalize s.restartWork.suspendCause .offline = w at *
  obtain ⟨wnow, wio, wcpi, wmc, wlc, wbu, -, -, wae, whc, wci, wbk, -, -, -, -, -, wconf, -⟩ := hkeep
  have wmode : w.mc.mode ≠ .tripped := by
    rw [wmc]
    exact fun h => by cases hm.symm.trans h
  obtain ⟨hcleared, hattempt, hstart, hphase⟩ :=
    Work.clearingPoint_cleared wmode (by rw [wio]; exact htrip) wconf ht
  obtain ⟨cmc, centry, cbu, cptu, cpeers, cae, chc, -, clc, cerr, cline, cci⟩ :=
    State.cleared_congr (s := s) wnow wcpi (by rw [wmc]; rfl) (by rw [wbu]; rfl) wae (by rw [whc]; rfl) wci hcleared
  refine ⟨⟨by rw [cmc, hm], by rw [cmc], by rw [cmc], by rw [cmc], centry, cbu, cpeers, by rw [cptu], by rw [cae], chc,
    ⟨cerr.1, cerr.2.1, clc.2.1⟩, fun ha => ?_, fun hc hn => ?_, hstart.trans (by rw [wbk]; rfl), cci⟩,
    by rw [cmc], by rw [cmc], by rw [cae], by rw [cae], by rw [cae]⟩
  · refine Link.empty_of_onLine ?_ cline
    rw [hattempt, wlc, show s.restartWork.lc.attempt = s.lc.attempt from rfl, ha]
    rfl
  · exact hphase _ (hcharge hc) (State.bookingsNotify_congr wbk hn)

/-- A restart in TRIPPED keeps the record, and the station stays TRIPPED. -/
theorem State.restart_tripped (hm : s.mc.mode = .tripped)
    (ht : ((s.restartWork.suspendCause .offline).clearingPoint).finish = t) :
    s.ClearedBlocks t ∧ t.ae = { s.ae with sticky := CompFlags.clear } := by
  have hcharge : s.charging = true →
      (s.restartWork.suspendCause .offline).ss.session.map Session.phase = some (.suspended .offline) :=
    fun hc => Work.suspendCause_charging (w := s.restartWork) hc _
  have hkeep := s.restartWork.suspendCause_keeps .offline
  generalize s.restartWork.suspendCause .offline = w at *
  obtain ⟨wnow, -, wcpi, wmc, wlc, wbu, -, -, wae, whc, wci, wbk, -, -, -, -, -, wconf, -⟩ := hkeep
  have hconf : w.toState.conf = s.conf := by simp only [State.conf, wcpi]; rfl
  have hown : w.toState.own = s.own := by simp only [State.own, wcpi]; rfl
  obtain ⟨tmc, tmap, tbu, tptu, tae, thc, tlc, tci, tstart, tphase⟩ :=
    Work.clearingPoint_tripped (by rw [wmc]; exact hm) wconf ht
  rw [wmc] at tmc
  rw [hconf] at tmap
  rw [hconf, wbu] at tbu
  rw [hconf, hown] at tptu
  rw [wae] at tae
  rw [hown, whc] at thc
  rw [wlc] at tlc
  rw [wci] at tci
  refine ⟨⟨by rw [tmc]; rfl, by rw [tmc], by rw [tmc], by rw [tmc]; rfl, fun q hq => ?_, tbu, fun k hk => ?_, by rw [tptu],
    by rw [tae], thc, ?_, fun ha => ?_, fun hc _ => tphase _ (hcharge hc), tstart.trans (by rw [wbk]; rfl), tci⟩, tae⟩
  · rw [State.entry, tmap, startMap_getD _ _ hq]
  · rw [tptu]
    exact freshTable_peer _ hk
  · rw [tlc]
    exact ⟨rfl, rfl, rfl⟩
  · refine Link.empty_of_onLine ?_ fun x hx => ?_
    · rw [tlc]
      change (s.lc.attempt.map Attempt.asLast) = none
      rw [ha]
      rfl
    · rw [tlc] at hx ⊢
      exact Link.onLine_of_emptied hx

end

theorem restart_outer (s : State) : s.begin.restart.finish.now = s.now ∧ s.begin.restart.finish.io = s.io ∧
    s.begin.restart.finish.cpi = s.cpi ∧ s.begin.restart.finish.pending = s.pending := by
  simp

theorem respond_restart (s : State) :
    (s.begin.restart.finish.respond (.accepted 0x23 [])).answered s .accepted none [] :=
  respond_answered s _ _ (restart_outer s).1 (restart_outer s).2.2.1

/-- Once every Mine quantum drains, P_set is 0. -/
theorem State.pSet_drained {s t : State} (h : t.setpointFormed) (he : ∀ q, t.entry q = s.drainedFor .shutdown q) :
    t.ci.pSet = 0 :=
  State.pSet_noMine h (t.mineCount_eq_zero_iff.2 fun q => by
    rw [he]
    exact (s.drainedFor_held .shutdown q).1)

/-- A state that keeps these blocks of another differs from it in the others, the response among them, only. -/
theorem State.eq_of_answered {a t : State} (hnow : t.now = a.now) (hio : t.io = a.io) (hpend : t.pending = a.pending)
    (hbu : t.bu = a.bu) (hptu : t.ptu = a.ptu) (hae : t.ae = a.ae) :
    t = { a with
      map := t.map, mc := t.mc, lc := t.lc, hc := t.hc, ci := t.ci, ss := t.ss, bk := t.bk, cpi := t.cpi } := by
  rw [← hnow, ← hio, ← hpend, ← hbu, ← hptu, ← hae]

/-- Settles O23: in LISTENING and TRIPPED the clearing point comes at once, and elsewhere the drain begins, which with nothing
held is done in the same step. -/
theorem restartReachesItsClearingPoint : Obligations.RestartReachesItsClearingPoint := by
  have hstarted : ∀ s : State, s.working = true ∨ s.mc.mode = .offline → s.started = true := fun s hm => by
    rcases hm with hm | hm
    · unfold State.started
      cases h : s.mc.mode <;> simp_all [State.working]
    · simp [State.started, hm]
  refine ⟨fun s hm hr => ?_, fun s hm hr hheld hl hlost hp => ⟨_, exec_restart (hstarted s hm), ?_⟩,
    fun s hm hr hmine hdrain hno hl hp htx h8 hq hw => ⟨_, exec_restart (hstarted s hm), ?_⟩,
    fun s hm hr hmine hdrain hno hl hp htx htrip => ⟨_, exec_restart (hstarted s hm), ?_⟩⟩
  · have hst : s.started = true := by
      unfold State.started
      rcases hm with hm | hm <;> simp [hm]
    refine ⟨_, exec_restart hst, ?_⟩
    have hrun := restart_clears hr (hm.imp_left And.left)
    have hans := respond_restart s
    have hout := restart_outer s
    generalize ht : s.begin.restart.finish = t at *
    rw [hrun] at ht
    obtain ⟨hnow, hio, -, hpend⟩ := hout
    have hblocks : s.ClearedBlocks t := hm.elim (fun h => (State.restart_listening h.1 h.2 ht).1) fun h => (State.restart_tripped h ht).1
    obtain ⟨b1, b2, b3, b4, b5, b6, b7, b8, b9, b10, ⟨b11, b12, b13⟩, b14, b15, b16, b17⟩ := hblocks
    refine ⟨hans, b1, b2, b3, b4, b5, b6, b7, b8, b9, b10, b11, b12, b13, b14, fun h => ?_, fun h => ?_, b15, b16,
      ⟨hnow, hio, hpend⟩, b17⟩
    · rcases hm with hl | htr
      · exact (State.restart_listening hl.1 hl.2 ht).2
      · cases h.symm.trans htr
    · exact (State.restart_tripped h ht).2
  · have hans := respond_restart s
    obtain ⟨hnow, hio, -, hpend⟩ := restart_outer s
    have hformed := finish_formed s.begin.restart
    generalize ht : s.begin.restart.finish = t at *
    rw [restart_drains hr hm] at ht
    obtain ⟨tmc, tentry, tphase, tbu, tptu, tae⟩ := State.restart_holding hheld hl hlost hp ht
    exact ⟨hans, tmc, fun q _ => tentry q, State.pSet_drained hformed tentry, tphase,
      State.eq_of_answered hnow hio hpend tbu tptu tae⟩
  · have hans := respond_restart s
    obtain ⟨hnow, hio, -, hpend⟩ := restart_outer s
    have hformed := finish_formed s.begin.restart
    generalize ht : s.begin.restart.finish = t at *
    rw [restart_drains hr hm] at ht
    obtain ⟨tmc, tentry, tleave, tphase, tbu, tptu, tae⟩ :=
      State.restart_leaves hm hmine hdrain hno hl hp htx h8 ⟨by omega, hw⟩ ht
    exact ⟨hans, tmc, fun q _ => tentry q, tleave, State.pSet_drained hformed tentry, tphase,
      State.eq_of_answered hnow hio hpend tbu tptu tae⟩
  · have hans := respond_restart s
    obtain ⟨hnow, hio, -, hpend⟩ := restart_outer s
    generalize ht : s.begin.restart.finish = t at *
    rw [restart_drains hr hm] at ht
    obtain ⟨tcleared, tstart, tphase⟩ := State.restart_clearsAtOnce hm hmine hdrain hno hl hp htx htrip ht
    refine ⟨hans, tcleared, tphase, tstart, ?_⟩
    rw [State.eq_of_outer hnow hio hpend]
    rfl

end Sys2Proof.Machine
end

section
/-! SUPPORT. What each operation leaves of the claim in settle and of the drain list, and what every operation keeps of their
agreement with the map and with the CLAIM frames. -/

namespace Sys2Proof.Machine

/-! ## The claim in settle and the drain list -/

/-- The quanta of the drain list, in order. -/
def Holdings.drainQuanta (h : Holdings) : List Nat := h.drains.map Drain.quantum

theorem settling_congr {s t : State} (h : t.hc.claim = s.hc.claim) : t.settling = s.settling := by
  simp [State.settling, h]

theorem Work.leaveClaim_hc (w : Work) (q : Nat) :
    (w.leaveClaim q).hc = { w.hc with claim := (w.leaveClaim q).hc.claim } := by
  unfold Work.leaveClaim
  dsimp only
  (repeat' split) <;> rfl

/-- A quantum that leaves the claim in settle is no longer of it, and the others stay (R20). -/
theorem Work.leaveClaim_settling (w : Work) (q : Nat) :
    (w.leaveClaim q).toState.settling = w.toState.settling.filter (· ≠ q) := by
  unfold Work.leaveClaim
  split
  · rename_i qs t hc
    have hs : w.toState.settling = qs := by simp [State.settling, hc]
    rw [hs]
    dsimp only
    split
    · split
      · rename_i hrest
        rw [hrest]
        rfl
      · rfl
    · rename_i hq
      rw [hs, List.filter_eq_self.2]
      intro a ha
      simp only [List.contains_iff_mem] at hq
      simpa using fun e : a = q => hq (e ▸ ha)
  · rename_i hne
    have hs : w.toState.settling = [] := by
      unfold State.settling
      split
      · rename_i qs t hc
        exact absurd hc (hne qs t)
      · rfl
    rw [hs]
    rfl

/-- A fold in which each quantum leaves the claim. -/
theorem foldl_settling (f : Work → Nat → Work)
    (hf : ∀ w q, (f w q).toState.settling = w.toState.settling.filter (· ≠ q)) (qs : List Nat) (w : Work) :
    (qs.foldl f w).toState.settling = w.toState.settling.filter fun q => !qs.contains q := by
  induction qs generalizing w with
  | nil => simp
  | cons p qs ih =>
    rw [List.foldl_cons, ih, hf, List.filter_filter]
    refine List.filter_congr fun q _ => ?_
    by_cases h : q = p <;> simp [h]

theorem Work.enqueue_settling (w : Work) (f : Frame) : (w.enqueue f).toState.settling = w.toState.settling :=
  settling_congr (by simp)

/-- What is given up leaves the claim in settle (R22). -/
theorem Work.giveUpPending_settling (w : Work) (b : Bool) (qs : List Nat) :
    (w.giveUpPending b qs).toState.settling =
      w.toState.settling.filter fun q => !(qs.filter fun q => w.toState.entry q == .pending).contains q := by
  have hfold := foldl_settling (fun (v : Work) q => (v.setEntry q (w.toState.vacant q)).leaveClaim q)
    (fun v q => by rw [Work.leaveClaim_settling]; rfl) (qs.filter fun q => w.toState.entry q == .pending) w
  unfold Work.giveUpPending
  dsimp only
  split
  · rw [Work.enqueue_settling, hfold]
  · exact hfold

theorem Work.giveUpPending_hc (w : Work) (b : Bool) (qs : List Nat) :
    (w.giveUpPending b qs).hc = { w.hc with claim := (w.giveUpPending b qs).hc.claim } := by
  have hfold : ∀ qs : List Nat,
      (qs.foldl (fun (v : Work) q => (v.setEntry q (w.toState.vacant q)).leaveClaim q) w).hc = { w.hc with
        claim := (qs.foldl (fun (v : Work) q => (v.setEntry q (w.toState.vacant q)).leaveClaim q) w).hc.claim } := by
    intro qs
    refine foldl_induct (fun v : Work => v.hc = { w.hc with claim := v.hc.claim }) _ (fun v q hv => ?_) qs w rfl
    rw [Work.leaveClaim_hc, Work.setEntry_hc, hv]
  unfold Work.giveUpPending
  dsimp only
  split
  · simp only [Work.enqueue_keeps]
    exact hfold _
  · exact hfold _

theorem Work.startDrain_hc (w : Work) (r : DrainReason) (b : Option Nat) (qs : List Nat) :
    (w.startDrain r b qs).hc = { w.hc with
      drains := w.hc.drains ++ (qs.filter fun q => w.toState.entry q == .mine).map (Drain.enter w.now) } := rfl

/-- The Mine quanta among those named join the drain list (R86). -/
theorem Work.startDrain_drainQuanta (w : Work) (r : DrainReason) (b : Option Nat) (qs : List Nat) :
    (w.startDrain r b qs).hc.drainQuanta = w.hc.drainQuanta ++ qs.filter fun q => w.toState.entry q == .mine := by
  simp [Holdings.drainQuanta, Work.startDrain_hc, Function.comp_def, Drain.enter]

theorem insertDrain_perm (d : Drain) (l : List Drain) : (insertDrain d l).Perm (d :: l) := by
  induction l with
  | nil => exact .refl _
  | cons x l ih =>
    unfold insertDrain
    split
    · exact .refl _
    · exact (ih.cons x).trans (.swap d x l)

theorem foldr_insertDrain_perm (l : List Drain) : (l.foldr insertDrain []).Perm l := by
  induction l with
  | nil => exact .refl _
  | cons d l ih => exact (insertDrain_perm d _).trans (ih.cons d)

/-- Ordering the drain list moves its entries only (R86). -/
theorem Work.orderDrains_perm (w : Work) (n : Nat) : (w.orderDrains n).hc.drains.Perm w.hc.drains := by
  have h : (w.orderDrains n).hc.drains = w.hc.drains.take n ++ (w.hc.drains.drop n).foldr insertDrain [] := rfl
  rw [h]
  conv_rhs => rw [← List.take_append_drop n w.hc.drains]
  exact (foldr_insertDrain_perm _).append_left _

theorem nodup_quantaWhere (m : List QEntry) (p : Nat → QEntry → Bool) : (quantaWhere m p).Nodup := by
  have h : (quantaWhere m p).Sublist (m.zipIdx.map Prod.snd) := by
    unfold quantaWhere
    generalize m.zipIdx = l
    induction l with
    | nil => exact .slnil
    | cons x l ih =>
      by_cases hx : p x.2 x.1 = true
      · simpa [hx] using ih
      · simpa [hx] using ih.cons x.2
  refine h.nodup ?_
  rw [List.zipIdx_map_snd]
  exact List.nodup_range'

theorem nodup_of_subperm {α : Type} {l m : List α} (h : l.Subperm m) (hm : m.Nodup) : l.Nodup := by
  obtain ⟨k, hp, hs⟩ := h
  exact hp.nodup_iff.1 (hm.sublist hs)

/-! ## CLAIM frames -/

theorem Link.claims_congr {l m : Link} (hq : m.queue = l.queue) (hw : m.waiting = l.waiting) : m.claims = l.claims := by
  simp [Link.claims, hq, hw]

theorem Work.enqueue_claims (w : Work) {f : Frame} (hf : kindOf f ≠ .claim) : (w.enqueue f).lc.claims ≤ w.lc.claims := by
  rcases w.enqueue_lc f with h | h <;> rw [h]
  simpa [hf] using w.lc.enqueue_claims f

/-- A CLAIM that leaves the queue is one less. -/
theorem Link.dropId_claims_lt {l : Link} {id : Nat} {qs : List Nat} (h : l.find id = some (.claim qs)) :
    (l.dropId id).claims < l.claims := by
  obtain ⟨x, hx, hf⟩ := Option.map_eq_some_iff.1 h
  have hid : x.id = id := by simpa using List.find?_some hx
  have hm := List.mem_of_find?_eq_some hx
  have hc : x.isClaim = true := by simp [QFrame.isClaim, hf, kindOf]
  have hsplit := List.countP_eq_countP_filter_add l.queue QFrame.isClaim fun y => decide (y.id ≠ id)
  have hpos : 0 < (l.queue.filter fun y => !decide (y.id ≠ id)).countP QFrame.isClaim :=
    List.countP_pos_iff.2 ⟨x, List.mem_filter.2 ⟨hm, by simp [hid]⟩, hc⟩
  have hdrop : (l.dropId id).claims =
      (l.queue.filter fun y => y.id ≠ id).countP QFrame.isClaim + l.waiting.countP QFrame.isClaim :=
    (Link.promote_claims _).trans (List.countP_append ..)
  have hall : l.claims = l.queue.countP QFrame.isClaim + l.waiting.countP QFrame.isClaim := List.countP_append ..
  omega

/-! ## Consistent holdings -/

/-- The drain list, the claim in settle and the CLAIM frames agree with the map (R19, R20, R28, R104). -/
structure State.Consistent (s : State) : Prop where
  drains : s.drainsAreDraining
  settles : s.pendingSettles
  claims : s.claimAlone

theorem consistent_iff (s : State) : s.Consistent ↔ s.drainsAreDraining ∧ s.pendingSettles ∧ s.claimAlone :=
  ⟨fun h => ⟨h.drains, h.settles, h.claims⟩, fun h => ⟨h.1, h.2.1, h.2.2⟩⟩

theorem drainsAreDraining_iff (s : State) : s.drainsAreDraining ↔
    (∀ q ∈ s.hc.drainQuanta, (s.entry q).isDraining = true) ∧ s.hc.drainQuanta.Nodup := by
  simp [State.drainsAreDraining, Holdings.drainQuanta]

namespace State.Consistent

section
variable {s t : State} (h : s.Consistent)
include h

theorem isDraining {q : Nat} (hq : q ∈ s.hc.drainQuanta) : (s.entry q).isDraining = true :=
  ((drainsAreDraining_iff s).1 h.drains).1 q hq

theorem nodup : s.hc.drainQuanta.Nodup := ((drainsAreDraining_iff s).1 h.drains).2

theorem pending_iff (q : Nat) : s.entry q = .pending ↔ q ∈ s.settling := h.settles.2 q

theorem claims_le : s.lc.claims ≤ if s.settling = [] then 1 else 0 := (claimAlone_iff s).1 h.claims

/-- A change under which the drain list and the claim in settle can only lose quanta, and a CLAIM can only go. -/
theorem change (hd : t.hc.drainQuanta.Subperm s.hc.drainQuanta)
    (hdm : ∀ q ∈ t.hc.drainQuanta, (s.entry q).isDraining = true → (t.entry q).isDraining = true)
    (hs : t.settling.Subperm s.settling) (hp : ∀ q, t.entry q = .pending ↔ q ∈ t.settling)
    (hl : t.lc.claims ≤ s.lc.claims) : t.Consistent := by
  refine ⟨(drainsAreDraining_iff t).2 ⟨fun q hq => hdm q hq (h.isDraining (hd.subset hq)), nodup_of_subperm hd h.nodup⟩,
    ⟨nodup_of_subperm hs h.settles.1, hp⟩, (claimAlone_iff t).2 (hl.trans (h.claims_le.trans ?_))⟩
  split
  · rename_i hnil
    rw [if_pos (List.eq_nil_of_subset_nil (hnil ▸ hs.subset))]
  · exact Nat.zero_le _

/-- A change of the map in which Draining quanta stay Draining and Pending ones are the same. -/
theorem onMap (hd : t.hc.drainQuanta = s.hc.drainQuanta) (hc : t.hc.claim = s.hc.claim)
    (hdm : ∀ q, (s.entry q).isDraining = true → (t.entry q).isDraining = true)
    (hp : ∀ q, t.entry q = .pending ↔ s.entry q = .pending) (hl : t.lc.claims ≤ s.lc.claims) : t.Consistent := by
  have hs : t.settling = s.settling := settling_congr hc
  refine h.change (by rw [hd]) (fun q _ => hdm q) (by rw [hs]) (fun q => ?_) hl
  rw [hp, h.pending_iff, hs]

/-- A change of the queue and of fields of which the agreement says nothing. -/
theorem onLink (e : t.map = s.map ∧ t.hc.drains = s.hc.drains ∧ t.hc.claim = s.hc.claim) (hl : t.lc.claims ≤ s.lc.claims) :
    t.Consistent := by
  obtain ⟨hm, hd, hc⟩ := e
  exact h.onMap (by rw [Holdings.drainQuanta, hd, Holdings.drainQuanta]) hc (fun q => by rw [entry_eq_of_map t s hm]; exact id)
    (fun q => by rw [entry_eq_of_map t s hm]) hl

/-- A change of fields of which the agreement says nothing. -/
theorem elsewhere (e : t.map = s.map ∧ t.hc.drains = s.hc.drains ∧ t.hc.claim = s.hc.claim ∧ t.lc.queue = s.lc.queue ∧
    t.lc.waiting = s.lc.waiting) : t.Consistent :=
  h.onLink ⟨e.1, e.2.1, e.2.2.1⟩ (Link.claims_congr e.2.2.2.1 e.2.2.2.2).le

end

/-- With nothing Draining or Pending, and neither list naming a quantum, one CLAIM may be queued. -/
theorem ofNone {t : State} (hd : t.hc.drains = []) (hc : t.hc.claim = none) (hp : ∀ q, t.entry q ≠ .pending)
    (hl : t.lc.claims ≤ 1) : t.Consistent := by
  have hs : t.settling = [] := by simp [State.settling, hc]
  refine ⟨by simp [State.drainsAreDraining, hd], ⟨by simp [hs], fun q => by simp [hs, hp]⟩, (claimAlone_iff t).2 ?_⟩
  rwa [hs, if_pos rfl]

/-- A fold of operations each of which keeps the agreement. -/
theorem foldl {β : Type} (f : Work → β → Work) (hf : ∀ v b, v.toState.Consistent → (f v b).toState.Consistent) (l : List β)
    {w : Work} (h : w.toState.Consistent) : (l.foldl f w).toState.Consistent :=
  foldl_induct (fun v : Work => v.toState.Consistent) f hf l w h

end State.Consistent

end Sys2Proof.Machine
end

section
/-! SUPPORT. Every operation of the blocks keeps the holdings consistent. -/

namespace Sys2Proof.Machine

/-! ## Entries that are not Pending -/

theorem State.vacant_ne_pending (s : State) (q : Nat) : s.vacant q ≠ .pending := by
  unfold State.vacant
  split <;> simp

theorem State.drained_pending_iff (s : State) (q : Nat) (e : QEntry) : s.drained q e = .pending ↔ e = .pending := by
  have hvac := s.vacant_ne_pending q
  unfold State.drained
  split
  · simp
  · simp [hvac]
  · split <;> simp [hvac]
  · rfl

theorem State.descending_nodup (s : State) (p : Nat → QEntry → Bool) : (s.descending p).Nodup :=
  List.nodup_reverse.2 (nodup_quantaWhere _ _)

theorem State.mem_descending {s : State} {p : Nat → QEntry → Bool} {q : Nat} (hq : q ∈ s.descending p) :
    p q (s.entry q) = true := by
  obtain ⟨e, he, hp⟩ := (mem_quantaWhere _ _ _).1 (List.mem_reverse.1 hq)
  rwa [show s.entry q = e by simp [State.entry, List.getD, he]]

theorem fallEntry_pending_iff (b c q : Nat) (e : QEntry) :
    fallEntry b c q e = .pending ↔ e = .pending ∧ ¬(b ≤ q ∧ q < c) := by
  unfold fallEntry
  split
  · rename_i hq
    cases e with
    | draining r x => cases r <;> simp [hq]
    | _ => simp [hq]
  · rename_i hq
    simp [hq]

theorem fallEntry_draining (b c q : Nat) {e : QEntry} (he : e.isDraining = true) : (fallEntry b c q e).isDraining = true := by
  unfold fallEntry
  cases e with
  | draining r x =>
    split
    · cases r <;> rfl
    · rfl
  | _ => cases he

section
variable {w : Work} (h : w.toState.Consistent)
include h

/-! ## Session and bookings -/

theorem Work.suspendCause_consistent (r : SuspReason) : (w.suspendCause r).toState.Consistent := h.elsewhere (by simp)

theorem Work.derive_consistent : w.derive.toState.Consistent := h.elsewhere (by simp)

theorem Work.setSession_consistent (f : Session → Session) : (w.setSession f).toState.Consistent := h.elsewhere (by simp)

theorem Work.notice_consistent (c : SysCode) (v : Nat) (tags : List Byte) : (w.notice c v tags).toState.Consistent :=
  h.elsewhere (by simp)

theorem Work.handPeer_consistent (t : Nat) (m : Bool) : (w.handPeer t m).toState.Consistent := h.elsewhere (by simp)

theorem Work.handBudget_consistent : w.handBudget.toState.Consistent := h.elsewhere (by simp)

theorem Work.handTarget_consistent : w.handTarget.toState.Consistent := h.elsewhere (by simp)

theorem Work.handRisk_consistent : w.handRisk.toState.Consistent := h.elsewhere (by simp)

theorem Work.handEnergy_consistent : w.handEnergy.toState.Consistent := h.elsewhere (by simp)

theorem Work.handConflict_consistent : w.handConflict.toState.Consistent := h.elsewhere (by simp)

theorem Work.refreshMarks_consistent : w.refreshMarks.toState.Consistent := h.elsewhere (by simp)

theorem Work.flushNotices_consistent : w.flushNotices.toState.Consistent := h.elsewhere (by simp)

theorem Work.setMode_consistent (m : Mode) : (w.setMode m).toState.Consistent :=
  h.elsewhere (by simp [Work.setMode_hc, Work.setMode_lc])

/-! ## Frames and entries -/

theorem Work.enqueue_consistent {f : Frame} (hf : kindOf f ≠ .claim) : (w.enqueue f).toState.Consistent :=
  h.onLink (by simp) (w.enqueue_claims hf)

/-- An entry changes to one that is not Pending, from one that was not, and stays Draining where it was. -/
theorem Work.setEntry_consistent {q : Nat} {e : QEntry} (ho : w.toState.entry q ≠ .pending) (hn : e ≠ .pending)
    (hd : (w.toState.entry q).isDraining = true → e.isDraining = true) : (w.setEntry q e).toState.Consistent := by
  refine h.onMap rfl rfl (fun r hr => ?_) (fun r => ?_) (Nat.le_refl _)
  · rw [Work.entry_setEntry]
    split
    · rename_i hq
      exact hd (hq.1 ▸ hr)
    · exact hr
  · rw [Work.entry_setEntry]
    split
    · rename_i hq
      exact ⟨fun k => absurd k hn, fun k => absurd (hq.1 ▸ k) ho⟩
    · rfl

/-- Listed entries take a value that is not Pending, where none was Draining or Pending. -/
theorem Work.setListed_consistent {qs : List Nat} {e : QEntry} {x : Holdings} (hn : e ≠ .pending)
    (ho : ∀ q ∈ qs, (w.toState.entry q).isDraining = false ∧ w.toState.entry q ≠ .pending)
    (hd : x.drains = w.hc.drains) (hc : x.claim = w.hc.claim) :
    ({ w with map := qs.foldl (fun m q => m.set q e) w.map, hc := x } : Work).toState.Consistent := by
  have he : ∀ q, ({ w with map := qs.foldl (fun m q => m.set q e) w.map, hc := x } : Work).toState.entry q =
      if q ∈ qs ∧ q < w.map.length then e else w.toState.entry q := fun q => getD_foldl_set _ _ _ _ _
  refine h.onMap (by simp [Holdings.drainQuanta, hd]) hc (fun q hq => ?_) (fun q => ?_) (Nat.le_refl _)
  · rw [he]
    split
    · rename_i hm
      simp [(ho q hm.1).1] at hq
    · exact hq
  · rw [he]
    split
    · rename_i hm
      exact ⟨fun k => absurd k hn, fun k => absurd k (ho q hm.1).2⟩
    · rfl

/-- Every entry changes, Pending ones stay and no other becomes Pending, and Draining ones stay Draining. -/
theorem Work.mapAll_consistent {f : Nat → QEntry → QEntry} (hp : ∀ q e, f q e = .pending ↔ e = .pending)
    (hd : ∀ q e, e.isDraining = true → (f q e).isDraining = true) : (w.mapAll f).toState.Consistent := by
  have he : ∀ q, (w.mapAll f).toState.entry q =
      if q < w.map.length then f q (w.toState.entry q) else w.toState.entry q := by
    intro q
    split
    · rename_i hl
      exact Work.entry_mapAll _ _ _ hl
    · rename_i hl
      rw [Work.entry_mapAll_ge _ _ _ (Nat.le_of_not_lt hl), entry_ge _ _ (Nat.le_of_not_lt hl)]
  refine h.onMap rfl rfl (fun q hq => ?_) (fun q => ?_) (Nat.le_refl _)
  · rw [he]
    split
    · exact hd q _ hq
    · exact hq
  · rw [he]
    split
    · exact hp q _
    · rfl

/-! ## Drains -/

theorem Work.startDrain_consistent (r : DrainReason) (b : Option Nat) {qs : List Nat} (hq : qs.Nodup) :
    (w.startDrain r b qs).toState.Consistent := by
  have hdr := w.startDrain_drainQuanta r b qs
  refine ⟨(drainsAreDraining_iff _).2 ⟨fun q hm => ?_, ?_⟩, ⟨h.settles.1, fun q => ?_⟩, h.claims⟩
  · rw [Work.entry_startDrain]
    split
    · rfl
    · rename_i hne
      rw [hdr] at hm
      rcases List.mem_append.1 hm with hold | hnew
      · exact h.isDraining hold
      · rw [List.mem_filter, beq_iff_eq] at hnew
        exact absurd hnew hne
  · rw [hdr, List.nodup_append]
    refine ⟨h.nodup, hq.filter _, fun a ha b hb hab => ?_⟩
    have hmine : w.toState.entry b = .mine := by simpa using (List.mem_filter.1 hb).2
    have hdrain := h.isDraining (hab ▸ ha)
    rw [hmine] at hdrain
    cases hdrain
  · have hs : (w.startDrain r b qs).toState.settling = w.toState.settling := rfl
    rw [Work.entry_startDrain, hs, ← h.pending_iff]
    split
    · rename_i hm
      simp [hm.2]
    · rfl

theorem Work.drainMine_consistent (r : DrainReason) (p : Nat → Bool) : (w.drainMine r p).toState.Consistent :=
  w.startDrain_consistent h r none (nodup_quantaWhere _ _)

theorem Work.orderDrains_consistent (n : Nat) : (w.orderDrains n).toState.Consistent := by
  refine h.change ((w.orderDrains_perm n).map _).subperm (fun q _ => ?_) (.refl _) (fun q => h.pending_iff q) (Nat.le_refl _)
  exact id

theorem Work.freeLocally_consistent (qs : List Nat) : (w.freeLocally qs).toState.Consistent := by
  have hvac := w.toState.vacant_ne_pending
  refine h.change ((List.filter_sublist.map _).subperm) (fun q hq hd => ?_) (.refl _) (fun q => ?_) (Nat.le_refl _)
  · have hn : q ∉ qs := by
      obtain ⟨d, hin, rfl⟩ := List.mem_map.1 hq
      simpa using (List.mem_filter.1 hin).2
    rw [Work.entry_freeLocally, if_neg fun k => hn k.1]
    exact hd
  · rw [Work.entry_freeLocally]
    refine Iff.trans ?_ (h.pending_iff q)
    split
    · rename_i hm
      exact ⟨fun k => absurd k (hvac q), fun k => by rw [k] at hm; cases hm.2⟩
    · rfl

theorem Work.completeDrains_consistent (qs : List Nat) : (w.completeDrains qs).toState.Consistent := by
  have hhc := w.drains_completeDrains qs
  refine h.change ?_ (fun q hq hd => ?_) (by rw [settling_congr (s := w.toState) (by rw [hhc])]) (fun q => ?_) ?_
  · rw [hhc]
    exact (List.filter_sublist.map _).subperm
  · have hn : q ∉ qs := by
      rw [hhc] at hq
      obtain ⟨d, hin, rfl⟩ := List.mem_map.1 hq
      simpa using (List.mem_filter.1 hin).2
    rw [Work.entry_completeDrains, if_neg hn]
    exact hd
  · have hs : (w.completeDrains qs).toState.settling = w.toState.settling := settling_congr (by rw [hhc])
    rw [Work.entry_completeDrains, hs, ← h.pending_iff]
    split
    · exact State.drained_pending_iff _ _ _
    · rfl
  · unfold Work.completeDrains
    refine foldl_induct (fun v : Work => v.lc.claims ≤ w.lc.claims) _ (fun v b hv => ?_) _ _ (Nat.le_refl _)
    exact (v.enqueue_claims (by simp [kindOf])).trans hv

theorem Work.completeAll_consistent : w.completeAll.toState.Consistent := w.completeDrains_consistent h _

/-! ## Claims -/

/-- Pending quanta become something else and leave the claim in settle together. -/
theorem Work.giveUpPending_consistent (b : Bool) (qs : List Nat) : (w.giveUpPending b qs).toState.Consistent := by
  have hs := w.giveUpPending_settling b qs
  have hhc := w.giveUpPending_hc b qs
  have hvac := w.toState.vacant_ne_pending
  refine h.change (by rw [Holdings.drainQuanta, hhc]; exact .refl _) (fun q _ hd => ?_)
    (by rw [hs]; exact List.filter_sublist.subperm) (fun q => ?_) ?_
  · rw [Work.entry_giveUpPending]
    split
    · rename_i hm
      rw [hm.2] at hd
      cases hd
    · exact hd
  · rw [Work.entry_giveUpPending, hs, List.mem_filter, ← h.pending_iff]
    by_cases hp : w.toState.entry q = .pending
    · by_cases hq : q ∈ qs <;> simp [hp, hq, hvac]
    · simp [hp]
  · unfold Work.giveUpPending
    dsimp only
    have hfold : ∀ ps : List Nat,
        (ps.foldl (fun (v : Work) q => (v.setEntry q (w.toState.vacant q)).leaveClaim q) w).lc = w.lc :=
      fun ps => foldl_keeps (fun v : Work => v.lc) _ (fun v q => by simp) ps w
    split
    · exact (Work.enqueue_claims _ (by simp [kindOf])).trans (by rw [hfold])
    · rw [hfold]

theorem Work.endRequest_consistent (r : Reply) : (w.endRequest r).toState.Consistent :=
  h.elsewhere ⟨rfl, rfl, rfl, rfl, rfl⟩

theorem Work.endSweep_consistent : w.endSweep.toState.Consistent := h.elsewhere (by simp)

/-- A claim that does not settle may end. -/
theorem Work.endClaim_consistent (hs : w.toState.settling = []) : w.endClaim.toState.Consistent := by
  have hn : w.endClaim.toState.settling = [] := rfl
  refine h.change (.refl _) (fun q _ => id) (by rw [hn, hs]) (fun q => ?_) (Nat.le_refl _)
  rw [hn, ← hs]
  exact h.pending_iff q

/-- A CLAIM is queued only where none is, and where no claim is held (R104). -/
theorem Work.considerClaiming_consistent : w.considerClaiming.toState.Consistent := by
  unfold Work.considerClaiming
  dsimp only
  split
  · rename_i hcond
    simp only [Bool.and_eq_true, Option.isNone_iff_eq_none, Bool.not_eq_true'] at hcond
    obtain ⟨⟨⟨-, hclaim⟩, hnone⟩, -⟩ := hcond
    have hzero : w.lc.claims = 0 := by
      refine List.countP_eq_zero.2 fun x hx => ?_
      have := (Bool.or_eq_false_iff.1 hnone)
      simp only [List.any_eq_false] at this
      rcases List.mem_append.1 hx with hq | hq
      · exact this.1 x hq
      · exact this.2 x hq
    generalize (w.toState.eligibleQuanta.take (min w.toState.need 8)) = qs
    have hold : w.toState.settling = [] := by simp [State.settling, hclaim]
    have hnew : (({ w with hc := { w.hc with claim := some (.queued qs) } } : Work).enqueue (.claim qs)).toState.settling = [] :=
      Work.enqueue_settling _ _
    refine ⟨?_, ⟨by simp [hnew], fun q => ?_⟩, (claimAlone_iff _).2 ?_⟩
    · simpa [State.drainsAreDraining, State.entry] using h.drains
    · rw [hnew, ← hold, ← h.pending_iff]
      simp [State.entry]
    · rw [hnew, if_pos rfl]
      have hle := w.lc.enqueue_claims (.claim qs)
      rw [hzero] at hle
      rcases Work.enqueue_lc ({ w with hc := { w.hc with claim := some (.queued qs) } } : Work) (.claim qs) with e | e
      · rw [e]
        exact hzero.le.trans (Nat.zero_le _)
      · rw [e]
        simpa [kindOf] using hle
  · exact h

theorem Work.sendRequest_consistent (t : Nat) (d : Disposition) (c : Nat) (l : List Nat) :
    (w.sendRequest t d c l).toState.Consistent := by
  unfold Work.sendRequest
  refine Work.enqueue_consistent ?_ (by simp [kindOf])
  exact h.elsewhere ⟨rfl, rfl, rfl, rfl, rfl⟩

theorem Work.sweepMove_consistent : w.sweepMove.toState.Consistent := by
  unfold Work.sweepMove
  dsimp only
  split
  · exact h
  · split
    · exact w.endSweep_consistent h
    · split
      · exact h
      · split
        · exact h.elsewhere (by simp)
        · split
          · exact Work.sendRequest_consistent (h.elsewhere (by simp)) _ _ _ _
          · exact h.elsewhere (by simp)
        · exact w.endSweep_consistent h
        · split
          · exact h.elsewhere (by simp)
          · exact Work.sendRequest_consistent (h.elsewhere (by simp)) _ _ _ _

theorem Work.considerSweep_consistent : w.considerSweep.toState.Consistent := by
  unfold Work.considerSweep
  dsimp only
  split
  · exact h.elsewhere (by simp)
  · exact h

theorem Work.sweepProgress_consistent : w.sweepProgress.toState.Consistent := by
  unfold Work.sweepProgress
  split
  · exact .foldl _ (fun v _ hv => v.sweepMove_consistent hv) _ (w.considerSweep_consistent h)
  · split
    · exact w.endSweep_consistent h
    · exact h

theorem Work.holdingsProgress_consistent : w.holdingsProgress.toState.Consistent := by
  unfold Work.holdingsProgress
  dsimp only
  refine Work.sweepProgress_consistent (Work.considerClaiming_consistent ?_)
  split
  · exact h.elsewhere (by simp)
  · exact h.elsewhere (by simp)

/-! ## Removal of frames -/

theorem Work.removeOffLine_consistent (p : Frame → Bool) :
    ({ w with lc := w.lc.removeOffLine p } : Work).toState.Consistent := h.onLink (by simp) (w.lc.removeOffLine_claims p)

/-- While a claim settles no CLAIM is queued, so that its removal ends none that settles. -/
theorem Work.removeQueuedClaim_consistent : w.removeQueuedClaim.toState.Consistent := by
  unfold Work.removeQueuedClaim
  dsimp only
  split
  · exact h
  · rename_i hsome
    refine Work.endClaim_consistent (w.removeOffLine_consistent h _) ?_
    change w.toState.settling = []
    by_contra hne
    have hzero : w.lc.claims = 0 := Nat.le_zero.1 (by simpa [hne] using h.claims_le)
    refine hsome (List.isEmpty_iff.2 (List.eq_nil_iff_forall_not_mem.2 fun x hx => ?_))
    obtain ⟨hm, -, hc⟩ := (Link.mem_offLineFrames _ _ _).1 hx
    exact List.countP_eq_zero.1 hzero x hm hc

theorem Work.removeQueuedRequest_consistent : w.removeQueuedRequest.toState.Consistent := by
  unfold Work.removeQueuedRequest
  dsimp only
  split
  · exact h
  · exact Work.endRequest_consistent (w.removeOffLine_consistent h _) _

theorem Work.lostFrame_consistent (f : Frame) : (w.lostFrame f).toState.Consistent := by
  cases f with
  | release b qs => exact w.freeLocally_consistent h qs
  | claim qs =>
    unfold Work.lostFrame
    dsimp only
    split
    · rename_i hc
      exact w.endClaim_consistent h (by simp [State.settling, hc])
    · exact h
  | yieldReq => exact w.endRequest_consistent h _
  | contest | yieldAns | budget | report | join | leave => exact h

theorem Work.loseFrames_consistent (p : Frame → Bool) : (w.loseFrames p).toState.Consistent :=
  .foldl _ (fun v x hv => v.lostFrame_consistent hv x.frame) _ (w.removeOffLine_consistent h p)

theorem Work.emptyQueue_consistent : w.emptyQueue.toState.Consistent := by
  unfold Work.emptyQueue
  refine Work.loseFrames_consistent ?_ _
  exact h.elsewhere ⟨rfl, rfl, rfl, rfl, rfl⟩

/-! ## Targets -/

theorem Work.drainSurplus_consistent (n : Nat) : (w.drainSurplus n).toState.Consistent := by
  unfold Work.drainSurplus
  dsimp only
  refine Work.startDrain_consistent (w.giveUpPending_consistent h _ _) _ _ (List.Sublist.nodup (List.take_sublist _ _) ?_)
  refine List.nodup_append.2 ⟨State.descending_nodup _ _, State.descending_nodup _ _, fun a ha b hb hab => ?_⟩
  have hforeign := State.mem_descending ha
  have hown := State.mem_descending hb
  subst hab
  simp only [Bool.and_eq_true, Bool.not_eq_true'] at hforeign hown
  exact absurd (hforeign.2.symm.trans hown.2) (by simp)

theorem Work.newTarget_consistent (n : Nat) : (w.newTarget n).toState.Consistent := by
  have hr := Work.removeQueuedClaim_consistent (w.endSweep_consistent h)
  unfold Work.newTarget
  dsimp only
  split
  · exact Work.drainSurplus_consistent (hr.elsewhere (by simp)) _
  · exact hr.elsewhere (by simp)

/-- A quantum that was neither Pending nor Draining arrives. -/
theorem Work.takeMine_consistent {q : Nat} (r : Option DrainReason) (hp : w.toState.entry q ≠ .pending)
    (hd : (w.toState.entry q).isDraining = false) : (w.takeMine q r).toState.Consistent := by
  have hs := w.setEntry_consistent h (e := .mine) hp (by simp) (by simp [hd])
  unfold Work.takeMine
  cases r with
  | none => exact hs
  | some r => exact Work.startDrain_consistent hs _ _ (List.nodup_singleton q)

/-! ## Budget -/

theorem Work.budgetFall_consistent (b : Nat) : (w.budgetFall b).toState.Consistent := by
  rw [Work.budgetFall_eq]
  generalize hpend : (quantaWhere w.map fun q e => e == .pending && decide (b ≤ q ∧ q < w.toState.conf.bCfg)) = pend
  have hfold := foldl_settling (fun (w : Work) q => w.leaveClaim q) (fun v q => v.leaveClaim_settling q) pend (w.fallMap b)
  have hclaim : (w.fallMap b).toState.settling = w.toState.settling := rfl
  have hhc : (pend.foldl (fun (w : Work) q => w.leaveClaim q) (w.fallMap b)).hc.drains = (w.fallMap b).hc.drains :=
    foldl_keeps (fun v : Work => v.hc.drains) _ (fun v q => by rw [Work.leaveClaim_hc]) _ _
  have hmap : (pend.foldl (fun (w : Work) q => w.leaveClaim q) (w.fallMap b)).map = (w.fallMap b).map :=
    foldl_keeps (fun v : Work => v.map) _ (fun v q => v.leaveClaim_map q) _ _
  have hlc : (pend.foldl (fun (w : Work) q => w.leaveClaim q) (w.fallMap b)).lc = w.lc :=
    (foldl_keeps (fun v : Work => v.lc) _ (fun v q => by simp) _ _).trans (w.fallMap_lc b)
  have hin : ∀ q, q ∈ pend ↔ w.toState.entry q = .pending ∧ b ≤ q ∧ q < w.toState.conf.bCfg := by
    intro q
    rw [← hpend, mem_quantaWhere]
    constructor
    · rintro ⟨e, he, hk⟩
      simpa [State.entry, List.getD, he] using hk
    · rintro ⟨he, hk⟩
      have hl : q < w.map.length := by
        by_contra hge
        rw [entry_ge _ _ (Nat.le_of_not_lt hge)] at he
        cases he
      refine ⟨_, List.getElem?_eq_getElem hl, ?_⟩
      simpa [State.entry, List.getD, hl, hk] using he
  have hstart := Work.startDrain_consistent (w := { w with bu := { w.bu with bEff := b } })
    (h.elsewhere ⟨rfl, rfl, rfl, rfl, rfl⟩) .withdrawal none
    (nodup_quantaWhere w.map fun q e => e == .mine && decide (b ≤ q ∧ q < w.toState.conf.bCfg))
  refine Work.enqueue_consistent ?_ (by simp [kindOf])
  refine hstart.change (by rw [Holdings.drainQuanta, hhc]; exact .refl _) (fun q _ hd => ?_) ?_ (fun q => ?_) (by rw [hlc]; rfl)
  · rw [entry_eq_of_map _ (w.fallMap b).toState hmap]
    have hl : q < w.map.length := by
      by_contra hge
      rw [entry_ge _ _ (by simpa using hge)] at hd
      cases hd
    unfold Work.fallMap
    rw [Work.entry_mapAll _ _ _ (by simpa using hl)]
    exact fallEntry_draining _ _ _ hd
  · rw [hfold]
    exact List.filter_sublist.subperm
  · rw [entry_eq_of_map _ (w.fallMap b).toState hmap, Work.entry_fallMap, hfold, hclaim, List.mem_filter, ← h.pending_iff]
    split
    · rw [fallEntry_pending_iff]
      simp only [Bool.not_eq_true', List.contains_eq_mem, decide_eq_false_iff_not, hin]
      tauto
    · rename_i hge
      simp [entry_ge _ _ (Nat.le_of_not_lt hge)]

theorem Work.budgetRise_consistent (b : Nat) : (w.budgetRise b).toState.Consistent := by
  unfold Work.budgetRise
  refine Work.mapAll_consistent ?_ (fun q e => ?_) (fun q e he => ?_)
  · exact h.elsewhere ⟨rfl, rfl, rfl, rfl, rfl⟩
  · split
    · rename_i hk
      simp [hk.1]
    · rfl
  · split
    · rename_i hk
      rw [hk.1] at he
      cases he
    · exact he

theorem Work.formBudget_consistent : w.formBudget.toState.Consistent := by
  unfold Work.formBudget
  dsimp only
  split
  · exact Work.handBudget_consistent (w.budgetFall_consistent h _)
  · split
    · exact Work.handBudget_consistent (w.budgetRise_consistent h _)
    · exact h

theorem Work.hearBudget_consistent (u src v n hold : Nat) : (w.hearBudget u src v n hold).toState.Consistent := by
  unfold Work.hearBudget
  dsimp only
  split
  · exact h
  · split
    · exact Work.formBudget_consistent (h.elsewhere ⟨rfl, rfl, rfl, rfl, rfl⟩)
    · exact h

end

end Sys2Proof.Machine
end

section
/-! SUPPORT. The operations of the Session Sequencer, the Converter Interface, the Allocation Engine and the Peer Table Unit,
and the frames heard, keep the holdings consistent. -/

namespace Sys2Proof.Machine

theorem Work.ite_consistent {w v : Work} {c : Prop} [Decidable c] (hw : w.toState.Consistent) (hv : v.toState.Consistent) :
    (if c then w else v).toState.Consistent := by
  split
  · exact hw
  · exact hv

theorem State.forgetEntry_pending_iff (s : State) (t : Nat) (k : Bool) (q : Nat) (e : QEntry) :
    s.forgetEntry t k q e = .pending ↔ e = .pending := by
  have hvac := s.vacant_ne_pending q
  unfold State.forgetEntry
  split
  · rfl
  · split
    · split <;> simp [hvac]
    · split <;> simp
    · rfl

theorem State.forgetEntry_draining (s : State) (t : Nat) (k : Bool) (q : Nat) {e : QEntry} (he : e.isDraining = true) :
    (s.forgetEntry t k q e).isDraining = true := by
  unfold State.forgetEntry
  split
  · exact he
  · split
    · cases he
    · split <;> rfl
    · exact he

section
variable {w : Work} (h : w.toState.Consistent)
include h

/-! ## Session Sequencer -/

theorem Work.putSession_consistent (r : Session × List Nat) : (w.putSession r).toState.Consistent := h.elsewhere (by simp)

theorem Work.testStep_consistent (c : List EndCause) : (w.testStep c).toState.Consistent := h.elsewhere (by simp)

theorem Work.testRemaining_consistent : w.testRemaining.toState.Consistent := h.elsewhere (by simp)

theorem Work.sessionMeter_consistent (e : Nat) : (w.sessionMeter e).toState.Consistent := h.elsewhere (by simp)

theorem Work.resumeSession_consistent : w.resumeSession.toState.Consistent := h.elsewhere (by simp)

theorem Work.autoResume_consistent : w.autoResume.toState.Consistent := h.elsewhere (by simp)

theorem Work.testSessionEnd_consistent : w.testSessionEnd.toState.Consistent := h.elsewhere (by simp)

theorem Work.endSession_consistent (r : EndReason) : (w.endSession r).toState.Consistent := by
  unfold Work.endSession
  exact Work.endSweep_consistent (Work.removeQueuedRequest_consistent (Work.removeQueuedClaim_consistent
    (Work.giveUpPending_consistent (Work.drainMine_consistent (Work.derive_consistent (w.setSession_consistent h _)) _ _) _ _)))

theorem Work.takeAdmission_consistent (p : List Byte) : (w.takeAdmission p).toState.Consistent := by
  unfold Work.takeAdmission
  refine Work.handEnergy_consistent (Work.ite_consistent (Work.putSession_consistent ?_ _) (Work.derive_consistent ?_)) <;>
  exact h.elsewhere ⟨rfl, rfl, rfl, rfl, rfl⟩

theorem Work.vehicleUpdate_consistent (p : List Byte) : (w.vehicleUpdate p).toState.Consistent := by
  unfold Work.vehicleUpdate
  exact Work.derive_consistent (Work.testRemaining_consistent (Work.testStep_consistent (w.setSession_consistent h _) _))

theorem Work.runOut_consistent : w.runOut.toState.Consistent := by
  unfold Work.runOut
  exact Work.testStep_consistent (w.setSession_consistent h _) _

theorem Work.clearActions_consistent (shed freeze : Bool) : (w.clearActions shed freeze).toState.Consistent := by
  unfold Work.clearActions
  refine Work.ite_consistent (Work.derive_consistent ?_) ?_ <;>
  exact h.elsewhere ⟨rfl, rfl, rfl, rfl, rfl⟩

theorem Work.offerBudget_consistent (v hold : Nat) : (w.offerBudget v hold).toState.Consistent := by
  unfold Work.offerBudget
  refine Work.enqueue_consistent ?_ (by simp [kindOf])
  exact h.elsewhere ⟨rfl, rfl, rfl, rfl, rfl⟩

theorem Work.removeOffer_consistent (src : Nat) : (w.removeOffer src).toState.Consistent := by
  unfold Work.removeOffer
  refine Work.formBudget_consistent ?_
  exact h.elsewhere ⟨rfl, rfl, rfl, rfl, rfl⟩

/-! ## Converter Interface -/

theorem Work.formAndSend_consistent : w.formAndSend.toState.Consistent := h.elsewhere (by simp)

theorem Work.clearStuck_consistent : w.clearStuck.toState.Consistent := h.elsewhere (by simp)

theorem Work.drainTests_consistent (r : Meter) (l : Nat) : (w.drainTests r l).toState.Consistent := by
  unfold Work.drainTests
  exact Work.ite_consistent h (Work.ite_consistent (Work.clearStuck_consistent (w.completeAll_consistent h))
    (w.completeDrains_consistent h _))

theorem Work.takeConverterState_consistent (b : ConvState) (r : Meter) : (w.takeConverterState b r).toState.Consistent :=
  h.elsewhere (by simp)

/-- New timeouts, phases or marks of the entries of the drain list change no quantum of it. -/
theorem Work.setDrains_consistent {f : Drain → Drain} (hf : ∀ d, (f d).quantum = d.quantum) {x : Holdings}
    (hx : x.drains = w.hc.drains.map f) (hc : x.claim = w.hc.claim) : ({ w with hc := x } : Work).toState.Consistent := by
  refine h.onMap ?_ hc (fun _ => id) (fun _ => .rfl) (Nat.le_refl _)
  simp [Holdings.drainQuanta, hx, Function.comp_def, hf]

theorem Work.endLost_consistent (r : Meter) : (w.endLost r).toState.Consistent := by
  have hw : ({ w with ci := { w.ci with conv := r.state, lostQuiesce := .stopped, causeLost := false } } : Work).toState.Consistent :=
    h.elsewhere ⟨rfl, rfl, rfl, rfl, rfl⟩
  exact Work.setDrains_consistent hw (f := fun d => if d.stuck then d else { d with timeoutAt := w.now + Config.drainMs })
    (fun d => by split <;> rfl) rfl rfl

theorem Work.takeReport_consistent (r : Meter) (l : Nat) : (w.takeReport r l).toState.Consistent := by
  have hw : ({ w with ci := { w.ci with
      lastReport := some r, silenceAt := some (w.now + Config.silenceMs) } } : Work).toState.Consistent :=
    h.elsewhere ⟨rfl, rfl, rfl, rfl, rfl⟩
  unfold Work.takeReport
  exact Work.takeConverterState_consistent (Work.drainTests_consistent (Work.sessionMeter_consistent
    (Work.ite_consistent (Work.endLost_consistent hw r) hw) _) _ _) _ _

theorem Work.becomeLost_consistent : w.becomeLost.toState.Consistent := by
  unfold Work.becomeLost
  refine Work.notice_consistent (Work.suspendCause_consistent (Work.drainMine_consistent ?_ _ _) _) _ _ _
  exact h.elsewhere ⟨rfl, rfl, rfl, rfl, rfl⟩

theorem Work.lostCompletes_consistent : w.lostCompletes.toState.Consistent := by
  unfold Work.lostCompletes
  exact Work.ite_consistent (w.completeAll_consistent h) h

theorem Work.drainTimeout_consistent (t : Nat) : (w.drainTimeout t).toState.Consistent := by
  have hw : ({ w with hc := { w.hc with drains := w.hc.drains.map fun d =>
      if d.timeoutAt ≤ t then { d with stuck := true } else d } } : Work).toState.Consistent :=
    Work.setDrains_consistent h (f := fun d => if d.timeoutAt ≤ t then { d with stuck := true } else d)
      (fun d => by split <;> rfl) rfl rfl
  unfold Work.drainTimeout
  refine Work.ite_consistent hw (Work.notice_consistent ?_ _ _ _)
  exact hw.elsewhere ⟨rfl, rfl, rfl, rfl, rfl⟩

/-! ## Epoch -/

theorem Work.startEpoch_consistent : w.startEpoch.toState.Consistent := h.elsewhere (by simp)

theorem Work.record_consistent (x : Alloc) : ({ w with ae := x } : Work).toState.Consistent :=
  h.elsewhere ⟨rfl, rfl, rfl, rfl, rfl⟩

theorem Work.projected_consistent (x : Option Nat) :
    ({ w with ss := { w.ss with projected := x } } : Work).toState.Consistent := h.elsewhere ⟨rfl, rfl, rfl, rfl, rfl⟩

theorem Work.epoch_consistent : w.epoch.toState.Consistent := by
  have hb := Work.projected_consistent (Work.derive_consistent (w.record_consistent h { w.ae with seq := (w.ae.seq + 1) % 256 }))
  unfold Work.epoch
  refine Work.handRisk_consistent (Work.handTarget_consistent (Work.ite_consistent (Work.newTarget_consistent ?_ _) ?_)) <;>
  exact Work.record_consistent (Work.ite_consistent
    (Work.enqueue_consistent (Work.record_consistent (hb _) _) (by simp [kindOf, State.reportFrame])) (hb _)) _

/-! ## Peer Table Unit -/

theorem Work.hearPeer_consistent (t : Nat) (f : Frame) : (w.hearPeer t f).toState.Consistent := by
  refine h.elsewhere ?_
  simp

theorem Work.silence_consistent (t : Nat) : (w.silence t).toState.Consistent := h.elsewhere (by simp)

theorem Work.forgetHoldings_consistent (t : Nat) (k : Bool) : (w.forgetHoldings t k).toState.Consistent :=
  w.mapAll_consistent h (fun _ _ => State.forgetEntry_pending_iff _ _ _ _ _) fun _ _ => State.forgetEntry_draining _ _ _ _

theorem Work.setPeer_consistent (t : Nat) (f : Peer → Peer) : (w.onState fun s => s.setPeer t f).toState.Consistent :=
  h.elsewhere ⟨rfl, rfl, rfl, rfl, rfl⟩

theorem Work.expel_consistent (t : Nat) : (w.expel t).toState.Consistent := by
  unfold Work.expel
  exact Work.handPeer_consistent (Work.forgetHoldings_consistent (w.setPeer_consistent h _ _) _ _) _ _

theorem Work.countRequest_consistent : w.countRequest.toState.Consistent := h.elsewhere (by simp)

end

end Sys2Proof.Machine
end

section
/-! SUPPORT. What frames of other stations and own echoes do to the map keeps the holdings consistent. -/

namespace Sys2Proof.Machine

theorem State.freedTo_ne_pending (s : State) (b : Option Nat) (q : Nat) : s.freedTo b q ≠ .pending := by
  unfold State.freedTo
  cases b with
  | none => exact s.vacant_ne_pending q
  | some t =>
    dsimp only
    split <;> simp

section
variable {w : Work} (h : w.toState.Consistent)
include h

/-- A quantum that was Pending goes to another station and leaves the claim in settle (R21). -/
theorem Work.losePending_consistent {q : Nat} {e : QEntry} (he : w.toState.entry q = .pending) (hn : e ≠ .pending) :
    ((w.setEntry q e).leaveClaim q).toState.Consistent := by
  have hs : ((w.setEntry q e).leaveClaim q).toState.settling = w.toState.settling.filter (· ≠ q) :=
    Work.leaveClaim_settling _ _
  have hent : ∀ r, ((w.setEntry q e).leaveClaim q).toState.entry r = (w.setEntry q e).toState.entry r :=
    entry_eq_of_map _ _ (by simp)
  have hl : q < w.map.length := by
    by_contra hge
    rw [entry_ge _ _ (Nat.le_of_not_lt hge)] at he
    cases he
  refine h.change ?_ (fun r _ hr => ?_) (by rw [hs]; exact List.filter_sublist.subperm) (fun r => ?_) ?_
  · rw [Holdings.drainQuanta, Work.leaveClaim_hc]
    exact .refl _
  · rw [hent, Work.entry_setEntry, if_neg]
    · exact hr
    · rintro ⟨rfl, -⟩
      rw [he] at hr
      cases hr
  · rw [hent, Work.entry_setEntry, hs, List.mem_filter, ← h.pending_iff]
    by_cases hq : r = q
    · simp [hq, hl, hn]
    · simp [hq]
  · rw [show ((w.setEntry q e).leaveClaim q).lc = w.lc by simp]

theorem Work.conflictOwn_consistent {q : Nat} (u : Nat) (ho : w.toState.entry q ≠ .pending) :
    (w.conflictOwn q u).1.toState.Consistent := by
  unfold Work.conflictOwn
  split
  · exact h
  · have hw : (match w.toState.entry q with
        | .mine => w.startDrain .conflict (some u) [q]
        | _ => w.setEntry q (.draining .conflict (some u))).toState.Consistent := by
      split
      · exact w.startDrain_consistent h _ _ (List.nodup_singleton q)
      · exact w.setEntry_consistent h ho (by simp) fun _ => rfl
    exact hw.elsewhere ⟨rfl, rfl, rfl, rfl, rfl⟩

theorem Work.statedBy_consistent (u q : Nat) : (w.statedBy u q).1.toState.Consistent := by
  have hset : ∀ e : QEntry, w.toState.entry q ≠ .pending → (w.toState.entry q).isDraining = false → e ≠ .pending →
      (w.setEntry q e).toState.Consistent := fun e hp hd hn => w.setEntry_consistent h hp hn (by simp [hd])
  unfold Work.statedBy
  split
  · rename_i he
    exact w.losePending_consistent h he (by simp)
  · rename_i he
    exact w.conflictOwn_consistent h u (by simp [he])
  · rename_i he
    exact w.setEntry_consistent h (by simp [he]) (by simp) fun _ => rfl
  · rename_i he
    exact w.conflictOwn_consistent h u (by simp [he])
  · rename_i he
    split
    · exact h
    · refine hset _ (by simp [he]) (by simp [he, QEntry.isDraining]) ?_
      unfold Cfg.conflictOthers
      split <;> simp
  · rename_i he
    exact hset _ (by simp [he]) (by simp [he, QEntry.isDraining]) (by simp)
  · rename_i he
    exact hset _ (by simp [he]) (by simp [he, QEntry.isDraining]) (by simp)

theorem Work.claimedBy_consistent (u q : Nat) : (w.claimedBy u q).1.toState.Consistent := by
  unfold Work.claimedBy
  split
  · rename_i he
    exact w.setEntry_consistent h (by simp [he]) (by simp) (by simp [he, QEntry.isDraining])
  all_goals exact h

theorem Work.overQuanta_consistent (f : Work → Nat → Work × List Nat)
    (hf : ∀ v q, v.toState.Consistent → (f v q).1.toState.Consistent) (qs : List Nat) :
    (w.overQuanta f qs).1.toState.Consistent :=
  foldl_induct (fun z : Work × List Nat => z.1.toState.Consistent)
    (fun z q => ((f z.1 q).1, z.2 ++ (f z.1 q).2)) (fun z q hz => hf z.1 q hz) qs (w, []) h

theorem contestAndHand_consistent (qs : List Nat) : (contestAndHand (w, qs)).toState.Consistent :=
  Work.handConflict_consistent (w.enqueue_consistent h (by simp [kindOf]))

theorem Work.statedAll_consistent (u : Nat) (qs : List Nat) : (w.statedAll u qs).1.toState.Consistent :=
  Work.orderDrains_consistent (w.overQuanta_consistent h _ (fun v q hv => v.statedBy_consistent hv u q) _) _

theorem Work.hearClaim_consistent (u : Nat) (qs : List Nat) : (w.hearClaim u qs).toState.Consistent :=
  contestAndHand_consistent (w.overQuanta_consistent h _ (fun v q hv => v.claimedBy_consistent hv u q) _) _

theorem Work.hearContest_consistent (u : Nat) (qs : List Nat) : (w.hearContest u qs).toState.Consistent :=
  contestAndHand_consistent (w.statedAll_consistent h u qs) _

theorem Work.unlisted_consistent (u : Nat) (qs : List Nat) : (w.unlisted u qs).toState.Consistent := by
  have hvac := w.toState.vacant_ne_pending
  refine w.mapAll_consistent h (fun q e => ?_) fun q e he => ?_
  · cases e with
    | held t m => dsimp only; split <;> simp [hvac]
    | _ => rfl
  · cases e with
    | draining r b => rfl
    | _ => cases he

theorem Work.hearHoldings_consistent (u : Nat) (qs : List Nat) : (w.hearHoldings u qs).toState.Consistent :=
  contestAndHand_consistent (Work.statedAll_consistent (w.unlisted_consistent h u qs) u qs) _

theorem Work.releasedBy_consistent (u : Nat) (b : Option Nat) (q : Nat) : (w.releasedBy u b q).toState.Consistent := by
  have hset : ∀ e : QEntry, w.toState.entry q ≠ .pending → (w.toState.entry q).isDraining = false → e ≠ .pending →
      (w.setEntry q e).toState.Consistent := fun e hp hd hn => w.setEntry_consistent h hp hn (by simp [hd])
  have hpass : ∀ m : Bool, w.toState.entry q ≠ .pending → (w.toState.entry q).isDraining = false →
      (match b with
        | none => w.setEntry q .free
        | some t => if t = w.toState.own then (w.setEntry q .free).takeMine q (w.toState.arrivalReason q m)
          else w.setEntry q (.held t false)).toState.Consistent := by
    intro m hp hd
    split
    · exact hset _ hp hd (by simp)
    · split
      · have he : (w.setEntry q .free).toState.entry q = .free ∨ (w.setEntry q .free).toState.entry q = w.toState.entry q := by
          rw [Work.entry_setEntry]
          split
          · exact .inl rfl
          · exact .inr rfl
        refine Work.takeMine_consistent (hset _ hp hd (by simp)) _ ?_ ?_
        · rcases he with he | he <;> rw [he]
          · simp
          · exact hp
        · rcases he with he | he <;> rw [he]
          · rfl
          · exact hd
      · exact hset _ hp hd (by simp)
  unfold Work.releasedBy
  dsimp only
  split
  · rename_i t m he
    have hp : w.toState.entry q ≠ .pending := by simp [he]
    have hd : (w.toState.entry q).isDraining = false := by simp [he, QEntry.isDraining]
    split
    · split
      · exact hpass m hp hd
      · exact hset _ hp hd (by simp)
    · exact h
  · rename_i he
    exact hpass false (by simp [he]) (by simp [he, QEntry.isDraining])
  all_goals exact h

theorem Work.hearRelease_consistent (u : Nat) (b : Option Nat) (qs : List Nat) :
    (w.hearRelease u b qs).toState.Consistent := by
  unfold Work.hearRelease
  exact Work.orderDrains_consistent (.foldl _ (fun v q hv => v.releasedBy_consistent hv u _ q) _ h) _

theorem Work.grantHome_consistent (r q : Nat) : (w.grantHome r q).toState.Consistent := by
  unfold Work.grantHome
  split
  · exact w.startDrain_consistent h _ _ (List.nodup_singleton q)
  · rename_i he
    exact w.setEntry_consistent h (by simp [he]) (by simp) fun _ => rfl
  · exact h

theorem Work.answerYield_consistent (r c : Nat) (d : Disposition) (l : List Nat) :
    (w.answerYield r c d l).toState.Consistent := by
  unfold Work.answerYield
  dsimp only
  split
  · exact h
  · split
    · refine Work.enqueue_consistent (w.startDrain_consistent h _ _ (List.nodup_reverse.2 ?_)) (by simp [kindOf])
      exact (List.take_sublist _ _).nodup (State.descending_nodup _ _)
    · refine Work.giveUpPending_consistent (Work.enqueue_consistent ?_ (by simp [kindOf])) _ _
      exact .foldl _ (fun v q hv => v.grantHome_consistent hv r q) _ h

theorem Work.noteAnswer_consistent (t : Nat) : (w.noteAnswer t).toState.Consistent := h.elsewhere ⟨rfl, rfl, rfl, rfl, rfl⟩

theorem Work.takeAnswer_consistent (t r : Nat) (g : List Nat) : (w.takeAnswer t r g).toState.Consistent := by
  have hw := w.setPeer_consistent h t fun x => { x with unanswered := 0 }
  have hv := Work.setPeer_consistent hw t fun x => { x with lastRefusal := some (yieldReasonOf r) }
  unfold Work.takeAnswer
  refine Work.ite_consistent (Work.noteAnswer_consistent hw _)
    (Work.ite_consistent (Work.endRequest_consistent ?_ _) ?_) <;>
  · refine Work.setListed_consistent hv (by simp) (fun q hq => ?_) rfl rfl
    obtain ⟨m, hm⟩ := (QEntry.heldBy_iff _ _).1 (List.mem_filter.1 hq).2
    simp [hm, QEntry.isDraining]

/-! ## Own echoes -/

/-- The echo of the own CLAIM takes Free quanta into a claim that settles; no other CLAIM is queued (R19). -/
theorem Work.echoClaim_consistent (qs : List Nat) (hno : w.lc.claims = 0) : (w.echoClaim qs).toState.Consistent := by
  unfold Work.echoClaim
  split
  · rename_i old hc
    have hold : w.toState.settling = [] := by simp [State.settling, hc]
    dsimp only
    split
    · exact w.endClaim_consistent h hold
    · generalize hg : (w.toState.listedQuanta qs).filter (fun q => w.toState.entry q == .free) = got
      have hfree : ∀ q ∈ got, w.toState.entry q = .free := fun q hq => by
        rw [← hg] at hq
        simpa using (List.mem_filter.1 hq).2
      let v : Work := { w with
        map := got.foldl (fun m q => m.set q .pending) w.map
        hc := { w.hc with claim := some (.settling got (w.now + Config.settleMs)) } }
      have he : ∀ q, v.toState.entry q = if q ∈ got ∧ q < w.map.length then .pending else w.toState.entry q :=
        fun q => getD_foldl_set _ _ _ _ _
      have hs : v.toState.settling = got := rfl
      have hv : v.toState.Consistent := by
        refine ⟨(drainsAreDraining_iff _).2 ⟨fun q hq => ?_, h.nodup⟩, ⟨?_, fun q => ?_⟩, (claimAlone_iff _).2 ?_⟩
        · have hd := h.isDraining hq
          rw [he, if_neg]
          · exact hd
          · rintro ⟨hm, -⟩
            rw [hfree q hm] at hd
            cases hd
        · rw [hs, ← hg]
          exact (listedQuanta_nodup _ _).filter _
        · rw [he, hs]
          have hin : q ∈ got → q < w.map.length := fun hq => by
            by_contra hge
            have hf := hfree q hq
            rw [entry_ge _ _ (Nat.le_of_not_lt hge)] at hf
            cases hf
          have hp := h.pending_iff q
          rw [hold] at hp
          split
          · rename_i hm
            simp [hm.1]
          · rename_i hm
            exact ⟨fun k => by simpa using hp.1 k, fun k => absurd ⟨k, hin k⟩ hm⟩
        · exact hno.le.trans (Nat.zero_le _)
      exact Work.ite_consistent (Work.giveUpPending_consistent hv _ _) hv
  · exact h

/-- A quantum of the own RELEASE leaves the drain list as it leaves Draining (R26). -/
theorem Work.echoRelease_consistent (b : Option Nat) (qs : List Nat) : (w.echoRelease b qs).toState.Consistent := by
  have he := w.entry_echoRelease b qs
  have hfr := w.toState.freedTo_ne_pending
  rw [Work.echoRelease_eq] at he ⊢
  refine h.change ((List.filter_sublist.map _).subperm) (fun q hq hd => ?_) (.refl _) (fun q => ?_) (Nat.le_refl _)
  · obtain ⟨d, hin, rfl⟩ := List.mem_map.1 hq
    obtain ⟨hold, hnot⟩ := List.mem_filter.1 hin
    rw [he, if_neg]
    · exact h.isDraining (List.mem_map_of_mem hold)
    · rintro ⟨hb, hm, hdr⟩
      rw [Bool.not_eq_true', List.any_eq_false] at hnot
      exact hnot _ ((mem_listedQuanta _ _ _).2 ⟨hm, hb⟩) (by simp [hdr])
  · rw [he]
    refine Iff.trans ?_ (h.pending_iff q)
    split
    · rename_i hm
      exact ⟨fun k => absurd k (hfr _ q), fun k => by rw [k] at hm; cases hm.2.2⟩
    · rfl

end

/-- The claim in settle, with the quanta named left of it. -/
def Work.leftToSettle (w : Work) (qs : List Nat) : Work := { w with hc := { w.hc with claim := some (.settling qs 0) } }

/-- A quantum settles: Mine, or at once Draining. -/
theorem Work.takeMine_leftToSettle {w : Work} {q : Nat} {qs : List Nat} (h : (w.leftToSettle (q :: qs)).toState.Consistent)
    (r : Option DrainReason) : ((w.takeMine q r).leftToSettle qs).toState.Consistent := by
  have hpend : w.toState.entry q = .pending := (h.pending_iff q).2 List.mem_cons_self
  have hq : q ∉ qs := (List.nodup_cons.1 h.settles.1).1
  have hl : q < w.map.length := by
    by_contra hge
    rw [entry_ge w.toState q (Nat.le_of_not_lt hge)] at hpend
    cases hpend
  have hent : ∀ p, (w.setEntry q .mine).toState.entry p =
      if p = q ∧ q < w.map.length then QEntry.mine else w.toState.entry p :=
    (w.entry_setEntry q · QEntry.mine)
  have hset : ((w.setEntry q .mine).leftToSettle qs).toState.Consistent := by
    refine h.change (.refl _) (fun p _ hd => ?_) (List.sublist_cons_self q qs).subperm (fun p => ?_) (Nat.le_refl _)
    · refine (congrArg QEntry.isDraining (hent p)).trans ?_
      rw [if_neg]
      · exact hd
      · rintro ⟨rfl, -⟩
        rw [show (w.leftToSettle (p :: qs)).toState.entry p = .pending from hpend] at hd
        cases hd
    · have hp : w.toState.entry p = .pending ↔ p ∈ q :: qs := h.pending_iff p
      refine Iff.trans (by rw [← hent p]; rfl) (?_ : (if p = q ∧ q < w.map.length then QEntry.mine else w.toState.entry p) =
        .pending ↔ p ∈ qs)
      by_cases he : p = q
      · simp [he, hl, hq]
      · simpa [he] using hp
  cases r with
  | none => exact hset
  | some r => exact Work.startDrain_consistent hset r none (List.nodup_singleton q)

theorem Work.settleClaim_consistent {w : Work} (h : w.toState.Consistent) {qs : List Nat} {t : Nat}
    (hc : w.hc.claim = some (.settling qs t)) : (w.settleClaim qs).toState.Consistent := by
  have hs : w.toState.settling = qs := by simp [State.settling, hc]
  have hall : qs.filter (fun q => w.toState.entry q == .pending) = qs :=
    List.filter_eq_self.2 fun q hq => by rw [(h.pending_iff q).2 (hs ▸ hq)]; rfl
  have hstart : (w.leftToSettle qs).toState.Consistent :=
    h.change (.refl _) (fun q _ => id) (by rw [hs]; exact .refl _) (fun q => hs ▸ h.pending_iff q) (Nat.le_refl _)
  have hend : ∀ (qs : List Nat) (v : Work), (v.leftToSettle qs).toState.Consistent →
      ((qs.foldl (fun (v : Work) q => v.takeMine q (v.toState.settledReason q)) v).leftToSettle []).toState.Consistent := by
    intro qs
    induction qs with
    | nil => exact fun v hv => hv
    | cons q qs ih => exact fun v hv => ih _ (Work.takeMine_leftToSettle hv _)
  unfold Work.settleClaim
  simp only [hall]
  have hlast := Work.endClaim_consistent (Work.orderDrains_consistent (hend qs w hstart) w.hc.drains.length) rfl
  exact hlast

end Sys2Proof.Machine
end

section
/-! SUPPORT. The changes of mode, the own attempts and the end of a step keep the holdings consistent. -/

namespace Sys2Proof.Machine

theorem startMap_ne_pending (c q : Nat) (d : QEntry) (hd : d ≠ .pending) : (startMap c).getD q d ≠ .pending := by
  by_cases hl : q < 128
  · rw [startMap_getD _ _ hl]
    split <;> simp
  · rw [List.getD_eq_default _ _ (by simpa using hl)]
    exact hd

theorem wipedMap_ne_pending (s : State) (q : Nat) (d : QEntry) (hd : d ≠ .pending) : s.wipedMap.getD q d ≠ .pending := by
  by_cases hl : q < 128
  · rw [wipedMap_getD _ _ hl]
    exact s.vacant_ne_pending q
  · rw [List.getD_eq_default _ _ (by simpa using hl)]
    exact hd

section
variable {w : Work} (h : w.toState.Consistent)
include h

/-- At most one CLAIM is queued or waiting. -/
theorem Work.claims_le_one : w.lc.claims ≤ 1 := by
  have hle := h.claims_le
  split at hle <;> omega

theorem Work.lapse_consistent (p : Promise) (rest : List Promise) : (w.lapse p rest).toState.Consistent := by
  have he : ∀ q, (w.lapse p rest).toState.entry q = w.toState.entry q ∨
      w.toState.entry q = .held p.donor true ∧ (w.lapse p rest).toState.entry q = .held p.donor false := by
    intro q
    refine foldl_induct (fun m : List QEntry => m.getD q .withdrawn = w.toState.entry q ∨
      w.toState.entry q = .held p.donor true ∧ m.getD q .withdrawn = .held p.donor false) _ (fun m r hm => ?_) _ _ (.inl rfl)
    split
    · rename_i hr
      rw [getD_set]
      split
      · rename_i hq
        have hval : m.getD q .withdrawn = .held p.donor true := by
          rw [hq.1]
          simpa [List.getD, hq.2] using hr
        rcases hm with hm | hm
        · exact .inr ⟨hm.symm.trans hval, rfl⟩
        · exact .inr ⟨hm.1, rfl⟩
      · exact hm
    · exact hm
  refine h.onMap rfl rfl (fun q hd => ?_) (fun q => ?_) (Nat.le_refl _)
  · rcases he q with hq | ⟨hq, -⟩
    · rw [hq]
      exact hd
    · rw [hq] at hd
      cases hd
  · rcases he q with hq | ⟨hq, hq'⟩
    · rw [hq]
    · simp [hq, hq']

/-! ## Handing on -/

theorem Work.applyFrame_consistent (t : Nat) (f : Frame) : (w.applyFrame t f).toState.Consistent := by
  cases f with
  | claim qs => exact Work.ite_consistent (w.hearClaim_consistent h _ _) h
  | contest qs => exact Work.ite_consistent (w.hearContest_consistent h _ _) h
  | release b qs => exact Work.ite_consistent (w.hearRelease_consistent h _ _ _) h
  | report => exact Work.ite_consistent (w.hearHoldings_consistent h _ _) h
  | join => exact h
  | leave => exact (w.forgetHoldings_consistent h t false).elsewhere ⟨rfl, rfl, rfl, rfl, rfl⟩
  | budget src v n hold => exact w.hearBudget_consistent h _ _ _ _ _
  | yieldReq u c d l => exact Work.ite_consistent (w.answerYield_consistent h _ _ _ _) h
  | yieldAns r n g => exact Work.ite_consistent (w.takeAnswer_consistent h _ _ _) h

/-- The echo of a CLAIM is handed on when the CLAIM has left the queue, so that none is queued. -/
theorem Work.applyEcho_consistent (f : Frame) (hno : kindOf f = .claim → w.lc.claims = 0) :
    (w.applyEcho f).toState.Consistent := by
  cases f with
  | claim qs => exact w.echoClaim_consistent h qs (hno rfl)
  | release b qs => exact w.echoRelease_consistent h b qs
  | budget src v n hold => exact w.hearBudget_consistent h _ _ _ _ _
  | yieldReq => exact h.elsewhere ⟨rfl, rfl, rfl, rfl, rfl⟩
  | contest | yieldAns | report | join | leave => exact h

/-! ## Modes -/

theorem Work.enterIsolated_consistent : w.enterIsolated.toState.Consistent := by
  unfold Work.enterIsolated
  exact Work.endSweep_consistent (Work.removeQueuedRequest_consistent (Work.removeQueuedClaim_consistent
    (Work.giveUpPending_consistent (Work.drainMine_consistent (w.setMode_consistent h _) _ _) _ _)))

theorem Work.judgeIsolation_consistent : w.judgeIsolation.toState.Consistent :=
  Work.ite_consistent (w.enterIsolated_consistent h) h

theorem Work.enterMuted_consistent : w.enterMuted.toState.Consistent := by
  have hf := Work.loseFrames_consistent (w.setMode_consistent h .muted) removedAtMute
  unfold Work.enterMuted
  generalize (w.setMode .muted).loseFrames removedAtMute = v at hf ⊢
  exact (Work.endSweep_consistent (Work.giveUpPending_consistent (Work.drainMine_consistent
    (v.freeLocally_consistent hf _) _ _) _ _)).elsewhere ⟨rfl, rfl, rfl, rfl, rfl⟩

theorem Work.enterOffline_consistent : w.enterOffline.toState.Consistent := by
  have hm := w.setMode_consistent h .offline
  unfold Work.enterOffline
  generalize w.setMode .offline = v at hm ⊢
  refine Work.suspendCause_consistent (Work.emptyQueue_consistent ?_) _
  exact hm.elsewhere ⟨rfl, rfl, rfl, rfl, rfl⟩

theorem Work.beginDrain_consistent : w.beginDrain.toState.Consistent := by
  unfold Work.beginDrain
  exact Work.endSweep_consistent (Work.removeQueuedRequest_consistent (Work.removeQueuedClaim_consistent
    (Work.giveUpPending_consistent (Work.drainMine_consistent (w.suspendCause_consistent h _) _ _) _ _)))

theorem Work.requestIsolation_consistent : w.requestIsolation.toState.Consistent := by
  unfold Work.requestIsolation
  refine Work.ite_consistent (Work.beginDrain_consistent ?_) (Work.suspendCause_consistent ?_ _) <;>
  exact h.elsewhere ⟨rfl, rfl, rfl, rfl, rfl⟩

/-- The trip wipes the map and empties the lists with it (R38). -/
theorem Work.tripEffects_consistent : w.tripEffects.toState.Consistent := by
  have hm := w.setMode_consistent h .tripped
  unfold Work.tripEffects
  generalize w.setMode .tripped = v at hm ⊢
  have hl := (Link.removeOffLine_claims v.lc.lastAttempt fun f => !(kindOf f == .budget)).trans (v.claims_le_one hm)
  refine Work.suspendCause_consistent ?_ _
  exact .ofNone rfl rfl (fun q => wipedMap_ne_pending v.toState q .withdrawn (by simp)) hl

/-- The RESTART values: a map without holdings, and no list of them (R182). -/
theorem Work.clearBlocks_consistent : w.clearBlocks.toState.Consistent := by
  unfold Work.clearBlocks
  have hl := Work.claims_le_one (w.emptyQueue_consistent h)
  exact Work.refreshMarks_consistent (.ofNone rfl rfl (fun q => startMap_ne_pending _ q .withdrawn (by simp)) hl)

theorem Work.tripEntry_consistent : w.tripEntry.toState.Consistent := by
  unfold Work.tripEntry
  exact Work.ite_consistent (Work.clearBlocks_consistent (w.tripEffects_consistent h)) (w.tripEffects_consistent h)

theorem Work.enterListening_consistent : w.enterListening.toState.Consistent := by
  have hm := w.setMode_consistent h .listening
  unfold Work.enterListening
  generalize w.setMode .listening = v at hm ⊢
  refine Work.ite_consistent (Work.tripEntry_consistent (Work.handTarget_consistent ?_)) (Work.handTarget_consistent ?_) <;>
  exact hm.elsewhere ⟨rfl, rfl, rfl, rfl, rfl⟩

theorem Work.clearingPoint_consistent : w.clearingPoint.toState.Consistent := by
  unfold Work.clearingPoint
  exact Work.ite_consistent (w.clearBlocks_consistent h) (Work.enterListening_consistent (w.clearBlocks_consistent h))

theorem Work.restart_consistent : w.restart.toState.Consistent := by
  have hr : ({ w with mc := { w.mc with restarting := true } } : Work).toState.Consistent :=
    h.elsewhere ⟨rfl, rfl, rfl, rfl, rfl⟩
  unfold Work.restart
  exact Work.ite_consistent h (Work.ite_consistent (Work.clearingPoint_consistent (Work.suspendCause_consistent hr _))
    (Work.beginDrain_consistent hr))

theorem Work.concludeDrain_consistent : w.concludeDrain.toState.Consistent := by
  unfold Work.concludeDrain
  refine Work.ite_consistent (Work.clearingPoint_consistent ?_) (Work.enterOffline_consistent ?_) <;>
  exact h.elsewhere ⟨rfl, rfl, rfl, rfl, rfl⟩

theorem Work.testDrainDone_consistent : w.testDrainDone.toState.Consistent := by
  unfold Work.testDrainDone
  suffices hr : ∀ v : Work, v.toState.Consistent → ∀ e : Bool, (if e then v.concludeDrain else v).toState.Consistent by
    refine Work.ite_consistent h (hr _ (Work.ite_consistent ?_ h) _)
    exact (w.enqueue_consistent h (f := .leave) (by simp [kindOf])).elsewhere ⟨rfl, rfl, rfl, rfl, rfl⟩
  exact fun v hv e => Work.ite_consistent (v.concludeDrain_consistent hv) hv

theorem Work.forgetRequests_consistent :
    ({ w with hc := { w.hc with request := none, promises := [] } } : Work).toState.Consistent :=
  h.elsewhere ⟨rfl, rfl, rfl, rfl, rfl⟩

theorem Work.hearDuplicate_consistent (k : FrameKind) : (w.hearDuplicate k).toState.Consistent := by
  have hd : ({ w with mc := { w.mc with duplicate := true } } : Work).toState.Consistent :=
    h.elsewhere ⟨rfl, rfl, rfl, rfl, rfl⟩
  have hmark : ∀ v : Work, v.toState.Consistent → (v.mapAll dropMark).toState.Consistent := fun v hv =>
    v.mapAll_consistent hv (fun q e => by cases e <;> simp [dropMark]) fun q e he => by
      cases e with
      | draining r b => rfl
      | _ => cases he
  unfold Work.hearDuplicate
  refine Work.ite_consistent h (Work.ite_consistent (Work.startEpoch_consistent (Work.enterOffline_consistent (hmark _ ?_)))
    (Work.enterOffline_consistent (hmark _ ?_))) <;>
  exact Work.forgetRequests_consistent (Work.endSweep_consistent (Work.giveUpPending_consistent (Work.drainMine_consistent
    (Work.emptyQueue_consistent (Work.notice_consistent hd _ _ _)) _ _) _ _))

/-! ## The end of a step -/

theorem Work.settle_consistent : w.settle.toState.Consistent := by
  unfold Work.settle
  exact Work.flushNotices_consistent (Work.formAndSend_consistent (Work.holdingsProgress_consistent
    (Work.testSessionEnd_consistent (Work.testDrainDone_consistent (Work.testSessionEnd_consistent
      (Work.handConflict_consistent (w.lostCompletes_consistent h)))))))

theorem Work.finish_consistent : w.finish.Consistent := by
  unfold Work.finish
  exact w.settle_consistent h

/-! ## Frames heard -/

theorem Work.countReceiveError_consistent : w.countReceiveError.toState.Consistent := by
  unfold Work.countReceiveError
  dsimp only
  refine Work.ite_consistent (Work.notice_consistent ?_ _ _ _) ?_ <;> exact h.elsewhere ⟨rfl, rfl, rfl, rfl, rfl⟩

theorem Work.takeFrame_consistent (t : Nat) (f : Frame) : (w.takeFrame t f).toState.Consistent := by
  have hp := w.hearPeer_consistent h t f
  unfold Work.takeFrame
  exact Work.applyFrame_consistent (Work.ite_consistent (Work.setMode_consistent hp _) hp) _ _

theorem Work.validFrame_consistent : ({ w with lc := w.lc.validFrame } : Work).toState.Consistent :=
  h.elsewhere ⟨rfl, rfl, rfl, rfl, rfl⟩

theorem Work.hearValid_consistent (k : FrameKind) (t : Nat) (f : Frame) : (w.hearValid k t f).toState.Consistent := by
  have hv := w.validFrame_consistent h
  unfold Work.hearValid
  exact Work.ite_consistent hv (Work.ite_consistent (Work.hearDuplicate_consistent hv k)
    (Work.ite_consistent hv (Work.takeFrame_consistent hv t f)))

/-! ## Own attempts -/

theorem Work.goodEcho_consistent : w.goodEcho.toState.Consistent := h.elsewhere ⟨rfl, rfl, rfl, rfl, rfl⟩

theorem Work.dropId_consistent (id : Nat) : ({ w with lc := w.lc.dropId id } : Work).toState.Consistent :=
  h.onLink (by simp) (w.lc.dropId_claims id)

theorem Work.echoFrame_consistent (id : Nat) : (w.echoFrame id).toState.Consistent := by
  unfold Work.echoFrame
  split
  · exact w.goodEcho_consistent h
  · rename_i f hf
    have hg := Work.goodEcho_consistent (w.dropId_consistent h id)
    refine Work.ite_consistent (Work.applyEcho_consistent hg f fun hk => ?_) hg
    obtain ⟨qs, rfl⟩ : ∃ qs, f = .claim qs := by
      cases f with
      | claim qs => exact ⟨qs, rfl⟩
      | _ => cases hk
    have hlt : (w.lc.dropId id).claims < w.lc.claims := Link.dropId_claims_lt hf
    have hone := w.claims_le_one h
    change (w.lc.dropId id).claims = 0
    omega

theorem Work.echoProbe_consistent (a : Bool) : (w.echoProbe a).toState.Consistent := by
  have hg := w.goodEcho_consistent h
  unfold Work.echoProbe
  exact Work.ite_consistent hg (Work.judgeIsolation_consistent (Work.setMode_consistent hg _))

theorem Work.dropFrame_consistent (id : Nat) : (w.dropFrame id).toState.Consistent := by
  unfold Work.dropFrame
  split
  · exact h
  · exact Work.lostFrame_consistent (w.dropId_consistent h id) _

theorem Work.stopAttempt_consistent : w.stopAttempt.toState.Consistent := h.elsewhere ⟨rfl, rfl, rfl, rfl, rfl⟩

theorem Work.yieldLine_consistent : w.yieldLine.toState.Consistent :=
  Work.ite_consistent h (h.elsewhere ⟨rfl, rfl, rfl, rfl, rfl⟩)

theorem Work.returnFrame_consistent (id : Nat) : (w.returnFrame id).toState.Consistent :=
  h.onLink ⟨rfl, rfl, rfl⟩ (w.lc.returned_claims id)

theorem Work.loseArbitration_consistent (a : Attempt) : (w.loseArbitration a).toState.Consistent := by
  have hy := Work.yieldLine_consistent (w.stopAttempt_consistent h)
  cases a with
  | frame id us last => exact Work.ite_consistent (Work.dropFrame_consistent hy id) (Work.returnFrame_consistent hy id)
  | probe f us last => exact hy.elsewhere ⟨rfl, rfl, rfl, rfl, rfl⟩
  | brk n => exact h

/-- A retry count changes no kind of frame. -/
theorem Work.retried_consistent (id : Nat) : ({ w with lc := { w.lc with queue := w.lc.queue.map fun x =>
    if x.id = id then { x with retry := x.retry + 1 } else x } } : Work).toState.Consistent := by
  have hmap : (w.lc.queue.map fun x => if x.id = id then { x with retry := x.retry + 1 } else x).countP QFrame.isClaim =
      w.lc.queue.countP QFrame.isClaim := by
    rw [List.countP_map]
    refine List.countP_congr fun x _ => ?_
    dsimp only [Function.comp]
    split <;> rfl
  refine h.onLink ⟨rfl, rfl, rfl⟩ ((List.countP_append ..).trans_le ?_)
  rw [hmap, ← List.countP_append]
  exact Nat.le_refl _

theorem Work.retryOrDrop_consistent (id : Nat) (last : Bool) : (w.retryOrDrop id last).toState.Consistent := by
  unfold Work.retryOrDrop
  split
  · exact h
  · have hdrop := w.dropFrame_consistent h id
    exact Work.ite_consistent (Work.notice_consistent hdrop _ _ _)
      (Work.ite_consistent hdrop (Work.returnFrame_consistent (w.retried_consistent h id) id))

theorem Work.countTransmitError_consistent : w.countTransmitError.toState.Consistent := by
  unfold Work.countTransmitError
  dsimp only
  refine Work.ite_consistent (Work.ite_consistent (Work.enterMuted_consistent ?_) ?_) h <;>
  exact h.elsewhere ⟨rfl, rfl, rfl, rfl, rfl⟩

theorem Work.probeFailed_consistent (a : Bool) : (w.probeFailed a).toState.Consistent :=
  Work.ite_consistent h (h.elsewhere ⟨rfl, rfl, rfl, rfl, rfl⟩)

theorem Work.sendBreak_consistent : w.sendBreak.toState.Consistent := by
  refine h.onLink ⟨rfl, rfl, rfl⟩ (le_of_eq ?_)
  change w.lc.askBreak.claims = w.lc.claims
  unfold Link.askBreak
  split <;> rfl

/-! ## Timers -/

theorem Work.decideSolo_consistent : w.decideSolo.toState.Consistent := by
  unfold Work.decideSolo
  dsimp only
  refine Work.ite_consistent h (Work.ite_consistent (Work.notice_consistent ?_ _ _ _) ?_) <;>
  exact h.elsewhere ⟨rfl, rfl, rfl, rfl, rfl⟩

theorem Work.endListening_consistent (b : Bool) : (w.endListening b).toState.Consistent := by
  have hl : ({ w with mc := { w.mc with listenAt := none } } : Work).toState.Consistent :=
    h.elsewhere ⟨rfl, rfl, rfl, rfl, rfl⟩
  unfold Work.endListening
  exact Work.startEpoch_consistent (Work.decideSolo_consistent (Work.ite_consistent (Work.enterOffline_consistent hl)
    (Work.autoResume_consistent (Work.setMode_consistent (Work.enqueue_consistent hl (by simp [kindOf, State.joinFrame])) _))))

theorem Work.handPeers_consistent : w.handPeers.toState.Consistent :=
  .foldl _ (fun v t hv => v.handPeer_consistent hv t false) _ h

theorem Work.leaveTripped_consistent : w.leaveTripped.toState.Consistent := by
  unfold Work.leaveTripped
  refine Work.enterListening_consistent (Work.handPeers_consistent ?_)
  exact h.elsewhere ⟨rfl, rfl, rfl, rfl, rfl⟩

theorem Work.rejoin_consistent : w.rejoin.toState.Consistent := by
  unfold Work.rejoin
  exact Work.judgeIsolation_consistent (Work.autoResume_consistent
    (Work.enqueue_consistent (w.setMode_consistent h _) (by simp [kindOf, State.joinFrame])))

end

end Sys2Proof.Machine
end

section
/-! SUPPORT. The sweep at the end of a step, and what every command keeps of the holdings and the sweep. -/

namespace Sys2Proof.Machine

/-! ## The sweep at the end of a step -/

theorem Bookings.offer_freeze (k : Bookings) (i v t : Nat) : (k.offer i v t).freeze = k.freeze := by
  unfold Bookings.offer
  split
  · rfl
  · dsimp only
    split
    · rfl
    · split
      · rfl
      · split <;> rfl

theorem Work.flushNotices_freeze (w : Work) : w.flushNotices.bk.freeze = w.bk.freeze :=
  foldl_induct (fun k : Bookings => k.freeze = w.bk.freeze) _ (fun k f hk => by rw [Bookings.offer_freeze, hk]) _ _ rfl

theorem Bookings.postWithheld_freeze (k : Bookings) : k.postWithheld.freeze = k.freeze := by
  unfold Bookings.postWithheld
  split
  · split <;> rfl
  · rfl

theorem Bookings.fetch_freeze (k : Bookings) : k.fetch.freeze = k.freeze := by
  unfold Bookings.fetch
  split
  · rfl
  · exact foldl_induct (fun v : Bookings => v.freeze = k.freeze) _ (fun v _ hv => by rw [Bookings.postWithheld_freeze, hv]) _ _ rfl

/-- What R84 looks at: the mode, the withdrawal, the FREEZE mark and whether the session charges. -/
theorem mayTake_congr {s t : State} (hm : t.mc.mode = s.mc.mode) (hw : t.withdrawing = s.withdrawing)
    (hf : t.bk.freeze = s.bk.freeze) (hc : t.charging = s.charging) : t.mayTake = s.mayTake := by
  simp [State.mayTake, hm, hw, hf, hc]

theorem charging_congr {s t : State} (h : t.ss.session = s.ss.session) : t.charging = s.charging := by
  simp [State.charging, h]

/-- Every step ends with no sweep where R84 permits none (R93). -/
theorem Work.finish_sweepPermitted (w : Work) : w.finish.sweepPermitted := by
  intro hs
  generalize hv : w.lostCompletes.handConflict.testSessionEnd.testDrainDone.testSessionEnd = v
  have hfin : w.finish = v.holdingsProgress.formAndSend.flushNotices.toState := by rw [← hv]; rfl
  rw [hfin] at hs ⊢
  have hsame : v.holdingsProgress.formAndSend.flushNotices.toState.mayTake = v.toState.mayTake :=
    mayTake_congr (by simp) (by simp [State.withdrawing]) (by simp [Work.flushNotices_freeze]) (charging_congr (by simp))
  rw [hsame]
  by_contra hno
  have hidle := (Work.holdingsProgress_idle (by simpa using hno)).2
  simp [hidle] at hs

/-! ## What a command keeps -/

/-- Consistent holdings stay so, and so does the sweep in its place. -/
structure State.Sound (s t : State) : Prop where
  holdings : s.Consistent → t.Consistent
  sweep : s.sweepPermitted → t.sweepPermitted

/-- Whatever next state the outcome gives is sound. -/
def State.LeadsSoundly (s : State) (o : Host.Outcome State Fault Refusal) : Prop := ∀ t, o = .next t → s.Sound t

theorem State.Sound.refl (s : State) : s.Sound s := ⟨id, id⟩

/-- A step that ends with `finish`. -/
theorem sound_finish {s : State} {w : Work} (h : s.Consistent → w.toState.Consistent) : s.Sound w.finish :=
  ⟨fun k => w.finish_consistent (h k), fun _ => w.finish_sweepPermitted⟩

/-- A change elsewhere: of neither the map, the lists, the frames, the sweep, nor what R84 looks at. -/
theorem State.Sound.elsewhere {a s t : State} (h : a.Sound s)
    (e : t.map = s.map ∧ t.hc = s.hc ∧ t.lc.queue = s.lc.queue ∧ t.lc.waiting = s.lc.waiting) (hm : t.mayTake = s.mayTake) :
    a.Sound t := by
  obtain ⟨hmap, hhc, hq, hw⟩ := e
  refine ⟨fun k => (h.holdings k).elsewhere ⟨hmap, by rw [hhc], by rw [hhc], hq, hw⟩, fun k hs => ?_⟩
  rw [hm]
  exact h.sweep k (by rwa [hhc] at hs)

section
variable {a s : State} (h : a.Sound s)
include h

theorem pass_sound (e : Nat) : a.Sound (s.pass e) := by
  have hc : (s.pass e).charging = s.charging := by
    unfold State.charging
    rw [pass_session]
    cases s.ss.session <;> rfl
  have hw : (s.pass e).lc.waiting = s.lc.waiting := by rw [pass_eq]
  exact h.elsewhere (by simp [hw]) (mayTake_congr (by simp) (by simp [State.withdrawing]) (by simp) hc)

theorem atTime_sound (t : Nat) : a.Sound (s.atTime t) := pass_sound h _

theorem advance_sound (d : Nat) : a.Sound (s.advance d) := pass_sound h _

theorem respond_sound (r : Response) : a.Sound (s.respond r) :=
  h.elsewhere (by simp) (mayTake_congr (by simp) (by simp [State.withdrawing]) (by simp) (charging_congr (by simp)))

end

theorem atTime_consistent {s : State} (h : s.Consistent) (t : Nat) : (s.atTime t).Consistent :=
  (atTime_sound (.refl s) t).holdings h

section
variable {s : State}

theorem soundly_goOn {t : State} (h : s.Sound t) : s.LeadsSoundly (goOn t) := by
  rintro _ ⟨⟩
  exact h

theorem soundly_stays : s.LeadsSoundly (goOn s) := soundly_goOn (.refl s)

theorem soundly_finish {w : Work} (h : s.Consistent → w.toState.Consistent) : s.LeadsSoundly (goOn w.finish) :=
  soundly_goOn (sound_finish h)

theorem soundly_refused (r : Refusal) : s.LeadsSoundly (.refused r) := fun _ h => by cases h

theorem soundly_ite {c : Prop} [Decidable c] {o u : Host.Outcome State Fault Refusal} (ho : s.LeadsSoundly o)
    (hu : s.LeadsSoundly u) : s.LeadsSoundly (if c then o else u) := by
  split
  · exact ho
  · exact hu

theorem soundly_command (code : Nat) (checks : List (Bool × RefCode)) (act : State → State × Response)
    (h : s.Sound (act s).1) : s.LeadsSoundly (goOn (s.command code checks act)) := by
  refine soundly_goOn ?_
  unfold State.command
  split
  · exact respond_sound (.refl s) _
  · exact respond_sound h _

theorem soundly_answer (code : Nat) (checks : List (Bool × RefCode)) (r : State → Response) :
    s.LeadsSoundly (goOn (s.command code checks fun s => (s, r s))) := soundly_command _ _ _ (.refl s)

/-! ### Inputs and commands -/

theorem setTrip_sound (b : Bool) : s.Sound (s.setTrip b) :=
  (State.Sound.refl s).elsewhere ⟨rfl, rfl, rfl, rfl⟩ rfl

theorem execTripAsserted_soundly : s.LeadsSoundly (execTripAsserted s) := by
  have ht := setTrip_sound (s := s) true
  unfold execTripAsserted
  refine soundly_ite soundly_stays (soundly_ite (soundly_goOn ht) (soundly_ite (soundly_finish fun h => ?_)
    (soundly_finish fun h => ?_)))
  · exact Work.sendBreak_consistent (State.Consistent.elsewhere (ht.holdings h) ⟨rfl, rfl, rfl, rfl, rfl⟩)
  · exact Work.sendBreak_consistent (Work.tripEntry_consistent (ht.holdings h))

theorem execTripDeasserted_soundly : s.LeadsSoundly (execTripDeasserted s) := by
  have ht := setTrip_sound (s := s) false
  unfold execTripDeasserted
  exact soundly_ite soundly_stays
    (soundly_ite (soundly_goOn (ht.elsewhere ⟨rfl, rfl, rfl, rfl⟩ rfl)) (soundly_goOn ht))

theorem execOfflineAsserted_soundly : s.LeadsSoundly (execOfflineAsserted s) := by
  have ho : s.Sound { s with io := { s.io with offline := true } } :=
    (State.Sound.refl s).elsewhere ⟨rfl, rfl, rfl, rfl⟩ rfl
  unfold execOfflineAsserted
  exact soundly_ite (soundly_finish fun h => Work.requestIsolation_consistent (ho.holdings h)) (soundly_goOn ho)

/-- A station is configured out of UNCONFIGURED, where no sweep stands. -/
theorem execConfigure_soundly (p : Payload) : s.LeadsSoundly (execConfigure p s) := by
  refine soundly_goOn ?_
  unfold State.command
  split
  · exact respond_sound (.refl s) _
  · rename_i hn
    have hmode : s.mc.mode = .unconfigured := by
      by_contra hne
      cases hp : payloadAllowed (fun x => x == 20) p <;> simp [firstRefusal, badLength, hne, hp] at hn
    have hmay : s.mayTake = false := by simp [State.mayTake, hmode]
    refine respond_sound ?_ _
    beta_reduce
    split
    · exact .refl s
    · refine ⟨fun h => h.elsewhere ⟨rfl, rfl, rfl, rfl, rfl⟩, fun hs hsweep => ?_⟩
      exact absurd ((hs hsweep).symm.trans hmay) (by simp)

theorem startValues_consistent : s.startValues.Consistent :=
  .ofNone rfl rfl (fun q => startMap_ne_pending _ q .withdrawn (by simp)) (Nat.zero_le _)

theorem execStart_soundly (p : Payload) : s.LeadsSoundly (execStart p s) :=
  soundly_command _ _ _ (sound_finish fun _ => Work.enterListening_consistent
    (Work.refreshMarks_consistent (w := s.startValues.begin) startValues_consistent))

theorem execIsolate_soundly (p : Payload) : s.LeadsSoundly (execIsolate p s) := by
  refine soundly_command _ _ _ ?_
  dsimp only
  split
  · exact .refl s
  · exact sound_finish fun h => Work.requestIsolation_consistent (w := s.begin) h

theorem execRejoin_soundly (p : Payload) (level : Bool) : s.LeadsSoundly (execRejoin p level s) := by
  have ho : s.Sound { s with io := { s.io with offline := level } } := (State.Sound.refl s).elsewhere ⟨rfl, rfl, rfl, rfl⟩ rfl
  have hc : s.Sound (({ s with io := { s.io with offline := level } } : State).clearIsolation) := by
    refine ⟨fun h => (ho.holdings h).elsewhere ⟨rfl, rfl, rfl, rfl, rfl⟩, fun h hs => ?_⟩
    have hmay := h hs
    simp only [State.mayTake, State.withdrawing, Bool.and_eq_true, Bool.not_eq_true', Bool.or_eq_false_iff] at hmay ⊢
    exact ⟨hmay.1, rfl, hmay.2.2⟩
  unfold execRejoin
  dsimp only
  refine soundly_goOn ?_
  unfold State.command
  split
  · exact respond_sound ho _
  · refine respond_sound ?_ _
    dsimp only
    split
    · exact sound_finish fun h => Work.rejoin_consistent (hc.holdings h)
    · exact hc

theorem leaveSession_sound (why : EndReason) : s.Sound (s.leaveSession why) := by
  unfold State.leaveSession
  split
  · exact .refl s
  · exact sound_finish fun h => Work.endSession_consistent (w := s.begin) h _

theorem setBooking_sound (i : Nat) (b : Option Booking) : s.Sound (s.setBooking i b) :=
  (State.Sound.refl s).elsewhere ⟨rfl, rfl, rfl, rfl⟩ rfl

theorem fetch_sound : s.Sound { s with bk := s.bk.fetch } :=
  (State.Sound.refl s).elsewhere ⟨rfl, rfl, rfl, rfl⟩ (mayTake_congr rfl rfl (Bookings.fetch_freeze _) rfl)

theorem execResponseReady_soundly : s.LeadsSoundly (execResponseReady s) := by
  unfold execResponseReady
  split
  · rename_i x _
    refine soundly_ite soundly_stays (soundly_goOn ?_)
    exact (atTime_sound (.refl s) x.readyAt).elsewhere ⟨rfl, rfl, rfl, rfl⟩ rfl
  · exact soundly_stays

/-! ### Events of the line -/

theorem heard_sound (k : FrameKind) (u : BitVec 5) (p : List Byte) : s.Sound (s.heard k u p) := by
  unfold State.heard
  split
  · exact .refl s
  · split
    · exact sound_finish fun h => Work.countReceiveError_consistent (w := s.begin) h
    · exact sound_finish fun h => Work.hearValid_consistent (w := s.begin) h _ _ _

theorem execDuplicateFrame_soundly (k : FrameKind) : s.LeadsSoundly (execDuplicateFrame k s) := by
  unfold execDuplicateFrame
  refine soundly_ite soundly_stays (soundly_finish fun h => ?_)
  have hv := Work.validFrame_consistent (w := s.begin) h
  exact Work.ite_consistent (Work.hearDuplicate_consistent hv k) hv

theorem execReceiveError_soundly : s.LeadsSoundly (execReceiveError s) :=
  soundly_ite (soundly_finish fun h => Work.countReceiveError_consistent (w := s.begin) h) soundly_stays

theorem execDominantRun_soundly : s.LeadsSoundly (execDominantRun s) :=
  soundly_ite soundly_stays (soundly_finish fun h => Work.countReceiveError_consistent (w := s.begin) h)

theorem startBreak_sound : s.Sound s.startBreak := (State.Sound.refl s).elsewhere ⟨rfl, rfl, rfl, rfl⟩ rfl

theorem endBreak_sound : s.Sound s.endBreak := by
  have hl : s.endBreak.lc.queue = s.lc.queue ∧ s.endBreak.lc.waiting = s.lc.waiting := by
    unfold State.endBreak
    dsimp only
    split <;> exact ⟨rfl, rfl⟩
  exact (State.Sound.refl s).elsewhere ⟨rfl, rfl, hl⟩ rfl

theorem execBreakDetected_soundly : s.LeadsSoundly (execBreakDetected s) := by
  have hb := startBreak_sound (s := s)
  unfold execBreakDetected
  exact soundly_ite soundly_stays (soundly_ite (soundly_goOn (hb.elsewhere ⟨rfl, rfl, rfl, rfl⟩ rfl))
    (soundly_finish fun h => Work.tripEntry_consistent (w := s.startBreak.begin) (hb.holdings h)))

theorem execBreakEnded_soundly : s.LeadsSoundly (execBreakEnded s) := by
  have hb := endBreak_sound (s := s)
  unfold execBreakEnded
  exact soundly_ite soundly_stays
    (soundly_ite (soundly_goOn (hb.elsewhere ⟨rfl, rfl, rfl, rfl⟩ rfl)) (soundly_goOn hb))

/-- The head of the queue keeps its kind as it goes on the line. -/
theorem startFrame_sound {a b : State} (h : a.Sound b) (x : QFrame) (rest : List QFrame) (hq : b.lc.queue = x :: rest) :
    a.Sound (b.startFrame x rest) := by
  have hkind : ({ x with frame := x.frame.withHoldings b.holdings } : QFrame).isClaim = x.isClaim := by
    cases hx : x.frame <;> simp [QFrame.isClaim, hx, Frame.withHoldings, kindOf]
  have hclaims : (b.startFrame x rest).lc.claims = b.lc.claims := by
    unfold Link.claims
    rw [hq]
    simp [State.startFrame, List.countP_cons, hkind]
  exact ⟨fun k => (h.holdings k).onLink ⟨rfl, rfl, rfl⟩ hclaims.le, fun k => h.sweep k⟩

theorem execTransmitAttemptStart_soundly : s.LeadsSoundly (execTransmitAttemptStart s) := by
  have hp := pass_sound (.refl s) s.gapWait
  unfold execTransmitAttemptStart
  refine soundly_ite soundly_stays ?_
  split
  · rename_i x rest _ hq
    exact soundly_goOn (startFrame_sound hp x rest (by simpa using hq))
  · exact soundly_goOn (hp.elsewhere ⟨rfl, rfl, rfl, rfl⟩ rfl)
  · exact soundly_stays

theorem execGoodEcho_soundly : s.LeadsSoundly (execGoodEcho s) := by
  unfold execGoodEcho
  split
  · exact soundly_finish fun h => Work.echoFrame_consistent (w := s.begin) h _
  · exact soundly_finish fun h => Work.echoProbe_consistent (w := s.begin) h _
  · exact soundly_stays

theorem execLostArbitration_soundly : s.LeadsSoundly (execLostArbitration s) := by
  unfold execLostArbitration
  split
  · exact soundly_ite (soundly_finish fun h => Work.loseArbitration_consistent (w := s.begin) h _) soundly_stays
  · exact soundly_stays

theorem execTransmitError_soundly : s.LeadsSoundly (execTransmitError s) := by
  have hstop : s.Consistent → s.begin.stopAttempt.toState.Consistent := fun h => Work.stopAttempt_consistent (w := s.begin) h
  unfold execTransmitError
  split
  · exact soundly_finish fun h => Work.countTransmitError_consistent (Work.retryOrDrop_consistent (hstop h) _ _)
  · exact soundly_finish fun h => Work.probeFailed_consistent (hstop h) _
  · exact soundly_stays

/-! ### Timers and limits -/

/-- An event that brings the clock to its time and ends the step. -/
theorem soundly_due (o : Option Nat) (f : Nat → Work) (hf : ∀ t, s.Consistent → (f t).toState.Consistent) :
    s.LeadsSoundly (match o with | some t => goOn (f t).finish | none => goOn s) := by
  cases o with
  | some t => exact soundly_finish (hf t)
  | none => exact soundly_stays

theorem execOfferExpiry_soundly (src : BitVec 5) : s.LeadsSoundly (execOfferExpiry src s) := by
  unfold execOfferExpiry
  split
  · exact soundly_finish fun h => Work.removeOffer_consistent (w := (s.atTime _).begin) (atTime_consistent h _) _
  · exact soundly_stays

theorem execSettleExpiry_soundly : s.LeadsSoundly (execSettleExpiry s) := by
  unfold execSettleExpiry
  split
  · rename_i qs t hc
    exact soundly_finish fun h => Work.settleClaim_consistent (w := (s.atTime t).begin) (atTime_consistent h t) (t := t)
      (by simpa using hc)
  · exact soundly_stays

theorem execListeningExpiry_soundly (b : Bool) : s.LeadsSoundly (execListeningExpiry b s) := by
  unfold execListeningExpiry
  split
  · rename_i t _
    refine soundly_finish fun h => Work.endListening_consistent ?_ _
    exact (atTime_consistent h t).elsewhere ⟨rfl, rfl, rfl, rfl, rfl⟩
  · exact soundly_stays

theorem execLostQuiesceExpiry_soundly : s.LeadsSoundly (execLostQuiesceExpiry s) := by
  unfold execLostQuiesceExpiry
  split
  · rename_i t _
    refine soundly_finish fun h => Work.completeAll_consistent ?_
    exact (atTime_consistent h t).elsewhere ⟨rfl, rfl, rfl, rfl, rfl⟩
  · exact soundly_stays

theorem execPromiseExpiry_soundly : s.LeadsSoundly (execPromiseExpiry s) := by
  unfold execPromiseExpiry
  split
  · exact soundly_finish fun h => Work.lapse_consistent (w := (s.atTime _).begin) (atTime_consistent h _) _ _
  · exact soundly_stays

theorem execMuteHoldExpiry_soundly : s.LeadsSoundly (execMuteHoldExpiry s) := by
  unfold execMuteHoldExpiry
  split
  · rename_i t _
    exact soundly_goOn ((atTime_sound (.refl s) t).elsewhere ⟨rfl, rfl, rfl, rfl⟩ rfl)
  · exact soundly_stays

theorem execStepDurationReached_soundly : s.LeadsSoundly (execStepDurationReached s) := by
  unfold execStepDurationReached
  split
  · exact soundly_finish fun h => Work.testStep_consistent (w := (s.advance _).begin)
      ((advance_sound (.refl s) _).holdings h) _
  · exact soundly_stays

/-! ### Converter Port -/

theorem execSetpointRefresh_soundly : s.LeadsSoundly (execSetpointRefresh s) :=
  soundly_goOn ((atTime_sound (.refl s) s.ci.refreshAt).elsewhere ⟨rfl, rfl, rfl, rfl⟩ rfl)

/-- The drain-confirm marks change no quantum of the drain list (R131). -/
theorem execSetpointMessageSent_soundly : s.LeadsSoundly (execSetpointMessageSent s) := by
  unfold execSetpointMessageSent
  split
  · rename_i m rest _
    refine soundly_goOn ⟨fun h => ?_, fun h => h⟩
    refine h.onMap ?_ rfl (fun _ => id) (fun _ => .rfl) (Nat.le_refl _)
    refine (List.map_map ..).trans (List.map_congr_left fun d _ => ?_)
    dsimp only [Function.comp]
    split <;> rfl
  · exact soundly_stays

theorem countDiscarded_sound : s.Sound s.countDiscarded := (State.Sound.refl s).elsewhere ⟨rfl, rfl, rfl, rfl⟩ rfl

theorem execMeterReport_soundly (msg : List Byte) (n : Nat) : s.LeadsSoundly (execMeterReport msg n s) := by
  unfold execMeterReport
  refine soundly_ite soundly_stays ?_
  split
  · exact soundly_finish fun h => Work.takeReport_consistent (w := s.begin) h _ _
  · exact soundly_goOn countDiscarded_sound

/-! ### Every command -/

theorem resetWith_sound (own : Nat) (trip offline : Bool) (queue : List Instr) :
    s.Sound (State.resetWith own trip offline queue) := by
  refine ⟨fun _ => .ofNone rfl rfl (fun q => ?_) (Nat.zero_le _), fun _ hs => by cases hs⟩
  change (List.replicate Config.quanta QEntry.free).getD q .withdrawn ≠ .pending
  rw [List.getD_eq_getElem?_getD, List.getElem?_replicate]
  split <;> simp

/-- Every command keeps the holdings consistent and the sweep in its place. -/
theorem exec_soundly (c : Instr) : s.LeadsSoundly (exec c s) := by
  cases c with
  | hardwareReset n => exact soundly_goOn (resetWith_sound _ _ _ _)
  | configure p => exact execConfigure_soundly p
  | tripAsserted => exact execTripAsserted_soundly
  | tripDeasserted => exact execTripDeasserted_soundly
  | offlineAsserted => exact execOfflineAsserted_soundly
  | identify p => exact soundly_answer _ _ _
  | start p => exact execStart_soundly p
  | status p => exact soundly_answer _ _ _
  | clearFlags p => exact soundly_command _ _ _ ((State.Sound.refl s).elsewhere ⟨rfl, rfl, rfl, rfl⟩ rfl)
  | admitSession p => exact soundly_command _ _ _ (sound_finish fun h => Work.takeAdmission_consistent (w := s.begin) h _)
  | vehicleUpdate p => exact soundly_command _ _ _ (sound_finish fun h => Work.vehicleUpdate_consistent (w := s.begin) h _)
  | undock p => exact soundly_command _ _ _ (leaveSession_sound _)
  | abortSession p => exact soundly_command _ _ _ (leaveSession_sound _)
  | suspend p => exact soundly_command _ _ _ (sound_finish fun h => Work.suspendCause_consistent (w := s.begin) h _)
  | resume p => exact soundly_command _ _ _ (sound_finish fun h => Work.resumeSession_consistent (w := s.begin) h)
  | budgetOffer p => exact soundly_command _ _ _ (sound_finish fun h => Work.offerBudget_consistent (w := s.begin) h _ _)
  | isolate p => exact execIsolate_soundly p
  | rejoin p level => exact execRejoin_soundly p level
  | restart p => exact soundly_command _ _ _ (sound_finish fun h => Work.restart_consistent (w := s.begin) h)
  | book p => exact soundly_command _ _ _ (setBooking_sound _ _)
  | unbook p => exact soundly_command _ _ _ (setBooking_sound _ _)
  | clearAction p => exact soundly_command _ _ _ (sound_finish fun h => Work.clearActions_consistent (w := s.begin) h _ _)
  | fetchNotice p => exact soundly_command _ _ _ fetch_sound
  | readPeer p => exact soundly_answer _ _ _
  | readQuanta p => exact soundly_answer _ _ _
  | readSession p => exact soundly_answer _ _ _
  | readResult p => exact soundly_answer _ _ _
  | unknownCommand code p => exact soundly_ite (soundly_goOn (respond_sound (.refl s) _)) (soundly_refused _)
  | fetchResponse n => exact soundly_goOn ((State.Sound.refl s).elsewhere ⟨rfl, rfl, rfl, rfl⟩ rfl)
  | invalidTransaction bs => exact soundly_ite (soundly_refused _) soundly_stays
  | responseReady => exact execResponseReady_soundly
  | claim u p => exact soundly_goOn (heard_sound _ _ _)
  | contest u p => exact soundly_goOn (heard_sound _ _ _)
  | release u p => exact soundly_goOn (heard_sound _ _ _)
  | report u p => exact soundly_goOn (heard_sound _ _ _)
  | join u p => exact soundly_goOn (heard_sound _ _ _)
  | leave u p => exact soundly_goOn (heard_sound _ _ _)
  | budget u p => exact soundly_goOn (heard_sound _ _ _)
  | yieldReq u p => exact soundly_goOn (heard_sound _ _ _)
  | yieldAns u p => exact soundly_goOn (heard_sound _ _ _)
  | duplicateFrame k => exact execDuplicateFrame_soundly k
  | receiveError => exact execReceiveError_soundly
  | dominantRun => exact execDominantRun_soundly
  | breakDetected => exact execBreakDetected_soundly
  | breakEnded => exact execBreakEnded_soundly
  | transmitAttemptStart => exact execTransmitAttemptStart_soundly
  | goodEcho => exact execGoodEcho_soundly
  | lostArbitration => exact execLostArbitration_soundly
  | transmitError => exact execTransmitError_soundly
  | offerExpiry src => exact execOfferExpiry_soundly src
  | settleExpiry => exact execSettleExpiry_soundly
  | listeningExpiry level => exact execListeningExpiry_soundly level
  | peerSilenceLimit u => exact soundly_due _ _ fun t h => Work.silence_consistent (w := (s.atTime t).begin) (atTime_consistent h t) _
  | peerExpulsionLimit u => exact soundly_due _ _ fun t h => Work.expel_consistent (w := (s.atTime t).begin) (atTime_consistent h t) _
  | epochExpiry =>
    exact soundly_due _ _ fun t h => Work.epoch_consistent (Work.startEpoch_consistent (w := (s.atTime t).begin)
      (atTime_consistent h t))
  | drainTimeout => exact soundly_due _ _ fun t h => Work.drainTimeout_consistent (w := (s.atTime t).begin) (atTime_consistent h t) _
  | quiesceExpiry =>
    exact soundly_due _ _ fun t h => Work.clearStuck_consistent (Work.completeAll_consistent (w := (s.atTime t).begin)
      (atTime_consistent h t))
  | lostQuiesceExpiry => exact execLostQuiesceExpiry_soundly
  | promiseExpiry => exact execPromiseExpiry_soundly
  | answerTimeout =>
    exact soundly_due _ _ fun t h => Work.endRequest_consistent (Work.countRequest_consistent (w := (s.atTime t).begin)
      (atTime_consistent h t)) _
  | setpointRefresh => exact execSetpointRefresh_soundly
  | setpointMessageSent => exact execSetpointMessageSent_soundly
  | meterReport msg n => exact execMeterReport_soundly msg n
  | meterReportDiscarded => exact soundly_ite (soundly_goOn countDiscarded_sound) soundly_stays
  | meterSilenceExpiry => exact soundly_due _ _ fun t h => Work.becomeLost_consistent (w := (s.atTime t).begin) (atTime_consistent h t)
  | muteHoldExpiry => exact execMuteHoldExpiry_soundly
  | tripHoldExpiry => exact soundly_due _ _ fun t h => Work.leaveTripped_consistent (w := (s.atTime t).begin) (atTime_consistent h t)
  | isolationSilenceLimit =>
    exact soundly_due _ _ fun t h => Work.enterIsolated_consistent (w := (s.atTime t).begin) (atTime_consistent h t)
  | echoSilenceLimit => exact soundly_due _ _ fun t h => Work.enterMuted_consistent (w := (s.atTime t).begin) (atTime_consistent h t)
  | deadlineRunOut => exact soundly_due _ _ fun t h => Work.runOut_consistent (w := (s.atTime t).begin) (atTime_consistent h t)
  | stepDurationReached => exact execStepDurationReached_soundly

end

/-- Settles O58: every command keeps both, the end of each step ending a sweep that R84 no longer permits. -/
theorem stepKeepsTheHoldingsConsistent : Obligations.StepKeepsTheHoldingsConsistent := by
  intro s t ht
  have hsound : s.Sound t := by
    rcases step_cases s t ht with ⟨c, rest, hc⟩ | rfl
    · have hr : s.Sound { s with pending := rest } := (State.Sound.refl s).elsewhere ⟨rfl, rfl, rfl, rfl⟩ rfl
      have hx := exec_soundly c t hc
      exact ⟨fun h => hx.holdings (hr.holdings h), fun h => hx.sweep (hr.sweep h)⟩
    · exact pass_sound (.refl s) _
  exact ⟨fun h => (consistent_iff t).1 (hsound.holdings ((consistent_iff s).2 h)), hsound.sweep⟩

end Sys2Proof.Machine
end

section
/-! SUPPORT. The layout of the payloads that the reading commands send, and the obligation about them. -/

namespace Sys2Proof.Machine

/-! ## STATUS -/

theorem statusPayload_length (s : State) : s.statusPayload.length = 57 := by
  simp [State.statusPayload, State.statusMC, State.statusBU, State.statusAE, State.statusHC, State.statusSS, State.statusCI,
    State.statusLC, State.statusBKU, be2, be4]

theorem statusPayload_mode (s : State) : s.statusPayload.take 6 =
    [byteOf (modeCode s.mc.mode), flagByte s.mc.restarting, flagByte s.mc.solo, flagByte s.mc.isolateReq
    , flagByte s.mc.duplicate, flagByte s.mc.tripHoldAt.isSome] := rfl

theorem statusPayload_budget (s : State) : (s.statusPayload.drop 14).take 4 =
    [byteOf s.bu.bEff, byteOf s.bu.offers.length, flagByte s.bu.seen, byteOf s.ae.seq] := rfl

/-! ## READ SESSION and READ RESULT -/

theorem readSessionPayload_head (s : State) : s.readSessionPayload.head? = some (byteOf (sessCode s.sessState)) := by
  unfold State.readSessionPayload State.sessState
  cases s.ss.session <;> rfl

/-- The marks stand before the last two bytes (log 35). -/
theorem readSessionPayload_marks (s : State) :
    (s.readSessionPayload.reverse.drop 2).take 2 = [flagByte s.bk.freeze, flagByte s.bk.shed] := by
  have htail : ∀ (l : List Byte) (o : Option Nat), (l ++ optHalf 12 o).reverse.drop 2 = l.reverse := fun l o => by
    cases o <;> simp [optHalf, absentBytes, be2]
  unfold State.readSessionPayload State.sessionTail
  rw [← List.append_assoc, htail]
  simp

theorem readResultPayload_head (s : State) : s.readResultPayload.head? = some (flagByte s.ae.result.isNone) := by
  unfold State.readResultPayload
  cases s.ae.result <;> rfl

theorem readResultPayload_length (s : State) : s.readResultPayload.length = 46 := by
  unfold State.readResultPayload
  cases s.ae.result <;> simp [resultBytes]

/-! ## READ PEER -/

theorem readPeerPayload_own (s : State) : (s.readPeerPayload s.own).take 6 =
    [6, 1, byteOf s.ss.bid.tier, byteOf s.ss.bid.weight, byteOf s.ss.bid.want, byteOf s.ss.bid.floor] := by
  unfold State.readPeerPayload
  rw [if_pos rfl]
  rfl

theorem readPeerPayload_other (s : State) {u : Nat} (h : u ≠ s.own) :
    (s.readPeerPayload u).head? = (s.peerState u).map fun x => byteOf (peerCode x) := by
  unfold State.readPeerPayload State.peerState
  rw [if_neg h]
  cases s.ptu.entries[u]? <;> rfl

/-! ## READ QUANTA -/

theorem entryBytes_length (e : QEntry) : (entryBytes e).length = 5 := by
  cases e <;> rfl

theorem entriesBytes_length (l : List QEntry) : (l.flatMap entryBytes).length = 5 * l.length := by
  simp [List.length_flatMap, entryBytes_length, Nat.mul_comm]

/-- Each entry takes five bytes. -/
theorem entriesBytes_drop (l : List QEntry) (k : Nat) :
    (l.flatMap entryBytes).drop (5 * k) = (l.drop k).flatMap entryBytes := by
  induction l generalizing k with
  | nil => simp
  | cons e l ih =>
    cases k with
    | zero => rfl
    | succ k =>
      rw [List.flatMap_cons, List.drop_succ_cons, ← ih,
        show 5 * (k + 1) = (entryBytes e).length + 5 * k by rw [entryBytes_length]; omega, List.drop_length_add_append]

theorem readQuantaPayload_length (s : State) (hm : s.map.length = 128) (n : Nat) :
    (s.readQuantaPayload n).length = 5 * min 16 (128 - n) := by
  unfold State.readQuantaPayload
  rw [entriesBytes_length, List.length_take, List.length_drop, hm]

theorem readQuantaPayload_entry (s : State) (hm : s.map.length = 128) {n k : Nat} (hk : k < 16) (hn : n + k < 128) :
    ((s.readQuantaPayload n).drop (5 * k)).take 5 = entryBytes (s.entry (n + k)) := by
  have hd : ((s.map.drop n).take 16).drop k = s.entry (n + k) :: ((s.map.drop n).take 16).drop (k + 1) := by
    rw [List.drop_eq_getElem_cons (by simp [hm]; omega)]
    simp [State.entry, List.getD, hm, hn]
  unfold State.readQuantaPayload
  rw [entriesBytes_drop, hd, List.flatMap_cons, List.take_append_of_le_length (entryBytes_length _).ge,
    List.take_of_length_le (entryBytes_length _).le]

/-! ## The queries -/

theorem firstRefusal_query {s : State} {p : Payload} {n : Nat} (hp : (badLength p n).1 = false)
    (hm : s.mc.mode ≠ .unconfigured) : firstRefusal [badLength p n, s.notConfigured] = none := by
  simp [firstRefusal, hp, State.notConfigured, hm]

/-- A query answers from the state as it stands. -/
theorem answer_taken {s : State} {code : Nat} {checks : List (Bool × RefCode)} (h : firstRefusal checks = none)
    (pay : State → List Byte) : ∃ t, goOn (s.command code checks fun s => (s, .accepted code (pay s))) = .next t ∧
      t = { s with cpi := t.cpi } ∧ t.answered s .accepted none (pay s) :=
  ⟨_, rfl, by rw [command_taken _ _ _ _ h]; rfl, by rw [command_taken _ _ _ _ h]; exact respond_answered s s _ rfl rfl⟩

/-- Settles O7: each query answers from the state, and its payload is laid out by the lemmas above. -/
theorem readCommandsReportTheState : Obligations.ReadCommandsReportTheState := by
  have hpeer : ∀ (b : Byte) (s : State), s.mc.mode ≠ .unconfigured → b.toNat < s.conf.nSt →
      firstRefusal [badLength (.whole [b]) 1, s.notConfigured, (decide (s.conf.nSt ≤ at1 [b] 0), .range)] = none :=
    fun b s hm hb => by simp [firstRefusal, badLength, State.notConfigured, hm, at1, hb]
  have hquanta : ∀ (b : Byte) (s : State), s.mc.mode ≠ .unconfigured → b.toNat < 128 →
      firstRefusal [badLength (.whole [b]) 1, s.notConfigured, (decide (Config.quanta ≤ at1 [b] 0), .range)] = none :=
    fun b s hm hb => by simp [firstRefusal, badLength, State.notConfigured, hm, at1, Config.quanta, hb]
  refine ⟨fun s => ?_, fun s hm => ?_, fun s hm => ?_, fun s hm => ?_, fun b s hm hb => ?_, fun b s hm hb hl => ?_,
    fun b c s hm hc => ?_⟩
  · exact answer_taken (s := s) (code := 0x01) (checks := [badLength (.whole []) 0]) rfl State.identifyPayload
  · obtain ⟨t, ht, hcpi, hans⟩ := answer_taken (s := s) (code := 0x04) (firstRefusal_query (p := .whole []) (n := 0) rfl hm)
      State.statusPayload
    exact ⟨t, ht, hcpi, hans, statusPayload_mode s, statusPayload_budget s, statusPayload_length s⟩
  · obtain ⟨t, ht, hcpi, hans⟩ := answer_taken (s := s) (code := 0x42) (firstRefusal_query (p := .whole []) (n := 0) rfl hm)
      State.readSessionPayload
    exact ⟨t, ht, hcpi, hans, readSessionPayload_head s, readSessionPayload_marks s⟩
  · obtain ⟨t, ht, hcpi, hans⟩ := answer_taken (s := s) (code := 0x43) (firstRefusal_query (p := .whole []) (n := 0) rfl hm)
      State.readResultPayload
    exact ⟨t, ht, hcpi, hans, readResultPayload_head s, readResultPayload_length s⟩
  · obtain ⟨t, ht, hcpi, hans⟩ := answer_taken (s := s) (code := 0x40) (hpeer b s hm hb) (State.readPeerPayload · b.toNat)
    exact ⟨t, ht, hcpi, hans, fun ho => by rw [ho]; exact readPeerPayload_own s, fun ho => readPeerPayload_other s ho⟩
  · obtain ⟨t, ht, hcpi, hans⟩ := answer_taken (s := s) (code := 0x41) (hquanta b s hm hb) (State.readQuantaPayload · b.toNat)
    refine ⟨t, ht, hcpi, hans, readQuantaPayload_length s hl _, fun k hk hn => ?_⟩
    rw [readQuantaPayload_entry s hl hk hn]
    cases s.entry (b.toNat + k) with
    | draining r o => cases o <;> rfl
    | _ => rfl
  · rcases hc with ⟨rfl, hge⟩ | ⟨rfl, hge⟩
    · exact goOn_command_refused (by simp [badLength, State.notConfigured, hm, at1, hge])
    · exact goOn_command_refused (by simp [badLength, State.notConfigured, hm, at1, Config.quanta, hge])

end Sys2Proof.Machine
end

section
/-! SUPPORT. The settle expiry: what each Pending quantum of the claim becomes. -/

namespace Sys2Proof.Machine

theorem settledReason_congr {s t : State} (hm : t.mc = s.mc) (hc : t.ci = s.ci) (hp : t.cpi = s.cpi) (q : Nat) :
    t.settledReason q = s.settledReason q := by
  simp [State.settledReason, State.ownHome, State.own, State.conf, hm, hc, hp]

theorem Work.takeMine_settledReason (w : Work) (q : Nat) (r : Option DrainReason) (k : Nat) :
    (w.takeMine q r).toState.settledReason k = w.toState.settledReason k :=
  settledReason_congr (by simp) (by simp) (by simp) k

/-- A quantum that drains as it arrives joins the drain list, and no quantum leaves it (R86). -/
theorem Work.takeMine_drainQuanta (w : Work) {q : Nat} (r : DrainReason) (hq : q < w.map.length) :
    (w.takeMine q (some r)).hc.drainQuanta = w.hc.drainQuanta ++ [q] := by
  have hm : (w.setEntry q .mine).toState.entry q = .mine := by rw [Work.entry_setEntry, if_pos ⟨rfl, hq⟩]
  refine (Work.startDrain_drainQuanta _ _ _ _).trans ?_
  simp [hm]

theorem Work.drainQuanta_subset_takeMine (w : Work) (q : Nat) (r : Option DrainReason) :
    w.hc.drainQuanta ⊆ (w.takeMine q r).hc.drainQuanta := by
  cases r with
  | none => exact List.Subset.refl _
  | some r =>
    rw [show (w.takeMine q (some r)).hc.drainQuanta = _ from Work.startDrain_drainQuanta (w.setEntry q .mine) r none [q]]
    exact List.subset_append_left _ _

/-- The quanta of a claim in settle arrive one after the other, each by what the converter and the mode say of it (R20, R136,
R156, R158). -/
def Work.arriveAll (w : Work) (qs : List Nat) : Work :=
  qs.foldl (fun (v : Work) q => v.takeMine q (v.toState.settledReason q)) w

theorem Work.arriveAll_spec (w : Work) (qs : List Nat) :
    (∀ q, (w.arriveAll qs).toState.entry q =
      if q ∈ qs ∧ q < w.map.length then arrivedEntry (w.toState.settledReason q) else w.toState.entry q) ∧
    (∀ q, q ∈ w.hc.drainQuanta ∨ (q ∈ qs ∧ q < w.map.length ∧ w.toState.settledReason q ≠ none) →
      q ∈ (w.arriveAll qs).hc.drainQuanta) := by
  induction qs generalizing w with
  | nil => exact ⟨fun q => by simp [Work.arriveAll], fun q hq => by simpa [Work.arriveAll] using hq⟩
  | cons k qs ih =>
    obtain ⟨hentry, hdrain⟩ := ih (w.takeMine k (w.toState.settledReason k))
    simp only [Work.takeMine_settledReason, Work.takeMine_length] at hentry hdrain
    refine ⟨fun q => (hentry q).trans ?_, fun q hq => hdrain q ?_⟩
    · by_cases hqk : q = k
      · subst hqk
        by_cases hl : q < w.map.length
        · simp [hl, Work.entry_takeMine _ _ hl]
        · simp only [hl, and_false, if_false]
          rw [entry_ge _ _ (by rw [Work.takeMine_length]; omega), entry_ge _ _ (Nat.le_of_not_lt hl)]
      · rw [Work.entry_takeMine_ne _ _ hqk]
        simp [hqk]
    · rcases hq with hq | ⟨hq, hl, hr⟩
      · exact .inl (w.drainQuanta_subset_takeMine _ _ hq)
      · rcases List.mem_cons.1 hq with rfl | hq
        · obtain ⟨r, hr⟩ := Option.ne_none_iff_exists'.1 hr
          exact .inl (by rw [hr, w.takeMine_drainQuanta r hl]; simp)
        · exact .inr ⟨hq, hl, hr⟩

theorem Work.entry_settleClaim (w : Work) (qs : List Nat) (q : Nat) : (w.settleClaim qs).toState.entry q =
    if q ∈ qs ∧ w.toState.entry q = .pending then arrivedEntry (w.toState.settledReason q) else w.toState.entry q := by
  have hl : w.toState.entry q = .pending → q < w.map.length := fun hp => by
    by_contra hge
    rw [entry_ge _ _ (Nat.le_of_not_lt hge)] at hp
    cases hp
  refine ((w.arriveAll_spec _).1 q).trans (if_congr ?_ rfl rfl)
  rw [List.mem_filter, beq_iff_eq]
  exact ⟨fun h => h.1, fun h => ⟨h, hl h.2⟩⟩

theorem Work.mem_drains_settleClaim (w : Work) (qs : List Nat) (q : Nat)
    (hd : ((w.settleClaim qs).toState.entry q).isDraining = true) (ho : (w.toState.entry q).isDraining = false) :
    q ∈ (w.settleClaim qs).hc.drainQuanta := by
  rw [Work.entry_settleClaim] at hd
  split at hd
  · rename_i hm
    have hl : q < w.map.length := by
      by_contra hge
      rw [entry_ge _ _ (Nat.le_of_not_lt hge)] at hm
      cases hm.2
    have hr : w.toState.settledReason q ≠ none := fun hn => by
      rw [hn] at hd
      cases hd
    have hin := (w.arriveAll_spec (qs.filter fun q => w.toState.entry q == .pending)).2 q
      (.inr ⟨List.mem_filter.2 ⟨hm.1, by rw [hm.2]; rfl⟩, hl, hr⟩)
    exact ((Work.orderDrains_perm _ w.hc.drains.length).map Drain.quantum).mem_iff.2 hin
  · rw [ho] at hd
    cases hd

/-- Settles O40: the quanta still Pending arrive by the lemmas above, and the end of a calm step changes no entry. -/
theorem settleExpiryMakesPendingMine : Obligations.SettleExpiryMakesPendingMine := by
  intro qs T a s hc hcalm ha
  have hkeep := atTime_keeps s T
  have hcalm' := calm_atTime hcalm T
  rw [← ha] at hkeep hcalm'
  obtain ⟨-, acpi, amc, -, amap, -, -, -, aci, -, -, -⟩ := hkeep
  let w : Work := a.begin.settleClaim qs
  have hexec : exec .settleExpiry s = .next w.finish := by
    simp only [exec, execSettleExpiry, hc, goOn_eq, w, ha]
  have hw : w.toState.calm :=
    State.calm_congr (s := a) (by simp [w]) (by simp [w]) (by simp [w, State.sessionEnding, State.sessState]) hcalm'
  have hnone : w.conflictLost = [] := by simp [w]
  obtain ⟨hfin, hlc, hhc, -, hformed⟩ := w.finish_endOf hw hnone (by simp [w]) (by simp [w])
  obtain ⟨-, -, hmap, -, -, -, -, hfhc, -⟩ := Work.finish_calm hw hnone
  have hsettling : w.finish.settling = [] := by
    rw [settling_congr (s := w.holdingsProgress.toState) (by rw [hfhc])]
    exact w.holdingsProgress_hc.2.1 rfl
  have hentry : ∀ q, w.finish.entry q = w.toState.entry q := entry_eq_of_map _ _ hmap
  have hold : ∀ q, a.entry q = s.entry q := entry_eq_of_map _ _ amap
  have hdrains : w.finish.hc.drains = w.hc.drains := by rw [hhc]
  refine ⟨_, hexec, (finish_outer w).1.trans (by simp [w]), fun q _ => ?_, hsettling, fun q _ hd ho => ?_, ?_, by simpa [w] using hlc, hformed⟩
  · rw [hentry, Work.entry_settleClaim, begin_toState, hold, settledReason_congr amc aci acpi]
    refine if_congr Iff.rfl ?_ rfl
    unfold State.settledReason
    split
    · rfl
    · split <;> rfl
  · rw [hdrains]
    refine Work.mem_drains_settleClaim _ qs q (by rw [← hentry]; exact hd) ?_
    exact (congrArg QEntry.isDraining (hold q)).trans ho
  · conv_lhs => rw [hfin]
    simp [w, hmap]

end Sys2Proof.Machine
end

section
/-! SUPPORT. What the end of a step can do to the Holdings Controller, move by move, and the expiries of promises and answers. -/

namespace Sys2Proof.Machine

/-! ## Moves of the Holdings Controller -/

/-- What every single move at the end of a step keeps: a claim made, the sweep moved, the sweep ended, a request sent where
none is outstanding. -/
structure Holdings.KeptByMoves (P : Holdings → Prop) : Prop where
  claim : ∀ (h : Holdings) (c : Option Claim), P h → P { h with claim := c }
  sweep : ∀ (h : Holdings) (sw : Option Sweep) (run : Bool) (rot : Nat), P h →
    P { h with sweep := sw, sweepRun := run, rotate := rot }
  endSweep : ∀ h : Holdings, P h → P { h with sweep := none, request := h.request.map fun r => { r with ofSweep := false } }
  request : ∀ (h : Holdings) (r : Request), h.request = none → r.echoAt = none → P h → P { h with request := some r }

section
variable {P : Holdings → Prop} (k : Holdings.KeptByMoves P)
include k

theorem Work.considerClaiming_kept {w : Work} (h : P w.hc) : P w.considerClaiming.hc := by
  rcases w.considerClaiming_claim with hs | ⟨-, qs, hs⟩
  · rw [hs]
    exact h
  · rw [hs]
    exact k.claim _ _ h

theorem Work.sendRequest_kept {w : Work} (h : P w.hc) (hno : w.hc.request = none) (t : Nat) (d : Disposition) (c : Nat)
    (l : List Nat) : P (w.sendRequest t d c l).hc := by
  unfold Work.sendRequest
  simp only [Work.enqueue_keeps]
  exact k.request _ _ hno rfl h

theorem Work.sweepMove_kept {w : Work} (h : P w.hc) : P w.sweepMove.hc := by
  have hsw : ∀ (sw : Option Sweep) (rot : Nat), P { w.hc with sweep := sw, rotate := rot } := fun sw rot =>
    k.sweep _ sw w.hc.sweepRun rot h
  unfold Work.sweepMove
  dsimp only
  split
  · exact h
  · split
    · exact k.endSweep _ h
    · split
      · exact h
      · rename_i hno
        have hreq : w.hc.request = none := by simpa using fun hs : w.hc.request.isSome = true => hno (by simp [hs])
        split
        · exact hsw _ _
        · split
          · exact Work.sendRequest_kept k (by exact hsw _ _) (by exact hreq) _ _ _ _
          · exact hsw _ _
        · exact k.endSweep _ h
        · split
          · exact hsw _ _
          · exact Work.sendRequest_kept k (by exact hsw _ _) (by exact hreq) _ _ _ _

theorem Work.sweepRun_kept {w : Work} (h : P w.hc) : P w.sweepRun.hc := by
  unfold Work.sweepRun
  exact foldl_induct (fun v : Work => P v.hc) _ (fun v _ hv => v.sweepMove_kept k hv) _ _ h

theorem Work.sweepProgress_kept {w : Work} (h : P w.hc) : P w.sweepProgress.hc := by
  have hstart : P w.considerSweep.hc := by
    unfold Work.considerSweep
    dsimp only
    split
    · exact k.sweep _ _ _ _ h
    · exact h
  unfold Work.sweepProgress
  split
  · exact Work.sweepRun_kept k hstart
  · split
    · exact k.endSweep _ h
    · exact h

/-- What the moves keep holds at the end of the step where it holds once the ended promises have gone. -/
theorem Work.holdingsProgress_kept {w : Work}
    (h : P { w.hc with promises := w.hc.promises.filter w.toState.livePromise }) : P w.holdingsProgress.hc := by
  unfold Work.holdingsProgress
  dsimp only
  refine Work.sweepProgress_kept k (Work.considerClaiming_kept k ?_)
  dsimp only
  split
  · exact h
  · exact k.endSweep _ h

end

/-- A promise none of whose quanta carries its mark ends, and no other (R98). -/
theorem Work.holdingsProgress_promises (w : Work) :
    w.holdingsProgress.hc.promises = w.hc.promises.filter w.toState.livePromise :=
  Work.holdingsProgress_kept (P := fun h => h.promises = w.hc.promises.filter w.toState.livePromise)
    ⟨fun _ _ h => h, fun _ _ _ _ h => h, fun _ h => h, fun _ _ _ _ h => h⟩ rfl

/-- Of a request that the end of a step sends no echo has come. -/
theorem Work.holdingsProgress_unechoed {w : Work} (h : w.hc.request.all fun r => r.echoAt.isNone) :
    w.holdingsProgress.hc.request.all fun r => r.echoAt.isNone := by
  refine Work.holdingsProgress_kept (P := fun h : Holdings => (h.request.all fun r => r.echoAt.isNone) = true)
    ⟨fun _ _ k => k, fun _ _ _ _ k => k, fun h k => ?_, fun h r _ hr _ => by simp [hr]⟩ h
  cases hr : h.request with
  | none => rfl
  | some r => simpa [hr] using k

/-! ## A promise lapses -/

theorem Work.entry_lapse (w : Work) (p : Promise) (rest : List Promise) (q : Nat) :
    (w.lapse p rest).toState.entry q =
      if q ∈ p.quanta ∧ w.toState.entry q = .held p.donor true then .held p.donor false else w.toState.entry q := by
  let g : Nat → QEntry → QEntry := fun _ e => if e = .held p.donor true then .held p.donor false else e
  have hstep : ∀ (m : List QEntry) (r : Nat),
      (if m.getD r .free == .held p.donor true then m.set r (.held p.donor false) else m) =
        m.set r (g r (m.getD r .free)) := fun m r => by
    by_cases he : m.getD r .free = .held p.donor true
    · rw [he]
      simp [g]
    · rw [if_neg (by simpa using he), show g r (m.getD r .free) = m.getD r .free from if_neg he]
      by_cases hr : r < m.length
      · simp [List.getD, hr]
      · simp [List.set_eq_of_length_le (Nat.le_of_not_lt hr)]
  have hmap : (w.lapse p rest).map = p.quanta.foldl (fun m r => m.set r (g r (m.getD r .free))) w.map := by
    rw [← funext₂ hstep]
    rfl
  have hl : w.toState.entry q = .held p.donor true → q < w.map.length := fun he => by
    by_contra hge
    rw [entry_ge _ _ (Nat.le_of_not_lt hge)] at he
    cases he
  refine (congrArg (List.getD · q .withdrawn) hmap).trans ((getD_foldl_rewrite g (fun _ e => ?_) _ _ _ _ q).trans ?_)
  · simp only [g]
    split <;> simp_all
  · change (if q ∈ p.quanta ∧ q < w.map.length then g q (w.toState.entry q) else w.toState.entry q) = _
    simp only [g]
    by_cases he : w.toState.entry q = .held p.donor true
    · simp [he, hl he]
    · simp [he]

/-! ## An answer times out -/

theorem set_of_getElem? {α : Type} {l : List α} {n : Nat} {x : α} (h : l[n]? = some x) : l.set n x = l := by
  obtain ⟨hn, rfl⟩ := List.getElem?_eq_some_iff.1 h
  exact List.set_getElem_self hn

theorem modify_of_getElem? {α : Type} {l : List α} {n : Nat} {x : α} (h : l[n]? = some x) (f : α → α) :
    l.modify n f = l.set n (f x) := by
  rw [List.modify_eq_set_getElem?, h]
  rfl

/-- The request that times out is counted unanswered, unless an answer of its target has been heard (R51; log 61). -/
theorem Work.countRequest_ptu {w : Work} {k : Request} {y : Peer} (hr : w.hc.request = some k)
    (hy : w.ptu.entries[k.target]? = some y) :
    w.countRequest.ptu = { w.ptu with entries := w.ptu.entries.set k.target (if k.answered then
      y else { y with unanswered := min 255 (y.unanswered + 1) }) } := by
  unfold Work.countRequest
  rw [hr]
  dsimp only
  split
  · rw [set_of_getElem? hy]
  · rw [← modify_of_getElem? hy fun x => { x with unanswered := min 255 (x.unanswered + 1) }]
    rfl

/-- Settles O45: a lapse takes the marks, and the end of a calm step lets the promises without a mark go. -/
theorem promiseAndAnswerTimersEndTheirRecord : Obligations.PromiseAndAnswerTimersEndTheirRecord := by
  constructor
  · intro m rest a s hp hcalm ha
    have hkeep := atTime_keeps s m.expiry
    have hcalm' := calm_atTime hcalm m.expiry
    rw [← ha] at hkeep hcalm'
    obtain ⟨-, -, -, -, amap, -, -, -, -, -, -, -⟩ := hkeep
    let w : Work := a.begin.lapse m rest
    have hexec : exec .promiseExpiry s = .next w.finish := by
      simp only [exec, execPromiseExpiry, hp, goOn_eq, w, ha]
    have hw : w.toState.calm := hcalm'
    obtain ⟨hfin, -, -, -, hformed⟩ := w.finish_endOf hw rfl rfl rfl
    obtain ⟨-, -, hmap, -, -, -, -, hhc, -⟩ := Work.finish_calm hw rfl
    have hentry : ∀ q, w.finish.entry q = w.toState.entry q := entry_eq_of_map _ _ hmap
    refine ⟨_, hexec, fun q _ => ?_, ?_, ?_, hformed⟩
    · rw [hentry, Work.entry_lapse, begin_toState, entry_eq_of_map a s amap]
    · rw [hhc, Work.holdingsProgress_promises]
      refine List.filter_congr fun k _ => ?_
      simp only [State.livePromise, hentry]
    · conv_lhs => rw [hfin]
      rw [hmap]
      rfl
  · intro k T y a s hr hecho hy hcalm ha
    have hkeep := atTime_keeps s (T + 100)
    have hcalm' := calm_atTime hcalm (T + 100)
    rw [← ha] at hkeep hcalm'
    obtain ⟨-, -, -, -, amap, aptu, -, ahc, -, -, -, -⟩ := hkeep
    let w : Work := a.begin.countRequest.endRequest .noAnswer
    have hexec : exec .answerTimeout s = .next w.finish := by
      simp only [exec, execAnswerTimeout, State.answerDue, hr, Option.bind_some, hecho, Option.map_some, goOn_eq, w, ha]
      rfl
    have hw : w.toState.calm := State.calm_congr (s := a) (by simp [w]) (by simp [w])
      (by simp [w, State.sessionEnding, State.sessState]) hcalm'
    obtain ⟨hfin, -, -, -, hformed⟩ := w.finish_endOf hw (by simp [w]) (by simp [w]) (by simp [w])
    obtain ⟨-, -, hmap, hptu, -, -, -, hhc, -⟩ := Work.finish_calm hw (by simp [w])
    refine ⟨_, hexec, ?_, ?_, ?_, ?_, hformed⟩
    · rw [hptu]
      refine (Work.countRequest_ptu (w := a.begin) (k := k) (y := y) (by simpa [ahc] using hr) (by simpa [aptu] using hy)).trans ?_
      rw [show a.begin.ptu = s.ptu from aptu]
    · rw [hhc]
      exact Work.holdingsProgress_unechoed rfl
    · rw [hmap]
      simpa [w] using amap
    · conv_lhs => rw [hfin]
      simp [w, hptu]

end Sys2Proof.Machine
end

section
/-! SUPPORT. A step that finds nothing to conclude: no drain under an expired LOST quiesce, no lost conflict, no session in
ENDING and no withdrawal. The calm states are such, and so are others. -/

namespace Sys2Proof.Machine

/-- The end of the step only claims, sweeps, forms the setpoint and posts. -/
def Work.rests (w : Work) : Prop := w.settle = w.holdingsProgress.formAndSend.flushNotices

theorem Work.rests_of_idle {w : Work} (hl : w.lostCompletes = w) (hc : w.conflictLost = [])
    (he : w.toState.sessionEnding = false) (hd : w.toState.draining = false) : w.rests := by
  have hconf : w.handConflict = w := by simp [Work.handConflict, hc]
  unfold Work.rests Work.settle
  rw [hl, hconf, w.testSessionEnd_calm he, Work.testDrainDone_idle hd, w.testSessionEnd_calm he]

theorem Work.rests_of_calm {w : Work} (h : w.toState.calm) (hc : w.conflictLost = []) : w.rests := w.settle_calm h hc

section
variable {w : Work} (h : w.rests)
include h

theorem Work.rests.finish_eq : w.finish = w.holdingsProgress.formAndSend.flushNotices.toState := congrArg Work.toState h

/-- The blocks that the end of the step leaves, and what becomes of the queue, the claims and the setpoint. -/
theorem Work.rests.blocks :
    w.finish.mc = w.mc ∧ w.finish.bu = w.bu ∧ w.finish.map = w.map ∧ w.finish.ptu = w.ptu ∧ w.finish.ae = w.ae ∧
    w.finish.ss = w.ss ∧ w.finish.lc = w.holdingsProgress.lc ∧ w.finish.hc = w.holdingsProgress.hc ∧
    w.finish.ci = w.holdingsProgress.formAndSend.ci := by
  rw [h.finish_eq]
  and_intros <;> simp

theorem Work.rests.link : w.lc.sameBut w.finish.lc := by
  obtain ⟨-, -, -, -, -, -, hlc, -, -⟩ := h.blocks
  rw [hlc]
  exact w.holdingsProgress_onlyClaims.1

theorem Work.rests.holdings : w.hc.sameBut w.finish.hc := by
  obtain ⟨-, -, -, -, -, -, -, hhc, -⟩ := h.blocks
  rw [hhc]
  exact w.holdingsProgress_onlyClaims.2

theorem Work.rests.entry (q : Nat) : w.finish.entry q = w.toState.entry q := by
  obtain ⟨-, -, hmap, -⟩ := h.blocks
  exact entry_eq_of_map _ _ hmap q

omit h in
theorem Work.holdingsProgress_inhibitCause (w : Work) :
    w.holdingsProgress.toState.inhibitCause = w.toState.inhibitCause := by
  have hs := congrArg Holdings.stuck w.holdingsProgress_onlyClaims.2
  simp_all [State.inhibitCause]

theorem Work.rests.converter : w.finish.ci = { w.ci with
    pSet := w.finish.ci.pSet, sendValue := w.finish.ci.sendValue, outbox := w.finish.ci.outbox
    inhibit := w.ci.inhibit || w.toState.inhibitCause } := by
  obtain ⟨-, -, -, -, -, -, -, -, hci⟩ := h.blocks
  have hform := w.holdingsProgress.formAndSend_ci
  rw [w.holdingsProgress_inhibitCause] at hform
  simpa [hci] using hform

/-- What has been gathered to post is posted, and nothing else changes the bookings. -/
theorem Work.rests.quiet (h1 : w.sysNotices = []) (h2 : w.firings = []) : w.finish.bk = w.bk := by
  rw [h.finish_eq, Work.flushNotices_quiet _ (by simp [h1]) (by simp [h2])]
  simp

/-- The end of the step leaves every block but the queue, the claims, the setpoint and the notices. -/
theorem Work.rests.frame : w.finish = { w.toState with
    lc := w.finish.lc, hc := w.finish.hc, ci := w.finish.ci, bk := w.finish.bk } := by
  obtain ⟨hmc, hbu, hmap, hptu, hae, hss, -, -, -⟩ := h.blocks
  obtain ⟨hnow, hio, hcpi, hpend⟩ := finish_outer w
  dsimp only
  rw [← hmc, ← hbu, ← hmap, ← hptu, ← hae, ← hss, ← hnow, ← hio, ← hcpi, ← hpend]

theorem Work.rests.endOf (h1 : w.sysNotices = []) (h2 : w.firings = []) : State.endOf w.toState w.finish := by
  refine ⟨?_, h.link, h.holdings, h.converter, finish_formed w⟩
  conv_lhs => rw [h.frame, h.quiet h1 h2]

/-- A listed or waiting frame that is not of class 4 stays. -/
theorem Work.rests.retains : w.lc.retains w.finish.lc := by
  obtain ⟨-, -, -, -, -, -, hlc, -, -⟩ := h.blocks
  rw [hlc]
  exact w.holdingsProgress_retains

/-- A system notice alone is posted where there is room (R171). -/
theorem Work.rests.posts {c : SysCode} {v : Nat} {tags : List Byte} (hs : w.sysNotices = [(c, v, tags)]) (hf : w.firings = [])
    (hroom : w.bk.notices.length < 16) :
    w.finish.bk = { w.bk with notices := w.bk.notices ++ [systemNotice c v tags w.toState.noticeTime] } := by
  rw [h.finish_eq, Work.flushNotices_one (c := c) (v := v) (tags := tags) (by simpa using hs) (by simpa using hf)
    (by simpa using hroom)]
  simp [State.noticeTime, State.sinceStart]

end

/-! ## Messages sent at once -/

/-- A step that asks for a message sends one with the send value it has formed, whose completion marks the quanta that
began to drain in the step (R131). -/
theorem Work.formAndSend_sentAtOnce {w : Work} (h : w.sendAtOnce = true) :
    w.formAndSend.ci = { w.ci with
      pSet := w.toState.formSetpoint
      sendValue := sendValueOf w.toState.conf.pMin w.toState.formSetpoint
      inhibit := w.ci.inhibit || w.toState.inhibitCause
      outbox := (w.ci.outbox.map fun m => { m with marks := m.marks.filter fun q => !w.newDrains.contains q }) ++
        [{ limit := sendValueOf w.toState.conf.pMin w.toState.formSetpoint
           inhibit := w.ci.inhibit || w.toState.inhibitCause, marks := w.newDrains }] } := by
  unfold Work.formAndSend
  dsimp only
  rw [if_pos (.inr (.inr (.inr h)))]
  rfl

theorem sendValueOf_zero (p : Nat) : sendValueOf p 0 = 0 := by
  simp [sendValueOf]

/-- The Converter Interface after a step that asks for a message and concludes nothing. -/
theorem Work.rests.sentAtOnce {w : Work} (h : w.rests) (hs : w.sendAtOnce = true) :
    w.finish.ci = { w.ci with
      pSet := w.toState.formSetpoint
      sendValue := sendValueOf w.toState.conf.pMin w.toState.formSetpoint
      inhibit := w.ci.inhibit || w.toState.inhibitCause
      outbox := (w.ci.outbox.map fun m => { m with marks := m.marks.filter fun q => !w.newDrains.contains q }) ++
        [{ limit := sendValueOf w.toState.conf.pMin w.toState.formSetpoint
           inhibit := w.ci.inhibit || w.toState.inhibitCause, marks := w.newDrains }] } := by
  have hform : w.holdingsProgress.toState.formSetpoint = w.toState.formSetpoint :=
    formSetpoint_congr _ _ (by simp) (by simp) (by simp) (by simp) (by simp)
  have hconf : w.holdingsProgress.toState.conf = w.toState.conf := by simp [State.conf]
  obtain ⟨-, -, -, -, -, -, -, -, hci⟩ := h.blocks
  rw [hci, Work.formAndSend_sentAtOnce (by simpa using hs), hform, w.holdingsProgress_inhibitCause, hconf]
  simp

end Sys2Proof.Machine
end

section
/-! SUPPORT. The loss of the converter: the drain of every Mine quantum, and the message sent at once. -/

namespace Sys2Proof.Machine

/-! ## The Mine quanta -/

theorem State.mem_mineWhere (s : State) (p : Nat → Bool) (q : Nat) :
    q ∈ s.mineWhere p ↔ s.entry q = .mine ∧ p q = true := by
  unfold State.mineWhere
  rw [mem_quantaWhere]
  constructor
  · rintro ⟨e, he, hp⟩
    simp only [Bool.and_eq_true, beq_iff_eq] at hp
    simpa [State.entry, List.getD, he] using hp
  · rintro ⟨he, hp⟩
    have hl : q < s.map.length := by
      by_contra hge
      rw [entry_ge _ _ (Nat.le_of_not_lt hge)] at he
      cases he
    exact ⟨.mine, by simpa [State.entry, List.getD, hl] using he, by simp [hp]⟩

theorem State.mineWhere_all (s : State) : (s.mineWhere fun _ => true) = quantaWhere s.map fun _ e => e == .mine := by
  simp [State.mineWhere]

/-- The Mine quanta drain in the order of their numbers (R86). -/
theorem Work.drainMine_drainQuanta (w : Work) (r : DrainReason) (p : Nat → Bool) :
    (w.drainMine r p).hc.drainQuanta = w.hc.drainQuanta ++ w.toState.mineWhere p := by
  unfold Work.drainMine
  rw [Work.startDrain_drainQuanta, List.filter_eq_self.2]
  exact fun q hq => by rw [((State.mem_mineWhere _ _ _).1 hq).1]; rfl

theorem Work.drainMine_newDrains (w : Work) (r : DrainReason) (p : Nat → Bool) :
    (w.drainMine r p).newDrains = w.newDrains ++ w.toState.mineWhere p := by
  have hf : (w.toState.mineWhere p).filter (fun q => w.toState.entry q == .mine) = w.toState.mineWhere p :=
    List.filter_eq_self.2 fun q hq => by rw [((State.mem_mineWhere _ _ _).1 hq).1]; rfl
  change w.newDrains ++ (w.toState.mineWhere p).filter (fun q => w.toState.entry q == .mine) = _
  rw [hf]

/-! ## METER_SILENCE_EXPIRY -/

theorem formSetpoint_lost {s : State} (h : s.ci.conv = .lost) : s.formSetpoint = 0 := by
  simp [State.formSetpoint, State.converterDown, h]

/-- The converter LOST, before its Mine quanta drain (R135). -/
def Work.lost (w : Work) : Work :=
  { w with
    ci := { w.ci with
      conv := .lost, silenceAt := none, causeLost := true
      lostQuiesce := .running (w.now + w.toState.conf.tQ) }
    hc := { w.hc with quiesceAt := none }
    sendAtOnce := true }

theorem Work.becomeLost_eq (w : Work) : w.becomeLost =
    ((w.lost.drainMine .shutdown fun _ => true).suspendCause .converter).notice .meterLost w.toState.mineCount := rfl

theorem Work.suspendCause_phase (w : Work) (r : SuspReason) (hr : r ≠ .offline) :
    (w.suspendCause r).ss.session.map Session.phase = w.ss.session.map fun x => match x.phase with
      | .charging => .suspended r
      | .suspended _ => .suspended r
      | ph => ph := by
  unfold Work.suspendCause
  cases hs : w.ss.session with
  | none => simp [hs]
  | some x =>
    simp only [Work.derive_ss, Option.map_some]
    unfold Session.suspendFor
    cases hp : x.phase <;> simp [hp, hr]

/-- Settles O50: the drain, the suspension and the message of `becomeLost`, which the end of a calm step leaves. -/
theorem meterSilenceMakesTheConverterLost : Obligations.MeterSilenceMakesTheConverterLost := by
  intro T a s hconv hsil hcalm ha
  have hkeep := atTime_keeps s T
  have hcalm' := calm_atTime hcalm T
  rw [← ha] at hkeep hcalm'
  obtain ⟨aio, acpi, amc, abu, amap, aptu, aae, ahc, aci, abk, apend, anow⟩ := hkeep
  let w : Work := a.begin.becomeLost
  have hexec : exec .meterSilenceExpiry s = .next w.finish := by
    simp only [exec, execMeterSilenceExpiry, State.silenceDue, hconv, if_false, hsil, goOn_eq, w, ha]
  have hci : w.ci = a.begin.lost.ci := by simp [w, Work.becomeLost_eq]
  have hend : w.toState.sessionEnding = a.sessionEnding := by
    change ((a.begin.lost.drainMine .shutdown fun _ => true).suspendCause .converter).toState.sessionEnding = _
    rw [Work.suspendCause_sessionEnding]
    rfl
  have hw : w.toState.calm := by
    obtain ⟨hreq, hres, hses, -⟩ := hcalm'
    refine ⟨by simpa [w] using hreq, by simpa [w] using hres, hend.trans hses, fun hk => ?_⟩
    rw [hci] at hk
    cases hk.2
  have hnone : w.conflictLost = [] := by simp [w]
  have hlost : w.ci.conv = .lost := by rw [hci]; rfl
  have hrest := Work.rests_of_calm hw hnone
  obtain ⟨hmc, hbu, hmap, hptu, hae, hss, -, -, -⟩ := hrest.blocks
  have hsame := hrest.holdings
  have hmine : (a.begin.lost.toState.mineWhere fun _ => true) = quantaWhere s.map fun _ e => e == .mine := by
    rw [State.mineWhere_all, ← amap]
    rfl
  have hnew : w.newDrains = quantaWhere s.map fun _ e => e == .mine := by
    rw [← hmine]
    simp only [w, Work.becomeLost_eq, Work.notice_newDrains, Work.suspendCause_keeps, Work.drainMine_newDrains]
    rfl
  have hwmap : w.map = (a.begin.lost.drainMine .shutdown fun _ => true).map := by simp [w, Work.becomeLost_eq]
  have hwhc : w.hc = (a.begin.lost.drainMine .shutdown fun _ => true).hc := by simp [w, Work.becomeLost_eq]
  have hcontains : ∀ q, (quantaWhere s.map fun _ e => e == .mine).contains q = (s.entry q == .mine) := fun q => by
    rw [← State.mineWhere_all, Bool.eq_iff_iff, List.contains_iff_mem, State.mem_mineWhere]
    simp
  refine ⟨_, hexec, ?_, fun q _ => ?_, ?_, ?_, ?_, fun hroom => ?_, ?_⟩
  · rw [hrest.sentAtOnce (by simp [w, Work.becomeLost_eq, Work.lost]), formSetpoint_lost hlost,
      sendValueOf_zero, hnew, hci]
    have hcause : w.toState.inhibitCause = true := by simp [State.inhibitCause, hci, Work.lost]
    simp only [hcause, Bool.or_true, hcontains]
    simp [Work.lost, aci, State.conf, acpi, bne]
  · rw [entry_eq_of_map w.finish (a.begin.lost.drainMine .shutdown fun _ => true).toState (hmap.trans hwmap),
      Work.entry_drainMine, entry_eq_of_map a.begin.lost.toState s amap]
    simp
  · rw [hsame, hwhc]
    rfl
  · have hd : w.finish.hc.drainQuanta = w.hc.drainQuanta := by rw [Holdings.drainQuanta, hsame]; rfl
    refine hd.trans ?_
    rw [hwhc, Work.drainMine_drainQuanta, hmine]
    rw [show a.begin.lost.hc.drainQuanta = a.hc.drainQuanta from rfl, ahc]
    rfl
  · rw [hss]
    exact Work.suspendCause_phase _ _ (by simp)
  · rw [hrest.posts (c := .meterLost) (v := s.mineCount) (tags := [0, 0, 0]) ?_ (by simp [w]) (by simpa [w, abk])]
    · simp [w, abk, State.noticeTime, State.sinceStart]
    · simp [w, Work.becomeLost_eq, Work.notice, Work.lost, State.mineCount, amap]
  · conv_lhs => rw [hrest.frame]
    simp [w, hmap, hss]

end Sys2Proof.Machine
end

section
/-! SUPPORT. The start of a transmit attempt, and the idle line before it. -/

namespace Sys2Proof.Machine

/-! ## The idle gap -/

theorem pass_idleCount (s : State) (e : Nat) : (s.pass e).idleCount = (s.pass e).lc.quietUs / (s.conf.d + 1) := by
  simp [State.idleCount, Cfg.bitUs, State.conf]

/-- With nothing on the line and no level told, waiting brings the idle count to 12 (R145). -/
theorem gapWait_reaches {s : State} (hs : s.started = true) (hb : s.mc.breakOn = false) (ha : s.lc.attempt = none)
    (hh : s.lc.heldUs = 0) (hl : s.lc.line = []) :
    s.gapWait = 12 * (s.conf.d + 1) - s.lc.quietUs ∧ 12 * (s.conf.d + 1) ≤ (s.pass s.gapWait).lc.quietUs := by
  have hw : s.gapWait = 12 * (s.conf.d + 1) - s.lc.quietUs := by
    unfold State.gapWait
    rw [hh, show s.conf.gapUs = 12 * (s.conf.d + 1) from rfl]
    split <;> omega
  refine ⟨hw, ?_⟩
  rw [pass_quiet s _ hs hb ha hh hl, hw]
  omega

theorem reading_undriven {s : State} (ha : s.lc.attempt = none) (hh : s.lc.heldUs = 0) (e : Nat) :
    s.reading e = readLine s.conf.bitUs s.lc.line s.lc.lineUs e s.lc.quietUs := by
  have hzero : readLine s.conf.bitUs s.lc.line s.lc.lineUs 0 0 = ⟨0, s.lc.line, if s.lc.line = [] then 0 else s.lc.lineUs⟩ := by
    cases s.lc.line <;> rfl
  simp only [State.reading, Link.drivenUs, ha, hh, Nat.min_zero, hzero, Nat.sub_zero]
  cases s.lc.line <;> rfl

/-- What the wait on a line told to be idle changes: the clock, the step time and the times of the line. -/
theorem pass_idle {s : State} (ha : s.lc.attempt = none) (hh : s.lc.heldUs = 0) (hl : s.lc.line = []) (e : Nat) :
    s.pass e = { s with
      now := (s.pass e).now, ss := { s.ss with session := (s.pass e).ss.session }
      lc := { s.lc with quietUs := (s.pass e).lc.quietUs, clockUs := (s.pass e).lc.clockUs, lineUs := (s.pass e).lc.lineUs } } := by
  by_cases he : e = 0
  · subst he
    rfl
  · have hline : (s.reading e).line = [] := by
      rw [reading_undriven ha hh, hl]
      rfl
    simp [State.pass, he, ha, hh, hl, hline]

theorem pass_bit {s : State} (hs : s.started = true) (hb : s.mc.breakOn = false) (ha : s.lc.attempt = none)
    (hh : s.lc.heldUs = 0) {l : Level} {rest : List Level} (hl : s.lc.line = l :: rest) (hu : s.lc.lineUs = 0) :
    (s.pass (s.conf.d + 1)).lc.quietUs = (if l = .dominant then 0 else s.lc.quietUs + (s.conf.d + 1)) ∧
    (s.pass (s.conf.d + 1)).lc.line = rest ∧ (s.pass (s.conf.d + 1)).lc.lineUs = 0 := by
  have hr : s.reading (s.conf.d + 1) = ⟨if l = .dominant then 0 else s.lc.quietUs + (s.conf.d + 1), rest, 0⟩ := by
    rw [reading_undriven ha hh, hl, hu]
    exact readLine_bit s.conf.bitUs (Nat.succ_pos _) l rest s.lc.quietUs
  simp [State.pass, hr, hs, hb]

/-! ## TRANSMIT_ATTEMPT_START -/

theorem exec_attemptStart_stays {s : State}
    (h : s.mayStart = false ∨ (s.pass s.gapWait).idleCount < Config.idleBits) :
    exec .transmitAttemptStart s = .next s := by
  have hc : (!s.mayStart || decide ((s.pass s.gapWait).idleCount < Config.idleBits)) = true := by
    simpa using h
  simp only [exec, execTransmitAttemptStart, hc, if_true, goOn_eq]

theorem attemptStart_taken {s : State} (hm : s.mayStart = true)
    (hi : 12 ≤ (s.pass s.gapWait).lc.quietUs / (s.conf.d + 1)) :
    (!s.mayStart || decide ((s.pass s.gapWait).idleCount < Config.idleBits)) = false := by
  simp [hm, pass_idleCount, Config.idleBits, hi]

/-- A frame that goes on the line keeps its kind, and one that is no REPORT its payload. -/
theorem withHoldings_other {f : Frame} (h : kindOf f ≠ .report) (qs : List Nat) : f.withHoldings qs = f := by
  cases f with
  | report => exact absurd rfl h
  | _ => rfl

theorem startFrame_ltx (a : State) (x : QFrame) (rest : List QFrame) :
    (a.startFrame x rest).ltx = frameLevels a.own (x.frame.withHoldings a.holdings) := by
  simp [State.startFrame, State.ltx, Link.find, State.own]

/-- Settles O36: the command waits out the idle gap, and then the head of the queue or the probe goes on the line. -/
theorem attemptStartPutsTheHeadOnTheLine : Obligations.AttemptStartPutsTheHeadOnTheLine := by
  refine ⟨fun x rest a s ha htx hq hpass hi => ?_, fun a s ha htx hd hpass hi => ?_, fun a s hpass hno => ?_,
    fun a s hs hb ha hh hl hpass => ?_, fun l rest s hs hb ha hh hl hu => pass_bit hs hb ha hh hl hu⟩
  · have hm : s.mayStart = true := by simp [State.mayStart, ha, htx, hq]
    subst hpass
    have hexec : exec .transmitAttemptStart s = .next ((s.pass s.gapWait).startFrame x rest) := by
      simp only [exec, execTransmitAttemptStart, attemptStart_taken hm hi, htx, hq, goOn_eq]
      rfl
    have hown : (s.pass s.gapWait).own = s.own := by simp [State.own]
    have hhold : (s.pass s.gapWait).holdings = s.holdings := by simp [State.holdings]
    refine ⟨_, hexec, rfl, rfl, ?_, rfl, fun hk => ?_, ?_⟩
    · rw [startFrame_ltx, hown]
      rfl
    · exact congrArg (fun f => some { x with frame := f }) (withHoldings_other hk _)
    · refine congrArg some ?_
      change x.frame.withHoldings (s.pass s.gapWait).holdings = _
      rw [hhold]
      cases x.frame <;> rfl
  · have hm : s.mayStart = true := by simp [State.mayStart, ha, htx, hd]
    subst hpass
    have hexec : exec .transmitAttemptStart s = .next (s.pass s.gapWait).startProbe := by
      simp only [exec, execTransmitAttemptStart, attemptStart_taken hm hi, htx, goOn_eq]
      rfl
    have hjoin : (s.pass s.gapWait).joinFrame = .join (s.cpi.fingerprint.getD 0) s.conf.nSt s.conf.h := by
      simp [State.joinFrame, State.conf]
    refine ⟨_, hexec, by rw [← hjoin]; rfl, ?_⟩
    rw [← hjoin]
    simp [State.startProbe, State.ltx, State.own, frameLevels]
  · subst hpass
    refine ⟨s, exec_attemptStart_stays ?_, rfl⟩
    rcases hno with hi | ha | htx | ⟨htx, hq⟩ | ⟨htx, hd⟩
    · exact .inr (by rw [pass_idleCount]; exact hi)
    · exact .inl (by simp [State.mayStart, Option.isNone_iff_eq_none, ha])
    · exact .inl (by simp [State.mayStart, htx])
    · exact .inl (by simp [State.mayStart, htx, hq])
    · exact .inl (by simp [State.mayStart, htx, hd])
  · subst hpass
    obtain ⟨hw, hreach⟩ := gapWait_reaches hs hb ha hh hl
    exact ⟨(Nat.le_div_iff_mul_le (Nat.succ_pos _)).2 hreach, (pass_clock s _).trans (by rw [hw]), pass_idle ha hh hl _⟩

end Sys2Proof.Machine
end

section
/-! SUPPORT. Frames that list a quantum: what the queue does with the quanta of a CONTEST and of a RELEASE (R103, R104). -/

namespace Sys2Proof.Machine

/-! ## Listed quanta -/

/-- A property of CONTEST and RELEASE frames that more quanta do not take away. -/
structure Frame.Lists (p : Frame → Bool) : Prop where
  kind : ∀ f, p f = true → kindOf f = .contest ∨ kindOf f = .release
  contest : ∀ qs rs, p (.contest qs) = true → p (.contest (qs ++ rs)) = true
  release : ∀ b qs rs, p (.release b qs) = true → p (.release b (qs ++ rs)) = true

/-- A frame in the queue or among the waiting frames satisfies `p`. -/
def Link.has (l : Link) (p : Frame → Bool) : Prop := ∃ x ∈ l.queue ++ l.waiting, p x.frame = true

theorem queues_iff (s : State) (p : Frame → Bool) : s.queues p ↔ s.lc.has p := by
  simp only [State.queues, List.any_eq_true, Link.has]

theorem Frame.Lists.class_ne {p : Frame → Bool} (h : Frame.Lists p) {f : Frame} (hf : p f = true) : classOf f ≠ 4 := by
  rcases h.kind f hf with hk | hk <;> simp [classOf, hk, kindChar]

/-- The CONTESTs that list `q`. -/
def Frame.contestOf (q : Nat) : Frame → Bool
  | .contest qs => qs.contains q
  | _ => false

/-- The RELEASEs to `v` that list `q`. -/
def Frame.releaseOf (v : Option Nat) (q : Nat) : Frame → Bool
  | .release b qs => b == v && qs.contains q
  | _ => false

theorem Frame.contestOf_lists (q : Nat) : Frame.Lists (Frame.contestOf q) := by
  refine ⟨fun f hf => ?_, fun qs rs h => ?_, fun b qs rs h => h⟩
  · cases f with
    | contest => exact .inl rfl
    | _ => cases hf
  · simp only [Frame.contestOf, List.contains_iff_mem, List.mem_append] at h ⊢
    exact .inl h

theorem Frame.releaseOf_lists (v : Option Nat) (q : Nat) : Frame.Lists (Frame.releaseOf v q) := by
  refine ⟨fun f hf => ?_, fun qs rs h => h, fun b qs rs h => ?_⟩
  · cases f with
    | release => exact .inr rfl
    | _ => cases hf
  · simp only [Frame.releaseOf, Bool.and_eq_true, List.contains_iff_mem, List.mem_append] at h ⊢
    exact ⟨h.1, .inl h.2⟩

theorem contests_iff (s : State) (q : Nat) : s.contests q ↔ s.lc.has (Frame.contestOf q) := by
  refine Iff.trans ?_ (queues_iff s _)
  have hp : ∀ f : Frame, Frame.contestOf q f = (match f with
      | .contest qs => qs.contains q
      | _ => false) := fun f => by cases f <;> rfl
  unfold State.contests
  simp only [State.queues, hp] <;> rfl

/-! ## Merging -/

section
variable {p : Frame → Bool} {sel : QFrame → Option (List Nat)} {put : List Nat → Frame}
  (hsel : ∀ x qs, sel x = some qs → x.frame = put qs) (hgrow : ∀ qs rs, p (put qs) = true → p (put (qs ++ rs)) = true)
include hsel hgrow

theorem mergeInto_has (qs : List Nat) (l : List QFrame) (h : ∃ x ∈ l, p x.frame = true) :
    ∃ x ∈ (mergeInto sel put qs l).1, p x.frame = true := by
  induction l generalizing qs with
  | nil => exact h
  | cons x l ih =>
    obtain ⟨y, hy, hp⟩ := h
    unfold mergeInto
    split
    · rcases List.mem_cons.1 hy with rfl | hy
      · exact ⟨y, List.mem_cons_self, hp⟩
      · obtain ⟨z, hz, hpz⟩ := ih qs ⟨y, hy, hp⟩
        exact ⟨z, List.mem_cons_of_mem _ hz, hpz⟩
    · rename_i have_ hs
      rcases List.mem_cons.1 hy with rfl | hy
      · rw [hsel y have_ hs] at hp
        exact ⟨_, List.mem_cons_self, hgrow _ _ hp⟩
      · obtain ⟨z, hz, hpz⟩ := ih (qs.drop (8 - have_.length)) ⟨y, hy, hp⟩
        exact ⟨z, List.mem_cons_of_mem _ hz, hpz⟩

omit hsel hgrow in
/-- A quantum that is merged stands in a frame, or is left over. -/
theorem mergeInto_takes {q : Nat} (hput : ∀ qs, q ∈ qs → p (put qs) = true) (qs : List Nat) (l : List QFrame) (hq : q ∈ qs) :
    q ∈ (mergeInto sel put qs l).2 ∨ ∃ x ∈ (mergeInto sel put qs l).1, p x.frame = true := by
  induction l generalizing qs with
  | nil => exact .inl hq
  | cons x l ih =>
    unfold mergeInto
    split
    · rcases ih qs hq with h | ⟨z, hz, hpz⟩
      · exact .inl h
      · exact .inr ⟨z, List.mem_cons_of_mem _ hz, hpz⟩
    · rename_i have_ hs
      rw [← List.take_append_drop (8 - have_.length) qs] at hq
      rcases List.mem_append.1 hq with hq | hq
      · exact .inr ⟨_, List.mem_cons_self, hput _ (List.mem_append_right _ hq)⟩
      · rcases ih _ hq with h | ⟨z, hz, hpz⟩
        · exact .inl h
        · exact .inr ⟨z, List.mem_cons_of_mem _ hz, hpz⟩

end

theorem mem_runsOf8 {q : Nat} {qs : List Nat} (hq : q ∈ qs) (n : Nat) (hn : qs.length ≤ n) : ∃ r ∈ runsOf8 n qs, q ∈ r := by
  induction n generalizing qs with
  | zero => simp [List.length_eq_zero_iff.1 (Nat.le_zero.1 hn)] at hq
  | succ n ih =>
    cases qs with
    | nil => cases hq
    | cons x xs =>
      rw [← List.take_append_drop 8 (x :: xs)] at hq
      unfold runsOf8
      rcases List.mem_append.1 hq with hq | hq
      · exact ⟨_, List.mem_cons_self, hq⟩
      · obtain ⟨r, hr, hqr⟩ := ih hq (by simp only [List.length_drop, List.length_cons] at hn ⊢; omega)
        exact ⟨r, List.mem_cons_of_mem _ hr, hqr⟩

/-! ## Placing -/

section
variable {p : Frame → Bool} (hp : ∀ f, p f = true → classOf f ≠ 4)
include hp

theorem Link.place_has {l : Link} (hf : l.fresh) (h : l.has p) (f : Frame) : (l.place f).has p := by
  obtain ⟨x, hx, hpx⟩ := h
  exact ⟨x, Link.mem_place_of_mem hf f hx (hp _ hpx), hpx⟩

theorem Link.place_takes (l : Link) {f : Frame} (h : p f = true) : (l.place f).has p :=
  ⟨_, l.place_mem_any f (hp f h), h⟩

theorem Link.placeAll_has {l : Link} (hf : l.fresh) (h : l.has p) (put : List Nat → Frame) (rs : List (List Nat)) :
    (rs.foldl (fun l r => l.place (put r)) l).has p := by
  induction rs generalizing l with
  | nil => exact h
  | cons r rs ih => exact ih (l.place_fresh hf _) (l.place_has hp hf h _)

theorem Link.placeAll_takes {l : Link} (hf : l.fresh) {put : List Nat → Frame} {rs : List (List Nat)}
    (h : ∃ r ∈ rs, p (put r) = true) : (rs.foldl (fun l r => l.place (put r)) l).has p := by
  induction rs generalizing l with
  | nil => simp at h
  | cons r rs ih =>
    obtain ⟨k, hk, hpk⟩ := h
    rcases List.mem_cons.1 hk with rfl | hk
    · exact Link.placeAll_has hp (l.place_fresh hf _) (l.place_takes hp hpk) put rs
    · exact ih (l.place_fresh hf _) ⟨k, hk, hpk⟩

end

/-! ## Whole frames offered -/

section
variable {p : Frame → Bool} {sel : QFrame → Option (List Nat)} {put : List Nat → Frame} {l : Link}
  (hp : ∀ f, p f = true → classOf f ≠ 4) (hsel : ∀ x qs, sel x = some qs → x.frame = put qs)
  (hgrow : ∀ qs rs, p (put qs) = true → p (put (qs ++ rs)) = true) (hf : l.fresh)
include hp hsel hgrow hf

theorem Link.mergeOrPlace_has (qs : List Nat) (h : l.has p) : (l.mergeOrPlace sel put qs).has p := by
  have hpick : ∀ x qs, (if l.onLine x then none else sel x) = some qs → x.frame = put qs := fun x qs hx => by
    split at hx
    · cases hx
    · exact hsel x qs hx
  unfold Link.mergeOrPlace
  dsimp only
  refine Link.placeAll_has hp ?_ ?_ put _
  · exact Link.fresh_of_map_ids hf (mergeInto_ids _ _ _ _) (mergeInto_ids _ _ _ _) rfl
  obtain ⟨x, hx, hpx⟩ := h
  rcases List.mem_append.1 hx with hx | hx
  · obtain ⟨y, hy, hpy⟩ := mergeInto_has hpick hgrow _ _ ⟨x, hx, hpx⟩
    exact ⟨y, List.mem_append_left _ hy, hpy⟩
  · obtain ⟨y, hy, hpy⟩ := mergeInto_has hpick hgrow _ _ ⟨x, hx, hpx⟩
    exact ⟨y, List.mem_append_right _ hy, hpy⟩

theorem Link.mergeOrPlace_takes {q : Nat} {qs : List Nat} (hq : q ∈ qs) (hput : ∀ rs, q ∈ rs → p (put rs) = true) :
    (l.mergeOrPlace sel put qs).has p := by
  by_cases hin : q ∈ (l.queue ++ l.waiting).flatMap fun f => (if l.onLine f then none else sel f).getD []
  · refine Link.mergeOrPlace_has hp hsel hgrow hf qs ?_
    obtain ⟨x, hx, hqx⟩ := List.mem_flatMap.1 hin
    split at hqx
    · cases hqx
    · cases hs : sel x with
      | none => simp [hs] at hqx
      | some rs =>
        rw [hs] at hqx
        exact ⟨x, hx, by rw [hsel x rs hs]; exact hput rs hqx⟩
  · have hnew : q ∈ (onceEach qs).filter fun q =>
        !((l.queue ++ l.waiting).flatMap fun f => (if l.onLine f then none else sel f).getD []).contains q := by
      simpa [mem_onceEach, hq] using hin
    unfold Link.mergeOrPlace
    dsimp only
    generalize (onceEach qs).filter (fun q => !((l.queue ++ l.waiting).flatMap
      fun f => (if l.onLine f then none else sel f).getD []).contains q) = new at hnew ⊢
    have hfr : ∀ ns ms, ({ l with
        queue := (mergeInto (fun f => if l.onLine f then none else sel f) put ns l.queue).1
        waiting := (mergeInto (fun f => if l.onLine f then none else sel f) put ms l.waiting).1 } : Link).fresh :=
      fun ns ms => Link.fresh_of_map_ids hf (mergeInto_ids _ _ _ _) (mergeInto_ids _ _ _ _) rfl
    rcases mergeInto_takes (sel := fun f => if l.onLine f then none else sel f) hput new l.queue hnew with hrest | ⟨x, hx, hpx⟩
    · rcases mergeInto_takes (sel := fun f => if l.onLine f then none else sel f) hput _ l.waiting hrest with
        hleft | ⟨x, hx, hpx⟩
      · obtain ⟨r, hr, hqr⟩ := mem_runsOf8 hleft _ (Nat.le_refl _)
        exact Link.placeAll_takes hp (hfr _ _) ⟨r, hr, hput r hqr⟩
      · exact Link.placeAll_has hp (hfr _ _) ⟨x, List.mem_append_right _ hx, hpx⟩ put _
    · exact Link.placeAll_has hp (hfr _ _) ⟨x, List.mem_append_left _ hx, hpx⟩ put _

end

theorem contestQuanta_frame (x : QFrame) (qs : List Nat) (h : contestQuanta x = some qs) : x.frame = .contest qs := by
  unfold contestQuanta at h
  split at h
  · rename_i rs hx
    rw [hx, Option.some.inj h]
  · cases h

theorem releaseQuanta_frame (b : Option Nat) (x : QFrame) (qs : List Nat) (h : releaseQuanta b x = some qs) :
    x.frame = .release b qs := by
  unfold releaseQuanta at h
  split at h
  · rename_i c rs hx
    split at h
    · rename_i hc
      rw [hx, hc, Option.some.inj h]
    · cases h
  · cases h

section
variable {p : Frame → Bool} (hp : Frame.Lists p) {l : Link} (hf : l.fresh)
include hp hf

theorem Link.coalesceOrPlace_has (h : l.has p) {same : Frame → Bool} (hs : ∀ f, p f = true → same f = false) (f : Frame) :
    (l.coalesceOrPlace same f).has p := by
  unfold Link.coalesceOrPlace
  dsimp only
  split
  · obtain ⟨x, hx, hpx⟩ := h
    refine ⟨x, ?_, hpx⟩
    have hkeep : ∀ m : List QFrame, x ∈ m → x ∈ m.map fun x =>
        if same x.frame && !l.onLine x then { x with frame := f, retry := 0 } else x := fun m hm =>
      List.mem_map.2 ⟨x, hm, by simp [hs _ hpx]⟩
    rcases List.mem_append.1 hx with hx | hx
    · exact List.mem_append_left _ (hkeep _ hx)
    · exact List.mem_append_right _ (hkeep _ hx)
  · exact l.place_has (fun _ => hp.class_ne) hf h f

/-- A frame offered to the queue takes no listed quantum from it. -/
theorem Link.enqueue_has (h : l.has p) (f : Frame) : (l.enqueue f).has p := by
  have hclass : ∀ f, p f = true → classOf f ≠ 4 := fun _ => hp.class_ne
  cases f with
  | contest qs => exact l.mergeOrPlace_has hclass contestQuanta_frame hp.contest hf qs h
  | release b qs => exact l.mergeOrPlace_has hclass (releaseQuanta_frame b) (hp.release b) hf qs h
  | report =>
    refine l.coalesceOrPlace_has hp hf h (fun g hg => ?_) _
    rcases hp.kind g hg with hk | hk <;> simp [hk]
  | budget =>
    refine l.coalesceOrPlace_has hp hf h (fun g hg => ?_) _
    rcases hp.kind g hg with hk | hk <;> simp [hk]
  | claim | yieldReq | yieldAns | join | leave => exact l.place_has hclass hf h _

end

/-- A CONTEST of a quantum is queued (R103). -/
theorem Link.enqueue_contest {l : Link} (hf : l.fresh) {q : Nat} {qs : List Nat} (hq : q ∈ qs) :
    (l.enqueue (.contest qs)).has (Frame.contestOf q) :=
  l.mergeOrPlace_takes (fun _ => (Frame.contestOf_lists q).class_ne) contestQuanta_frame (Frame.contestOf_lists q).contest hf hq
    fun rs hr => by simpa [Frame.contestOf] using hr

/-- A RELEASE of a quantum is queued (R103). -/
theorem Link.enqueue_release {l : Link} (hf : l.fresh) {q : Nat} (v : Option Nat) {qs : List Nat} (hq : q ∈ qs) :
    (l.enqueue (.release v qs)).has (Frame.releaseOf v q) :=
  l.mergeOrPlace_takes (fun _ => (Frame.releaseOf_lists v q).class_ne) (releaseQuanta_frame v)
    ((Frame.releaseOf_lists v q).release v) hf hq fun rs hr => by simpa [Frame.releaseOf] using hr

/-! ## In a step -/

theorem Work.enqueue_fresh {w : Work} (hf : w.lc.fresh) (f : Frame) : (w.enqueue f).lc.fresh := by
  rcases w.enqueue_lc f with h | h <;> rw [h]
  · exact hf
  · exact w.lc.enqueue_fresh hf f

theorem Work.enqueue_has {w : Work} {p : Frame → Bool} (hp : Frame.Lists p) (hf : w.lc.fresh) (h : w.lc.has p) (f : Frame) :
    (w.enqueue f).lc.has p := by
  rcases w.enqueue_lc f with hl | hl <;> rw [hl]
  · exact h
  · exact w.lc.enqueue_has hp hf h f

theorem Work.enqueue_contest {w : Work} (hf : w.lc.fresh) (hm : w.mc.mode ≠ .listening) {q : Nat} {qs : List Nat}
    (hq : q ∈ qs) : (w.enqueue (.contest qs)).lc.has (Frame.contestOf q) := by
  cases qs with
  | nil => cases hq
  | cons x xs =>
    have hl : (w.enqueue (.contest (x :: xs))).lc = w.lc.enqueue (.contest (x :: xs)) := by
      simp [Work.enqueue, State.mayQueue, hm]
    rw [hl]
    exact Link.enqueue_contest hf hq

theorem Work.enqueue_release {w : Work} (hf : w.lc.fresh) (hm : w.mc.mode ≠ .listening) {q : Nat} (v : Option Nat)
    {qs : List Nat} (hq : q ∈ qs) : (w.enqueue (.release v qs)).lc.has (Frame.releaseOf v q) := by
  cases qs with
  | nil => cases hq
  | cons x xs =>
    have hl : (w.enqueue (.release v (x :: xs))).lc = w.lc.enqueue (.release v (x :: xs)) := by
      simp [Work.enqueue, State.mayQueue, hm]
    rw [hl]
    exact Link.enqueue_release hf v hq

/-- A listed quantum is still listed after a step that concludes nothing. -/
theorem Work.rests.has {w : Work} (h : w.rests) {p : Frame → Bool} (hp : Frame.Lists p) (hf : w.lc.fresh)
    (hq : w.lc.has p) : w.finish.lc.has p := by
  obtain ⟨x, hx, hpx⟩ := hq
  exact ⟨x, (h.retains hf).2 x hx (hp.class_ne hpx), hpx⟩

end Sys2Proof.Machine
end

section
/-! SUPPORT. The drain timeout, and the two quiesce expiries that complete every drain. -/

namespace Sys2Proof.Machine

/-! ## RELEASE frames of completed drains -/

theorem Work.releaseAll_has {p : Frame → Bool} (hp : Frame.Lists p) (g : Option Nat → List Nat) (bs : List (Option Nat))
    {w : Work} (hf : w.lc.fresh) (h : w.lc.has p) :
    (bs.foldl (fun (w : Work) b => w.enqueue (.release b (g b))) w).lc.has p := by
  induction bs generalizing w with
  | nil => exact h
  | cons b bs ih => exact ih (w.enqueue_fresh hf _) (w.enqueue_has hp hf h _)

theorem Work.releaseAll_takes (g : Option Nat → List Nat) (bs : List (Option Nat)) {w : Work} (hf : w.lc.fresh)
    (hm : w.mc.mode ≠ .listening) {v : Option Nat} (hv : v ∈ bs) {q : Nat} (hq : q ∈ g v) :
    (bs.foldl (fun (w : Work) b => w.enqueue (.release b (g b))) w).lc.has (Frame.releaseOf v q) := by
  induction bs generalizing w with
  | nil => cases hv
  | cons b bs ih =>
    rcases List.mem_cons.1 hv with rfl | hv
    · exact Work.releaseAll_has (Frame.releaseOf_lists v q) g bs (w.enqueue_fresh hf _) (w.enqueue_release hf hm v hq)
    · exact ih (w.enqueue_fresh hf _) (by simpa using hm) hv

theorem Work.releaseAll_fresh (g : Option Nat → List Nat) (bs : List (Option Nat)) {w : Work} (hf : w.lc.fresh) :
    (bs.foldl (fun (w : Work) b => w.enqueue (.release b (g b))) w).lc.fresh :=
  foldl_induct (fun v : Work => v.lc.fresh) _ (fun v _ hv => v.enqueue_fresh hv _) bs w hf

theorem Work.completeDrains_fresh {w : Work} (hf : w.lc.fresh) (qs : List Nat) : (w.completeDrains qs).lc.fresh := by
  unfold Work.completeDrains
  refine Work.releaseAll_fresh _ _ ?_
  exact hf

/-- A completed drain that is not freed locally is released to its beneficiary (R29, R30). -/
theorem Work.completeDrains_releases {w : Work} (hf : w.lc.fresh) (hloc : w.toState.freesLocally = false) {qs : List Nat}
    {q : Nat} (hq : q ∈ qs) {r : DrainReason} {v : Option Nat} (hr : r ≠ .conflict)
    (he : w.toState.entry q = .draining r v) : (w.completeDrains qs).lc.has (Frame.releaseOf v q) := by
  have hto : w.toState.releaseTo q = some v := by
    unfold State.releaseTo
    rw [he]
    cases r <;> simp_all
  have hm : w.mc.mode ≠ .listening := fun h => by simp [State.freesLocally, h] at hloc
  unfold Work.completeDrains
  dsimp only
  refine Work.releaseAll_takes (fun b => qs.filter fun q => w.toState.releaseTo q == some b) _ ?_ (by exact hm) ?_ ?_
  · exact hf
  · rw [mem_onceEach]
    exact List.mem_filterMap.2 ⟨q, hq, hto⟩
  · simp [hq, hto]

/-! ## Every drain completes -/

theorem Work.completeAll_hc (w : Work) : w.completeAll.hc = { w.hc with drains := [] } := by
  refine (w.drains_completeDrains _).trans ?_
  have hnone : w.hc.drains.filter (fun d => !(w.hc.drains.map Drain.quantum).contains d.quantum) = [] :=
    List.filter_eq_nil_iff.2 fun d hd => by simpa using ⟨d, hd, rfl⟩
  rw [hnone]

theorem State.freesLocally_iff (s : State) : s.freesLocally = true ↔
    s.mc.mode = .muted ∨ s.mc.mode = .offline ∨ s.mc.mode = .listening ∨ s.mc.duplicate = true := by
  simp only [State.freesLocally, Bool.or_eq_true, beq_iff_eq]
  tauto

theorem not_freesLocally {s : State} (h1 : s.mc.mode ≠ .muted) (h2 : s.mc.mode ≠ .offline) (h3 : s.mc.mode ≠ .listening)
    (h4 : s.mc.duplicate = false) : s.freesLocally = false := by
  simp [State.freesLocally, h1, h2, h3, h4]

/-- What the completion of its drain makes of an entry (R29, R30). -/
theorem State.drained_eq (s : State) (q : Nat) (e : QEntry) : s.drained q e =
    match e with
    | .draining .conflict (some w) => .held w false
    | .draining .conflict none => s.vacant q
    | .draining r v => if s.mc.mode = .muted ∨ s.mc.mode = .offline ∨ s.mc.mode = .listening ∨
        s.mc.duplicate = true then s.vacant q else .draining r v
    | e => e := by
  cases e with
  | draining r v =>
    simp only [← State.freesLocally_iff]
    cases r <;> cases v <;> rfl
  | _ => rfl

theorem Work.entry_completeAll (w : Work) (q : Nat) : w.completeAll.toState.entry q =
    if q ∈ w.hc.drains.map Drain.quantum then w.toState.drained q (w.toState.entry q) else w.toState.entry q :=
  w.entry_completeDrains _ q

theorem drained_congr {s t : State} (hm : t.mc = s.mc) (hb : t.bu = s.bu) (q : Nat) (e : QEntry) :
    t.drained q e = s.drained q e := by
  have hv : t.vacant q = s.vacant q := by simp only [State.vacant, hb]
  have hf : t.freesLocally = s.freesLocally := by simp only [State.freesLocally, hm]
  unfold State.drained
  rw [hv, hf]

theorem atTime_fresh {s : State} (h : s.stamped) (t : Nat) : (s.atTime t).lc.fresh := by
  unfold State.atTime State.advance
  rw [pass_eq]
  exact Link.fresh_of_stamped h

/-- The step in which every drain of a state completes, whatever else it changes of the Holdings Controller, and concludes
nothing. -/
theorem Work.rests.completes {s : State} {u w : Work} (h : w.rests) (hmap : w.map = u.completeAll.map)
    (hlc : w.lc = u.completeAll.lc) (hf : u.lc.fresh)
    (hs : u.mc = s.mc ∧ u.bu = s.bu ∧ u.map = s.map ∧ u.hc.drains = s.hc.drains) :
    (∀ q, w.finish.entry q =
      if q ∈ s.hc.drains.map Drain.quantum then s.drained q (s.entry q) else s.entry q) ∧
    (s.freesLocally = false → ∀ d ∈ s.hc.drains, ∀ r v, r ≠ .conflict → s.entry d.quantum = .draining r v →
      w.finish.lc.has (Frame.releaseOf v d.quantum)) := by
  obtain ⟨umc, ubu, umap, udr⟩ := hs
  have hent : ∀ q, u.toState.entry q = s.entry q := entry_eq_of_map _ _ umap
  have hfree : u.toState.freesLocally = s.freesLocally := by simp only [State.freesLocally, umc]
  refine ⟨fun q => ?_, fun hloc d hd r v hr he => ?_⟩
  · rw [h.entry, entry_eq_of_map w.toState u.completeAll.toState hmap, Work.entry_completeAll, udr, hent,
      drained_congr umc ubu]
  · have hhas := Work.completeDrains_releases hf (hfree.trans hloc) (List.mem_map_of_mem (udr.symm ▸ hd)) hr
      ((hent _).trans he)
    refine h.has (Frame.releaseOf_lists v d.quantum) ?_ ?_
    · rw [hlc]
      exact u.completeDrains_fresh hf _
    · rw [hlc]
      exact hhas

theorem queues_release {t : State} {v : Option Nat} {q : Nat} (h : t.lc.has (Frame.releaseOf v q)) :
    t.queues fun f => match f with
      | .release w qs => w == v && qs.contains q
      | _ => false := by
  rw [queues_iff]
  obtain ⟨x, hx, hp⟩ := h
  refine ⟨x, hx, ?_⟩
  cases hf : x.frame <;> simp_all [Frame.releaseOf]

/-! ## The drain timeout -/

/-- The drain list after a timeout at `t`: every entry then due is stuck (log 24). -/
def Holdings.stuckAt (h : Holdings) (t : Nat) : List Drain :=
  h.drains.map fun d => if d.timeoutAt ≤ t then { d with stuck := true } else d

theorem Work.drainTimeout_stuck {w : Work} (h : w.hc.stuck = true) (t : Nat) :
    w.drainTimeout t = { w with hc := { w.hc with drains := w.hc.stuckAt t } } := by
  unfold Work.drainTimeout
  dsimp only
  rw [if_pos h]
  rfl

theorem Work.drainTimeout_clear {w : Work} (h : w.hc.stuck = false) (t : Nat) :
    w.drainTimeout t = ({ w with hc := { w.hc with
        drains := w.hc.stuckAt t, stuck := true, quiesceAt := some (w.now + w.toState.conf.tQ) } } : Work).notice
      .drainStuck ((w.hc.stuckAt t).countP Drain.stuck) := by
  unfold Work.drainTimeout
  dsimp only
  rw [if_neg (ne_true_of_eq_false h)]
  rfl

@[simp] theorem Work.drainTimeout_keeps (w : Work) (t : Nat) :
    (w.drainTimeout t).now = w.now ∧ (w.drainTimeout t).io = w.io ∧ (w.drainTimeout t).cpi = w.cpi ∧
    (w.drainTimeout t).mc = w.mc ∧ (w.drainTimeout t).lc = w.lc ∧ (w.drainTimeout t).bu = w.bu ∧
    (w.drainTimeout t).map = w.map ∧ (w.drainTimeout t).ptu = w.ptu ∧ (w.drainTimeout t).ae = w.ae ∧
    (w.drainTimeout t).ss = w.ss ∧ (w.drainTimeout t).ci = w.ci ∧ (w.drainTimeout t).bk = w.bk ∧
    (w.drainTimeout t).pending = w.pending ∧ (w.drainTimeout t).firings = w.firings ∧
    (w.drainTimeout t).conflictLost = w.conflictLost := by
  cases h : w.hc.stuck with
  | true =>
    rw [Work.drainTimeout_stuck h]
    and_intros <;> rfl
  | false =>
    rw [Work.drainTimeout_clear h]
    and_intros <;> rfl

theorem Work.drainTimeout_hc (w : Work) (t : Nat) : (w.drainTimeout t).hc = { w.hc with
    drains := w.hc.stuckAt t, stuck := true
    quiesceAt := if w.hc.stuck then w.hc.quiesceAt else some (w.now + w.toState.conf.tQ) } := by
  cases h : w.hc.stuck with
  | true =>
    rw [Work.drainTimeout_stuck h]
    simp [← h]
  | false =>
    rw [Work.drainTimeout_clear h]
    simp

/-- Settles O44: what becomes stuck, what completes, and what the end of such steps adds. -/
theorem drainTimersStickAndComplete : Obligations.DrainTimersStickAndComplete := by
  refine ⟨fun T a s hconv hmin hcalm ha => ?_, fun T a s hq hcalm _ hst ha => ?_, fun T a s hq hcalm _ hst ha => ?_⟩
  · have hkeep := atTime_keeps s T
    have hcalm' := calm_atTime hcalm T
    rw [← ha] at hkeep hcalm'
    obtain ⟨-, acpi, -, -, amap, -, -, ahc, -, abk, -, -⟩ := hkeep
    let w : Work := a.begin.drainTimeout T
    have hexec : exec .drainTimeout s = .next w.finish := by
      simp only [exec, execDrainTimeout, State.drainDue, hconv, if_false, hmin, goOn_eq, w, ha]
    have hkept : w.mc = a.mc ∧ w.ci = a.ci ∧ w.ss = a.ss ∧ w.conflictLost = [] ∧ w.firings = [] ∧ w.map = a.map ∧ w.bk = a.bk ∧
        w.now = a.now := by
      simp [w]
    obtain ⟨wmc, wci, wss, wconf, wfir, wmap, wbk, wnow⟩ := hkept
    have hrest : w.rests := Work.rests_of_calm
      (State.calm_congr (s := a) wmc wci (by simp only [State.sessionEnding, State.sessState, wss]) hcalm') wconf
    have hhc : w.hc = _ := a.begin.drainTimeout_hc T
    obtain ⟨tmc, tbu, tmap, tptu, tae, tss, -, -, -⟩ := hrest.blocks
    have tdrains : w.finish.hc.drains = s.hc.stuckAt T := by
      rw [hrest.holdings, hhc, Holdings.stuckAt, Holdings.stuckAt, ← ahc]
      rfl
    have tstuck : w.finish.hc.stuck = true := by rw [hrest.holdings, hhc]
    refine ⟨_, hexec, tdrains, tstuck, ?_, ?_, ?_, fun hstuck => ?_, fun hstuck hroom => ?_, ?_⟩
    · rw [hrest.converter]
      simp [State.inhibitCause, hhc]
    · rw [hrest.holdings, hhc, ← ahc]
      simp [State.conf, acpi]
    · rw [tmap, wmap, amap]
    · rw [hrest.quiet _ wfir, wbk, abk]
      simp only [w]
      rw [Work.drainTimeout_stuck (by simpa [ahc] using hstuck)]
      rfl
    · rw [hrest.posts (c := .drainStuck) (v := (s.hc.stuckAt T).countP Drain.stuck) (tags := [0, 0, 0]) _ wfir
        (by simpa [wbk, abk] using hroom), tdrains]
      · simp [wbk, abk, State.noticeTime, State.sinceStart, wnow]
      · simp only [w]
        rw [Work.drainTimeout_clear (by simpa [ahc] using hstuck)]
        simp [Work.notice, ahc]
    · conv_lhs => rw [hrest.frame]
      simp [w]
  · have hkeep := atTime_keeps s T
    have hcalm' := calm_atTime hcalm T
    rw [← ha] at hkeep hcalm'
    obtain ⟨-, -, amc, abu, amap, -, -, ahc, -, -, -, -⟩ := hkeep
    let w : Work := a.begin.completeAll.clearStuck
    have hexec : exec .quiesceExpiry s = .next w.finish := by
      simp only [exec, execQuiesceExpiry, hq, goOn_eq, w, ha]
    have hrest : w.rests := Work.rests_of_calm
      (State.calm_congr (s := a) (by simp [w]) (by simp [w]) (by simp [w, State.sessionEnding, State.sessState]) hcalm')
      (by simp [w])
    obtain ⟨hentry, hrel⟩ := hrest.completes (s := s) (u := a.begin) (by simp [w]) (by simp [w])
      (by rw [ha]; exact atTime_fresh hst T) ⟨amc, abu, amap, congrArg Holdings.drains ahc⟩
    have hhc : w.hc = { a.hc with drains := [], stuck := false, quiesceAt := none } := by
      simp [w, Work.completeAll_hc]
    refine ⟨_, hexec, fun q _ => ?_, fun h1 h2 h3 h4 d hd r v hr he => ?_, ?_, ?_, ?_, ?_⟩
    · rw [hentry, State.drained_eq] <;> rfl
    · exact queues_release (hrel (not_freesLocally h1 h2 h3 h4) d hd r v hr he)
    · rw [hrest.holdings, hhc]
    · rw [hrest.holdings, hhc]
    · rw [hrest.holdings, hhc]
    · conv_lhs => rw [hrest.frame, hrest.quiet (by simp [w]) (by simp [w])]
      rw [hrest.blocks.2.2.1]
      simp [w]
  · have hkeep := atTime_keeps s T
    have hcalm' := calm_atTime hcalm T
    rw [← ha] at hkeep hcalm'
    obtain ⟨-, -, amc, abu, amap, -, -, ahc, -, -, -, -⟩ := hkeep
    let u : Work := ({ a with ci := { a.ci with lostQuiesce := .expired } } : State).begin
    let w : Work := u.completeAll
    have hexec : exec .lostQuiesceExpiry s = .next w.finish := by
      simp only [exec, execLostQuiesceExpiry, hq, goOn_eq, w, u, ha]
    have hhc : w.hc = { a.hc with drains := [] } := by
      simp [w, u, Work.completeAll_hc]
    have hrest : w.rests := by
      obtain ⟨hreq, hres, hses, -⟩ := hcalm'
      refine Work.rests_of_idle (Work.lostCompletes_noDrains (by rw [hhc])) (by simp [w, u]) ?_ ?_
      · simpa [w, u, State.sessionEnding, State.sessState] using hses
      · simp [State.draining, w, u, hreq, hres]
    obtain ⟨hentry, hrel⟩ := hrest.completes (s := s) (u := u) rfl rfl (by rw [show u.lc = a.lc from rfl, ha]; exact atTime_fresh hst T)
      ⟨amc, abu, amap, congrArg Holdings.drains ahc⟩
    refine ⟨_, hexec, fun q _ => ?_, fun h1 h2 h3 h4 d hd r v hr he => ?_, ?_, ?_, ?_, ?_⟩
    · rw [hentry, State.drained_eq] <;> rfl
    · exact queues_release (hrel (not_freesLocally h1 h2 h3 h4) d hd r v hr he)
    · rw [hrest.holdings, hhc]
    · rw [hrest.converter]
      simp [w, u]
    · rw [hrest.holdings, hhc, ← ahc]
    · conv_lhs => rw [hrest.frame, hrest.quiet (by simp [w, u]) (by simp [w, u])]
      rw [hrest.blocks.2.2.1]
      simp [w, u]

end Sys2Proof.Machine
end

section
/-! SUPPORT. A frame heard, whatever its kind: the entry of its sender, the frames of a Mismatched station, and the frames
that are passed over. -/

namespace Sys2Proof.Machine

/-! ## Hearing a frame of any kind -/

/-- An entry that has just been heard is no longer Silent or Expelled, so that hearing it as a plain frame changes nothing. -/
theorem Peer.hear_settled (x : Peer) (now : Nat) (ok : Bool) (f : Frame) :
    (x.hear now ok f).heardPlain now = x.hear now ok f := by
  have hplain : (x.heardPlain now).heardPlain now = x.heardPlain now := by
    unfold Peer.heardPlain
    cases x.state <;> simp
  by_cases hf : plainFrame f = true
  · rw [Peer.hear_plain hf, hplain]
  · cases f with
    | report | join => cases ok <;> simp [Peer.hear, Peer.heardPlain]
    | leave => simp [Peer.hear, Peer.heardPlain]
    | _ => exact absurd rfl hf

theorem Work.hearPeer_spec {w : Work} {u : Nat} {x : Peer} (hx : w.ptu.entries[u]? = some x) (f : Frame) :
    (w.hearPeer u f).ptu = { w.ptu with
      entries := w.ptu.entries.set u (x.hear w.now (w.toState.matches f) f), lineHeard := some w.now } ∧
    (w.hearPeer u f).mc = { w.mc with solo := false } ∧
    (w.hearPeer u f).toState.sessionEnding = w.toState.sessionEnding := by
  have hnote : ∀ (v : Work) (b : Bool), (if b then v.notice .configMismatch u else v).ptu = v.ptu ∧
      (if b then v.notice .configMismatch u else v).mc = v.mc ∧
      (if b then v.notice .configMismatch u else v).toState.sessionEnding = v.toState.sessionEnding := fun v b => by
    cases b <;> exact ⟨rfl, rfl, rfl⟩
  unfold Work.hearPeer
  rw [hx]
  dsimp only
  generalize hv : ({ w with
      ptu := { w.ptu with entries := w.ptu.entries.set u (x.hear w.now (w.toState.matches f) f), lineHeard := some w.now }
      mc := { w.mc with solo := false } } : Work) = v
  obtain ⟨hptu, hmc, hend⟩ := hnote v (announces f && !w.toState.matches f && !x.fpSeen)
  subst hv
  split
  · exact ⟨hptu, hmc, hend⟩
  · unfold Work.handPeer
    rw [Work.hand_sessionEnding, hend]
    exact ⟨by simpa using hptu, by simpa using hmc, rfl⟩

/-- The working state of a frame of any kind; the entry of the sender is what the PTU makes of it (R44 to R48, R157). -/
theorem hearing_any {s : State} {u : Nat} {x : Peer} (hx : s.ptu.entries[u]? = some x) (f : Frame) :
    s.Hearing u (x.hear s.now (s.matches f) f) (s.hearing u f) := by
  obtain ⟨hptu, hmc, hend⟩ := Work.hearPeer_spec (w := { s.begin with lc := s.lc.validFrame }) hx f
  have hkeep := Work.hearPeer_keeps { s.begin with lc := s.lc.validFrame } u f
  have hstart := Work.hearPeer_startAt { s.begin with lc := s.lc.validFrame } u f
  unfold State.hearing
  dsimp only
  generalize Work.hearPeer { s.begin with lc := s.lc.validFrame } u f = w at *
  obtain ⟨hnow, hio, hcpi, hlc, hbu, hmap, hae, hhc, hci, hpend, hbefore, -, hlost, -, -⟩ := hkeep
  have hset : w.ptu = { s.ptu with
      entries := s.ptu.entries.set u ((x.hear s.now (s.matches f) f).heardPlain s.now), lineHeard := some s.now } := by
    rw [hptu, Peer.hear_settled]
    rfl
  have hmode : w.mc.mode = s.mc.mode := by rw [hmc]; rfl
  split
  · rename_i hiso
    have hsm : s.mc.mode = .isolated := hmode ▸ hiso
    refine ⟨by simp [hnow, hio, hcpi, hpend], by simp [hmap], by simp [hbu], by simp [hae], by simp [hci], ?_, by simp [hset], ?_,
      ?_, ?_, ?_, by simp [hbefore], by simp [hlost]⟩
    · rw [Work.setMode_hc, hhc]
      rfl
    · rw [Work.setMode_mc, hmc]
      simp [hsm]
    · rw [Work.setMode_lc, hlc]
      simp [hsm, Link.validFrame, txOf]
    · rw [Work.setMode_sessionEnding, hend]
      rfl
    · rw [Work.setMode_startAt, hstart]
      rfl
  · rename_i hiso
    have hsm : s.mc.mode ≠ .isolated := hmode ▸ hiso
    refine ⟨⟨hnow, hio, hcpi, hpend⟩, hmap, hbu, hae, hci, by rw [hhc]; rfl, hset, ?_, ?_, hend, hstart, hbefore, hlost⟩
    · rw [hmc, if_neg hsm]
      rfl
    · rw [hlc, if_neg hsm]
      rfl

section
variable {s : State} {u : Nat} {x : Peer} {w v : Work} (h : s.Hearing u x w)
include h

theorem State.Hearing.conf : w.toState.conf = s.conf := by
  obtain ⟨-, -, hcpi, -⟩ := h.outer
  simp only [State.conf, hcpi]

theorem State.Hearing.own : w.toState.own = s.own := by
  obtain ⟨-, -, hcpi, -⟩ := h.outer
  simp only [State.own, hcpi]

theorem State.Hearing.vacant (q : Nat) : w.toState.vacant q = s.vacant q := by
  simp only [State.vacant, h.bu]

/-- The age stamps stand, and no frame has been touched. -/
theorem State.Hearing.fresh (hs : s.stamped) : w.lc.fresh := by
  rw [h.lc]
  exact Link.fresh_of_stamped hs

theorem State.Hearing.settling : w.toState.settling = s.settling := settling_congr (by rw [h.hc])

theorem State.Hearing.drainQuanta : w.hc.drainQuanta = s.hc.drainQuanta := by
  rw [h.hc]
  rfl

theorem State.Hearing.mode_ne_listening (hm : s.mc.mode ≠ .listening) : w.mc.mode ≠ .listening := by
  rw [h.mc]
  dsimp only
  split
  · simp
  · exact hm

theorem State.Hearing.mode_listening (hm : s.mc.mode = .listening) : w.mc.mode = .listening := by
  rw [h.mc]
  simp [hm]

/-- The step of a frame heard rests, where the state was calm. -/
theorem State.Hearing.rests (hv : w.appliesTo v) (hs : s.calm) : v.rests := by
  have hcalm := h.calm hv hs
  obtain ⟨-, -, -, -, -, -, -, hlost, -⟩ := hv
  exact Work.rests_of_calm hcalm (hlost.trans h.conflictLost)

/-- In LISTENING, where the frame queues nothing, the queue is as it was. -/
theorem State.Hearing.queue_listening (hv : w.appliesTo v) (hs : s.calm) (hm : s.mc.mode = .listening)
    (hlc : v.lc = w.lc) : v.finish.lc.queue = s.lc.queue ∧ v.finish.lc.waiting = s.lc.waiting := by
  have hrest := h.rests hv hs
  obtain ⟨-, hmc, -⟩ := hv
  obtain ⟨-, -, -, -, -, -, flc, -, -⟩ := hrest.blocks
  have hmay : v.toState.mayTake = false := by simp [State.mayTake, hmc, h.mode_listening hm]
  rw [flc, (Work.holdingsProgress_idle hmay).1, hlc, h.lc]
  exact ⟨rfl, rfl⟩

end

theorem Work.appliesTo_refl (w : Work) : w.appliesTo w := ⟨⟨rfl, rfl, rfl, rfl⟩, rfl, rfl, rfl, rfl, rfl, rfl, rfl, rfl⟩

/-- The entry of the sender after the step, told from the entry that hearing leaves. -/
theorem Work.sender_after {s : State} {u : Nat} {x y : Peer} {w v : Work} (h : s.Hearing u y w) (hv : w.appliesTo v)
    (hs : s.calm) (hx : s.ptu.entries[u]? = some x) (hy : y.heardPlain s.now = y) : v.finish.ptu.entries[u]? = some y := by
  obtain ⟨-, -, -, fptu, -, -, -, -, -⟩ := (h.rests hv hs).blocks
  obtain ⟨-, -, hptu, -⟩ := hv
  have hlt : u < s.ptu.entries.length := (List.getElem?_eq_some_iff.1 hx).1
  rw [fptu, hptu, h.ptu, hy]
  simp [hlt]

/-! ## Frames that change no entry of the map -/

/-- From a Mismatched station a frame of the map changes only the time of hearing (R44). -/
theorem heard_mismatched {s : State} {u : BitVec 5} {x : Peer} {f : Frame} (hh : s.hears u.toNat x) (hcalm : s.calm)
    (hx : x.state = .mismatched) (hf : plainFrame f = true)
    (happly : ∀ w : Work, w.toState.peerIs u.toNat .mismatched = true → w.applyFrame u.toNat f = w) :
    ((s.hearing u.toNat f).applyFrame u.toNat f).finish.map = s.map ∧
    ((s.hearing u.toNat f).applyFrame u.toNat f).finish.ptu.entries[u.toNat]? = some { x with heardAt := some s.now } ∧
    ((s.hearing u.toNat f).applyFrame u.toNat f).finish.bu = s.bu ∧
    s.heardFrom ((s.hearing u.toNat f).applyFrame u.toNat f).finish u.toNat := by
  obtain ⟨-, -, -, hux⟩ := hh
  have hw := hearing_spec hf hux
  generalize s.hearing u.toNat f = w at hw ⊢
  rw [happly w (by rw [hw.mismatched hux]; simpa using hx)]
  have happ := w.appliesTo_refl
  obtain ⟨-, hbu, hmap, -⟩ := (hw.rests happ hcalm).blocks
  refine ⟨hmap.trans hw.map, ?_, hbu.trans hw.bu, hw.heardFrom happ hcalm⟩
  rw [hw.sender happ hcalm hux]
  simp [Peer.heardPlain, hx]

/-- In TRIPPED, and from a number at or above N_st, a frame ends the receive error run and is passed over (R44, R143). -/
theorem heard_passed {s : State} {k : FrameKind} {u : BitVec 5} {p : List Byte} {f : Frame}
    (hp : parsePayload k p = some f) (hst : s.started = true) (hout : s.mc.mode = .tripped ∨ s.conf.nSt ≤ u.toNat)
    (hown : u.toNat ≠ s.own) (hcalm : s.calm) :
    State.endOf { s with lc := { s.lc with rxRun := 0, rateSuspect := false, quietUs := 0, heldUs := 0 } } (s.heard k u p) := by
  have hheard : s.heard k u p = Work.finish { s.begin with lc := s.lc.validFrame } := by
    unfold State.heard
    rw [if_neg (by simp [hst]), hp]
    dsimp only
    rw [Work.hearValid_passes rfl ?_ hown]
    · rfl
    · rcases hout with ht | hn
      · exact .inl (by simp [State.takesFrames, ht])
      · exact .inr hn
  rw [hheard]
  exact Work.finish_endOf { s.begin with lc := s.lc.validFrame } hcalm rfl rfl rfl

end Sys2Proof.Machine
end

section
/-! SUPPORT. The quanta that a frame lists, taken one after the other: each is judged by its own entry, and changes no other
(R16, R18, R21, R32). -/

namespace Sys2Proof.Machine

/-! ## Quanta taken one after the other -/

theorem Work.overQuanta_acc (f : Work → Nat → Work × List Nat) (qs : List Nat) (z : Work × List Nat) :
    qs.foldl (fun z q => let r := f z.1 q; (r.1, z.2 ++ r.2)) z = ((z.1.overQuanta f qs).1, z.2 ++ (z.1.overQuanta f qs).2) := by
  unfold Work.overQuanta
  induction qs generalizing z with
  | nil => simp
  | cons q qs ih =>
    rw [List.foldl_cons, List.foldl_cons, ih, ih (f z.1 q |>.1, [] ++ (f z.1 q).2)]
    simp

theorem Work.overQuanta_nil (w : Work) (f : Work → Nat → Work × List Nat) : w.overQuanta f [] = (w, []) := rfl

theorem Work.overQuanta_cons (w : Work) (f : Work → Nat → Work × List Nat) (q : Nat) (qs : List Nat) :
    w.overQuanta f (q :: qs) =
      (((f w q).1.overQuanta f qs).1, (f w q).2 ++ ((f w q).1.overQuanta f qs).2) :=
  Work.overQuanta_acc f qs ((f w q).1, [] ++ (f w q).2)

/-- One quantum of a frame: its entry becomes `g`, and no other entry changes. -/
structure Work.Judges (f : Work → Nat → Work × List Nat) (g : State → Nat → QEntry) : Prop where
  port : ∀ w q, (f w q).1.cpi = w.cpi
  size : ∀ w q, (f w q).1.map.length = w.map.length
  here : ∀ w q, q < w.map.length → (f w q).1.toState.entry q = g w.toState q
  there : ∀ w q k, k ≠ q → (f w q).1.toState.entry k = w.toState.entry k
  local_ : ∀ (s t : State) q, t.cpi = s.cpi → t.entry q = s.entry q → g t q = g s q

section
variable {f : Work → Nat → Work × List Nat} {g : State → Nat → QEntry} (hf : Work.Judges f g)
include hf

theorem Work.Judges.size_over (w : Work) (qs : List Nat) : (w.overQuanta f qs).1.map.length = w.map.length :=
  overQuanta_keeps (fun w : Work => w.map.length) f hf.size w qs

/-- An entry after all quanta have been taken. -/
theorem Work.Judges.entry_over {qs : List Nat} (hnd : qs.Nodup) (w : Work) {k : Nat} (hk : k < w.map.length) :
    (w.overQuanta f qs).1.toState.entry k = if k ∈ qs then g w.toState k else w.toState.entry k := by
  induction qs generalizing w with
  | nil => simp [Work.overQuanta_nil]
  | cons q qs ih =>
    obtain ⟨hq, hnd⟩ := List.nodup_cons.1 hnd
    rw [Work.overQuanta_cons]
    dsimp only
    rw [ih hnd _ (by rw [hf.size]; exact hk)]
    by_cases hkq : k = q
    · subst hkq
      rw [if_neg hq, if_pos List.mem_cons_self, hf.here w k hk]
    · have he := hf.there w q k hkq
      rw [he, hf.local_ _ _ k (hf.port w q) he]
      simp [hkq]

/-- What one of the quanta brings about, and the others keep, stands when all have been taken. -/
theorem Work.Judges.reaches {P : Work × List Nat → Prop} (w : Work) {qs : List Nat} (hnd : qs.Nodup) {q : Nat} (hq : q ∈ qs)
    (hkeep : ∀ z k, P z → P ((f z.1 k).1, z.2 ++ (f z.1 k).2))
    (hreach : ∀ (v : Work) l, v.cpi = w.cpi → v.toState.entry q = w.toState.entry q → v.map.length = w.map.length →
      P ((f v q).1, l ++ (f v q).2)) : P (w.overQuanta f qs) := by
  have hall : ∀ (qs : List Nat) (z : Work × List Nat), P z →
      P ((z.1.overQuanta f qs).1, z.2 ++ (z.1.overQuanta f qs).2) := fun qs z hz => by
    rw [← Work.overQuanta_acc]
    exact foldl_induct P _ (fun z k hz => hkeep z k hz) qs z hz
  suffices h : ∀ (qs : List Nat) (z : Work × List Nat), qs.Nodup → q ∈ qs → z.1.cpi = w.cpi →
      z.1.toState.entry q = w.toState.entry q → z.1.map.length = w.map.length →
      P ((z.1.overQuanta f qs).1, z.2 ++ (z.1.overQuanta f qs).2) by
    simpa using h qs (w, []) hnd hq rfl rfl rfl
  intro qs
  induction qs with
  | nil => intro z _ hq; cases hq
  | cons k qs ih =>
    intro z hnd hq hc he hl
    obtain ⟨hk, hnd⟩ := List.nodup_cons.1 hnd
    rw [Work.overQuanta_cons, ← List.append_assoc]
    by_cases hqk : q = k
    · subst hqk
      exact hall qs ((f z.1 q).1, z.2 ++ (f z.1 q).2) (hreach z.1 z.2 hc he hl)
    · exact ih ((f z.1 k).1, z.2 ++ (f z.1 k).2) hnd ((List.mem_cons.1 hq).resolve_left hqk) ((hf.port _ _).trans hc)
        ((hf.there _ _ _ hqk).trans he) ((hf.size _ _).trans hl)

end

/-! ## A claimed quantum -/

theorem QEntry.ownToContest_iff (e : QEntry) : e.ownToContest = true ↔
    e = .mine ∨ ∃ r b, e = .draining r b ∧ r ≠ .conflict := by
  cases e with
  | draining r b => cases r <;> simp [QEntry.ownToContest]
  | _ => simp [QEntry.ownToContest]

/-- Quantum `q` after station `u` has claimed it (R18). -/
def State.claimedOf (s : State) (u q : Nat) : QEntry := if s.entry q = .free then .held u false else s.entry q

theorem Work.claimedBy_free {w : Work} {q : Nat} (h : w.toState.entry q = .free) (u : Nat) :
    w.claimedBy u q = (w.setEntry q (.held u false), []) := by
  unfold Work.claimedBy
  rw [h]

theorem Work.claimedBy_other {w : Work} {q : Nat} (h : w.toState.entry q ≠ .free) (u : Nat) : (w.claimedBy u q).1 = w := by
  unfold Work.claimedBy
  split <;> simp_all

theorem Work.claimedBy_contests {w : Work} {q : Nat} (h : (w.toState.entry q).ownToContest = true) (u : Nat) :
    (w.claimedBy u q).2 = [q] := by
  unfold Work.claimedBy
  rcases (QEntry.ownToContest_iff _).1 h with he | ⟨r, b, he, hr⟩
  · rw [he]
  · cases r <;> simp_all

theorem Work.claimedBy_judges (u : Nat) : Work.Judges (fun w q => w.claimedBy u q) fun s q => s.claimedOf u q := by
  refine ⟨fun w q => by simp, fun w q => ?_, fun w q hq => ?_, fun w q k hk => ?_, fun s t q _ he => by
    simp only [State.claimedOf, he]⟩
  all_goals
    by_cases he : w.toState.entry q = .free
    · simp_all [Work.claimedBy_free he, State.claimedOf, Work.entry_setEntry]
    · simp_all [Work.claimedBy_other he, State.claimedOf]

/-! ## A quantum that another station states it holds -/

/-- An own quantum is judged by the conflict rule (R21, R32, R34). -/
theorem Work.statedBy_own {w : Work} {q : Nat} (h : (w.toState.entry q).ownToContest = true) (u : Nat) :
    w.statedBy u q = w.conflictOwn q u := by
  unfold Work.statedBy
  rcases (QEntry.ownToContest_iff _).1 h with he | ⟨r, b, he, hr⟩
  · rw [he]
  · cases r <;> simp_all

theorem Work.conflictOwn_wins {w : Work} {q u : Nat} (h : w.toState.conf.winner q w.toState.own u = w.toState.own) :
    w.conflictOwn q u = (w, [q]) := if_pos h

/-- The entry of an own quantum that has been lost to `u` (R34). -/
def Work.loseOwn (w : Work) (q u : Nat) : Work :=
  match w.toState.entry q with
  | .mine => w.startDrain .conflict (some u) [q]
  | _ => w.setEntry q (.draining .conflict (some u))

theorem Work.conflictOwn_loses {w : Work} {q u : Nat} (h : w.toState.conf.winner q w.toState.own u ≠ w.toState.own) :
    w.conflictOwn q u =
      ({ w.loseOwn q u with conflictLost := (w.loseOwn q u).conflictLost ++ [q], sendAtOnce := true }, []) :=
  if_neg h

theorem Work.loseOwn_spec (w : Work) (q u : Nat) :
    (w.loseOwn q u).map.length = w.map.length ∧
    (w.loseOwn q u).hc = { w.hc with drains := (w.loseOwn q u).hc.drains } ∧
    (∀ k, (w.loseOwn q u).toState.entry k =
      if k = q ∧ q < w.map.length then .draining .conflict (some u) else w.toState.entry k) ∧
    (w.loseOwn q u).hc.drainQuanta = w.hc.drainQuanta ++ if w.toState.entry q = .mine then [q] else [] := by
  unfold Work.loseOwn
  split
  · rename_i he
    have hlt : q < w.map.length := by
      by_contra hge
      rw [entry_ge w.toState q (Nat.le_of_not_lt hge)] at he
      cases he
    refine ⟨Work.startDrain_length _ _ _ _, rfl, fun k => ?_, ?_⟩
    · rw [Work.entry_startDrain]
      by_cases hk : k = q
      · subst hk
        simp [he, hlt]
      · simp [hk]
    · rw [Work.startDrain_drainQuanta]
      simp [he]
  · rename_i he
    refine ⟨Work.setEntry_length _ _ _, rfl, fun k => Work.entry_setEntry _ _ _ _, ?_⟩
    rw [if_neg he, List.append_nil]
    rfl

theorem State.stated_own {s : State} {u q : Nat} (h : (s.entry q).ownToContest = true) :
    s.stated u q = if s.conf.winner q s.own u = s.own then s.entry q else .draining .conflict (some u) := by
  unfold State.stated
  rcases (QEntry.ownToContest_iff _).1 h with he | ⟨r, b, he, hr⟩
  · rw [he]
  · cases r <;> simp_all

/-- What a station has stated is never Pending. -/
theorem State.stated_ne_pending (s : State) (u q : Nat) : s.stated u q ≠ .pending := by
  unfold State.stated
  (repeat' split) <;> simp

theorem State.stated_congr {s t : State} {q : Nat} (hc : t.cpi = s.cpi) (he : t.entry q = s.entry q) (u : Nat) :
    t.stated u q = s.stated u q := by
  have hconf : t.conf = s.conf := by simp only [State.conf, hc]
  have hown : t.own = s.own := by simp only [State.own, hc]
  unfold State.stated
  rw [he, hconf, hown]

/-- What a stated quantum brings about: its entry, and what the claim in settle and the drain list make of it. -/
theorem Work.statedBy_spec (w : Work) (u q : Nat) :
    (w.statedBy u q).1.map.length = w.map.length ∧
    (w.statedBy u q).1.hc = { w.hc with claim := (w.statedBy u q).1.hc.claim, drains := (w.statedBy u q).1.hc.drains } ∧
    (∀ k, (w.statedBy u q).1.toState.entry k =
      if k = q ∧ q < w.map.length then w.toState.stated u q else w.toState.entry k) ∧
    (w.statedBy u q).1.toState.settling =
      if w.toState.entry q = .pending then w.toState.settling.filter (· ≠ q) else w.toState.settling := by
  by_cases hown : (w.toState.entry q).ownToContest = true
  · have hnp : w.toState.entry q ≠ .pending := fun he => by simp [he, QEntry.ownToContest] at hown
    rw [Work.statedBy_own hown, State.stated_own hown, if_neg hnp]
    by_cases hwin : w.toState.conf.winner q w.toState.own u = w.toState.own
    · rw [Work.conflictOwn_wins hwin, if_pos hwin]
      refine ⟨rfl, rfl, fun k => ?_, rfl⟩
      split
      · rename_i hk
        rw [hk.1]
      · rfl
    · rw [Work.conflictOwn_loses hwin, if_neg hwin]
      obtain ⟨hlen, hhc, hentry, -⟩ := w.loseOwn_spec q u
      exact ⟨hlen, by rw [hhc], hentry, settling_congr (by rw [hhc])⟩
  · unfold Work.statedBy State.stated
    cases he : w.toState.entry q with
    | pending =>
      refine ⟨by simp, by dsimp only; rw [Work.leaveClaim_hc]; rfl, fun k => ?_, ?_⟩
      · rw [entry_eq_of_map _ _ (Work.leaveClaim_map _ _)]
        exact Work.entry_setEntry _ _ _ _
      · rw [Work.leaveClaim_settling]
        rfl
    | mine => simp [he, QEntry.ownToContest] at hown
    | draining r b =>
      cases r with
      | conflict => cases b <;> exact ⟨by simp, rfl, fun k => Work.entry_setEntry _ _ _ _, rfl⟩
      | _ => simp [he, QEntry.ownToContest] at hown
    | held v m =>
      by_cases hv : v = u
      · simp only [if_pos hv]
        refine ⟨trivial, trivial, fun k => ?_, by simp⟩
        split
        · rename_i hk
          rw [hk.1, he]
        · rfl
      · simp only [if_neg hv]
        exact ⟨by simp, rfl, fun k => Work.entry_setEntry _ _ _ _, rfl⟩
    | _ => exact ⟨by simp, rfl, fun k => Work.entry_setEntry _ _ _ _, rfl⟩

theorem Work.statedBy_judges (u : Nat) : Work.Judges (fun w q => w.statedBy u q) fun s q => s.stated u q :=
  ⟨fun w q => by simp, fun w q => (w.statedBy_spec u q).1,
    fun w q hq => ((w.statedBy_spec u q).2.2.1 q).trans (if_pos ⟨rfl, hq⟩),
    fun w q k hk => ((w.statedBy_spec u q).2.2.1 k).trans (if_neg fun h => hk h.1),
    fun s t q hc he => State.stated_congr hc he u⟩

/-- The quanta of the claim in settle are Pending. -/
def State.SettlesPending (s : State) : Prop := ∀ q ∈ s.settling, s.entry q = .pending

theorem Work.statedBy_settlesPending {w : Work} (h : w.toState.SettlesPending) (u q : Nat) :
    (w.statedBy u q).1.toState.SettlesPending := by
  obtain ⟨-, -, hentry, hset⟩ := w.statedBy_spec u q
  intro k hk
  rw [hset] at hk
  have hk' : k ∈ w.toState.settling ∧ k ≠ q := by
    split at hk
    · simpa using hk
    · rename_i hne
      exact ⟨hk, fun e => hne (e ▸ h k hk)⟩
  rw [hentry, if_neg fun e => hk'.2 e.1, h k hk'.1]

theorem Work.statedBy_settling_subset (w : Work) (u q : Nat) :
    ∀ k ∈ (w.statedBy u q).1.toState.settling, k ∈ w.toState.settling := by
  obtain ⟨-, -, -, hset⟩ := w.statedBy_spec u q
  intro k hk
  rw [hset] at hk
  split at hk
  · exact (List.mem_filter.1 hk).1
  · exact hk

/-- No quantum leaves the drain list, and no message that is to be sent at once is called off. -/
theorem Work.statedBy_grows (w : Work) (u q : Nat) :
    (∀ k ∈ w.hc.drainQuanta, k ∈ (w.statedBy u q).1.hc.drainQuanta) ∧
    (w.sendAtOnce = true → (w.statedBy u q).1.sendAtOnce = true) := by
  by_cases hown : (w.toState.entry q).ownToContest = true
  · rw [Work.statedBy_own hown]
    by_cases hwin : w.toState.conf.winner q w.toState.own u = w.toState.own
    · rw [Work.conflictOwn_wins hwin]
      exact ⟨fun _ => id, id⟩
    · rw [Work.conflictOwn_loses hwin]
      obtain ⟨-, -, -, hdrains⟩ := w.loseOwn_spec q u
      exact ⟨fun k hk => by simp [hdrains, hk], fun _ => rfl⟩
  · unfold Work.statedBy
    cases he : w.toState.entry q with
    | pending =>
      dsimp only
      rw [Holdings.drainQuanta, Work.leaveClaim_hc]
      exact ⟨fun _ => id, by simp⟩
    | mine => simp [he, QEntry.ownToContest] at hown
    | draining r b =>
      cases r with
      | conflict => exact ⟨fun _ => id, id⟩
      | _ => simp [he, QEntry.ownToContest] at hown
    | held v m =>
      dsimp only
      split <;> exact ⟨fun _ => id, id⟩
    | _ => exact ⟨fun _ => id, id⟩

/-! ## All quanta that a station states it holds -/

section
variable (w : Work) (u : Nat) (qs : List Nat)

theorem Work.statedAll_map : (w.statedAll u qs).1.map =
    (w.overQuanta (fun w q => w.statedBy u q) (w.toState.listedQuanta qs)).1.map := by
  simp [Work.statedAll]

/-- One entry after all that a station states it holds (R21, R32). -/
theorem Work.entry_statedAll {q : Nat} (hq : q < w.map.length) : (w.statedAll u qs).1.toState.entry q =
    if q < w.toState.conf.bCfg ∧ q ∈ qs then w.toState.stated u q else w.toState.entry q := by
  rw [entry_eq_of_map _ _ (w.statedAll_map u qs),
    (Work.statedBy_judges u).entry_over (listedQuanta_nodup _ _) w hq]
  simp [and_comm]

theorem Work.statedAll_over {P : Work → Prop} (h : ∀ v q, P v → P (v.statedBy u q).1) (hw : P w) :
    P (w.overQuanta (fun w q => w.statedBy u q) (w.toState.listedQuanta qs)).1 :=
  foldl_induct (fun z : Work × List Nat => P z.1) (fun z q => ((z.1.statedBy u q).1, z.2 ++ (z.1.statedBy u q).2))
    (fun z q hz => h z.1 q hz) _ (w, []) hw

theorem Work.statedAll_hc : (w.statedAll u qs).1.hc = { w.hc with
    claim := (w.statedAll u qs).1.hc.claim, drains := (w.statedAll u qs).1.hc.drains } := by
  have h := w.statedAll_over u qs (P := fun v => v.hc = { w.hc with claim := v.hc.claim, drains := v.hc.drains })
    (fun v q hv => by
      obtain ⟨-, hhc, -, -⟩ := v.statedBy_spec u q
      rw [hhc, hv]) rfl
  simp only [Work.statedAll, Work.orderDrains]
  rw [h]

/-- What is left of the claim in settle is Pending, and was of it before (R20). -/
theorem Work.statedAll_settling (h : w.toState.SettlesPending) :
    ∀ q ∈ (w.statedAll u qs).1.toState.settling,
      q ∈ w.toState.settling ∧ (w.statedAll u qs).1.toState.entry q = .pending := by
  have hp := w.statedAll_over u qs (P := fun v => v.toState.SettlesPending) (fun v q hv => v.statedBy_settlesPending hv u q) h
  have hs := w.statedAll_over u qs (P := fun v => ∀ k ∈ v.toState.settling, k ∈ w.toState.settling)
    (fun v q hv k hk => hv k (v.statedBy_settling_subset u q k hk)) (fun _ => id)
  exact fun q hq => ⟨hs q hq, hp q hq⟩

variable {q : Nat} (hq : q < w.toState.conf.bCfg ∧ q ∈ qs) (hown : (w.toState.entry q).ownToContest = true)
include hq hown

/-- An own quantum that this station wins is contested (R21). -/
theorem Work.statedAll_contests (hwin : w.toState.conf.winner q w.toState.own u = w.toState.own) :
    q ∈ (w.statedAll u qs).2 := by
  refine (Work.statedBy_judges u).reaches (P := fun z => q ∈ z.2) w (listedQuanta_nodup _ _)
    ((mem_listedQuanta _ _ _).2 ⟨hq.2, hq.1⟩) (fun z k hz => List.mem_append_left _ hz) fun v l hc he _ => ?_
  have hconf : v.toState.conf = w.toState.conf := by simp only [State.conf, hc]
  have howns : v.toState.own = w.toState.own := by simp only [State.own, hc]
  dsimp only
  rw [Work.statedBy_own (by rw [he]; exact hown), Work.conflictOwn_wins (by rw [hconf, howns]; exact hwin)]
  simp

/-- Where it loses one, a setpoint is sent at once, and a Mine quantum that it loses drains (R21, R34). -/
theorem Work.statedAll_loses (hlose : w.toState.conf.winner q w.toState.own u ≠ w.toState.own) :
    (w.statedAll u qs).1.sendAtOnce = true ∧
    (w.toState.entry q = .mine → q ∈ (w.statedAll u qs).1.hc.drainQuanta) := by
  have h := (Work.statedBy_judges u).reaches
    (P := fun z => z.1.sendAtOnce = true ∧ (w.toState.entry q = .mine → q ∈ z.1.hc.drainQuanta)) w (listedQuanta_nodup _ _)
    ((mem_listedQuanta _ _ _).2 ⟨hq.2, hq.1⟩)
    (fun z k hz => ⟨(z.1.statedBy_grows u k).2 hz.1, fun hm => (z.1.statedBy_grows u k).1 q (hz.2 hm)⟩) fun v l hc he _ => by
      have hconf : v.toState.conf = w.toState.conf := by simp only [State.conf, hc]
      have howns : v.toState.own = w.toState.own := by simp only [State.own, hc]
      obtain ⟨-, -, -, hdrains⟩ := v.loseOwn_spec q u
      dsimp only
      rw [Work.statedBy_own (by rw [he]; exact hown), Work.conflictOwn_loses (by rw [hconf, howns]; exact hlose)]
      exact ⟨rfl, fun hm => by simp [hdrains, he, hm]⟩
  refine ⟨h.1, fun hm => ?_⟩
  exact ((Work.orderDrains_perm _ _).map Drain.quantum).mem_iff.2 (h.2 hm)

end

/-! ## What is contested and handed on -/

theorem Work.handConflict_conflictLost (w : Work) : w.handConflict.conflictLost = [] := by
  unfold Work.handConflict
  split
  · assumption
  · simp

theorem Work.handConflict_sessionEnding (w : Work) : w.handConflict.toState.sessionEnding = w.toState.sessionEnding := by
  unfold Work.handConflict
  split
  · rfl
  · rw [Work.hand_sessionEnding]

theorem contestAndHand_lc (z : Work × List Nat) : (contestAndHand z).lc = (z.1.enqueue (.contest z.2)).lc := by
  simp [contestAndHand]

/-- A frame of which only quanta are contested and conflicts handed on changes the blocks that such a frame may. -/
theorem contestAndHand_appliesTo {w : Work} {z : Work × List Nat} (hw : w.conflictLost = [])
    (ho : z.1.now = w.now ∧ z.1.io = w.io ∧ z.1.cpi = w.cpi ∧ z.1.pending = w.pending)
    (hb : z.1.mc = w.mc ∧ z.1.lc = w.lc ∧ z.1.ptu = w.ptu ∧ z.1.ae = w.ae ∧ z.1.ss = w.ss ∧ z.1.ci = w.ci)
    (hs : z.1.hc.stuck = w.hc.stuck) : w.appliesTo (contestAndHand z) := by
  obtain ⟨hmc, hlc, hptu, hae, hss, hci⟩ := hb
  refine ⟨by simpa using ho, by simpa using hmc, by simpa using hptu, by simpa using hae, by simpa using hci, by simpa using hs,
    ?_, ?_, ?_⟩
  · rw [contestAndHand_lc, ← hlc]
    exact z.1.enqueue_sameBut _
  · rw [hw]
    exact Work.handConflict_conflictLost _
  · rw [contestAndHand, Work.handConflict_sessionEnding]
    simp [State.sessionEnding, State.sessState, hss]

/-- In LISTENING nothing is contested (R55). -/
theorem contestAndHand_listening {w : Work} {z : Work × List Nat} (hmc : z.1.mc = w.mc) (hlc : z.1.lc = w.lc)
    (hm : w.mc.mode = .listening) : (contestAndHand z).lc = w.lc := by
  rw [contestAndHand_lc, z.1.enqueue_listening _ (by rw [hmc]; exact hm) rfl, hlc]

/-- What is to be contested stands in a queued CONTEST (R21, R103). -/
theorem contestAndHand_contests {w : Work} {z : Work × List Nat} (hmc : z.1.mc = w.mc) (hlc : z.1.lc = w.lc)
    (hf : w.lc.fresh) (hm : w.mc.mode ≠ .listening) {q : Nat} (hq : q ∈ z.2) :
    (contestAndHand z).lc.fresh ∧ (contestAndHand z).lc.has (Frame.contestOf q) := by
  rw [contestAndHand_lc]
  exact ⟨Work.enqueue_fresh (by rw [hlc]; exact hf) _,
    Work.enqueue_contest (by rw [hlc]; exact hf) (by rw [hmc]; exact hm) hq⟩

/-! ## The end of the step -/

section
variable {w : Work} (h : w.rests)
include h

/-- The end of the step leaves the claim in settle. -/
theorem Work.rests.settling_subset : ∀ q ∈ w.finish.settling, q ∈ w.toState.settling := by
  obtain ⟨-, -, -, -, -, -, -, hhc, -⟩ := h.blocks
  have hfin : w.finish.settling = w.holdingsProgress.toState.settling := settling_congr (by rw [hhc])
  obtain ⟨hsome, hnone, -⟩ := w.holdingsProgress_hc
  intro q hq
  rw [hfin] at hq
  by_cases hc : w.hc.claim = none
  · rw [hnone hc] at hq
    cases hq
  · rwa [settling_congr (s := w.toState) (hsome hc)] at hq

theorem Work.rests.drainQuanta : w.finish.hc.drainQuanta = w.hc.drainQuanta := by
  rw [h.holdings]
  rfl

/-- A step that asks for a message sends one more. -/
theorem Work.rests.sendsOne (hs : w.sendAtOnce = true) : w.finish.ci.outbox.length = w.ci.outbox.length + 1 := by
  rw [h.sentAtOnce hs]
  simp

end

end Sys2Proof.Machine
end

section
/-! SUPPORT. CLAIM and CONTEST heard (O24, O25). -/

namespace Sys2Proof.Machine

/-! ## A CLAIM -/

theorem parsePayload_claim (p : List Byte) (h1 : 1 ≤ p.length) (h8 : p.length ≤ 8) :
    parsePayload .claim p = some (.claim (quantaOf p)) := if_pos ⟨h1, h8⟩

theorem exec_claim (u : BitVec 5) (p : List Byte) (s : State) : exec (.claim u p) s = .next (s.heard .claim u p) := rfl

theorem Work.applyFrame_claim (w : Work) (u : Nat) (qs : List Nat) :
    w.applyFrame u (.claim qs) = if w.toState.peerIs u .mismatched then w else w.hearClaim u qs := by
  unfold Work.applyFrame
  cases w.toState.peerIs u .mismatched <;> rfl

theorem Work.hearClaim_appliesTo {w : Work} (hw : w.conflictLost = []) (u : Nat) (qs : List Nat) :
    w.appliesTo (w.hearClaim u qs) := by
  have hover := fun {γ : Type} (g : Work → γ) h =>
    overQuanta_keeps g (fun w q => w.claimedBy u q) h w (w.toState.listedQuanta qs)
  exact contestAndHand_appliesTo hw
    ⟨hover (·.now) (by simp), hover (·.io) (by simp), hover (·.cpi) (by simp), hover (·.pending) (by simp)⟩
    ⟨hover (·.mc) (by simp), hover (·.lc) (by simp), hover (·.ptu) (by simp), hover (·.ae) (by simp), hover (·.ss) (by simp),
      hover (·.ci) (by simp)⟩ (hover (·.hc.stuck) (by simp))

/-- One entry after a CLAIM is heard (R18). -/
theorem Work.entry_hearClaim (w : Work) (u : Nat) (qs : List Nat) {q : Nat} (hq : q < w.map.length) :
    (w.hearClaim u qs).toState.entry q =
      if q < w.toState.conf.bCfg ∧ q ∈ qs then w.toState.claimedOf u q else w.toState.entry q := by
  have hmap : (w.hearClaim u qs).map = (w.overQuanta (fun w q => w.claimedBy u q) (w.toState.listedQuanta qs)).1.map := by
    simp [Work.hearClaim]
  rw [entry_eq_of_map _ _ hmap, (Work.claimedBy_judges u).entry_over (listedQuanta_nodup _ _) w hq]
  simp [and_comm]

theorem Work.hearClaim_contests {w : Work} (hf : w.lc.fresh) (hm : w.mc.mode ≠ .listening) (u : Nat) {qs : List Nat} {q : Nat}
    (hq : q ∈ qs) (hc : q < w.toState.conf.bCfg) (hown : (w.toState.entry q).ownToContest = true) :
    (w.hearClaim u qs).lc.fresh ∧ (w.hearClaim u qs).lc.has (Frame.contestOf q) := by
  refine contestAndHand_contests (w := w) (overQuanta_keeps (·.mc) _ (by simp) _ _) (overQuanta_keeps (·.lc) _ (by simp) _ _)
    hf hm ?_
  refine (Work.claimedBy_judges u).reaches (P := fun z => q ∈ z.2) w (listedQuanta_nodup _ _)
    ((mem_listedQuanta _ _ _).2 ⟨hq, hc⟩) (fun z k hz => List.mem_append_left _ hz) fun v l _ he _ => ?_
  dsimp only
  rw [Work.claimedBy_contests (by rw [he]; exact hown)]
  simp

/-- Settles O24: each listed quantum is judged by its own entry, and what is contested is queued after the map change. -/
theorem claimHeardTakesFreeQuanta : Obligations.ClaimHeardTakesFreeQuanta := by
  refine ⟨fun u p x s hh hcalm hx h1 h8 hst => ⟨_, by rw [exec_claim, heard_applies hh (parsePayload_claim p h1 h8)], ?_⟩,
    fun u p x s hh hcalm hx h1 h8 => ⟨_, by rw [exec_claim, heard_applies hh (parsePayload_claim p h1 h8)],
      heard_mismatched hh hcalm hx rfl fun w hw => by rw [Work.applyFrame_claim, if_pos hw]⟩,
    fun u p s hst hout hown h1 h8 hcalm => ⟨_, exec_claim u p s, heard_passed (parsePayload_claim p h1 h8) hst hout hown hcalm⟩⟩
  obtain ⟨-, -, -, hux⟩ := hh
  have hw := hearing_spec (f := .claim (quantaOf p)) rfl hux
  generalize s.hearing u.toNat (.claim (quantaOf p)) = w at hw ⊢
  rw [Work.applyFrame_claim, if_neg (by rw [hw.mismatched hux]; simpa using hx)]
  have happ := Work.hearClaim_appliesTo hw.conflictLost u.toNat (quantaOf p)
  have hrest := hw.rests happ hcalm
  have hlen : w.map.length = s.map.length := by rw [hw.map]
  refine ⟨fun q hq => ?_, fun hm q hq hc hown => ?_, fun hm => ?_, hw.sender happ hcalm hux, ?_, hw.heardFrom happ hcalm, ?_⟩
  · rw [hrest.entry]
    by_cases hlt : q < s.map.length
    · rw [w.entry_hearClaim u.toNat (quantaOf p) (hlen ▸ hlt), hw.conf, State.claimedOf, hw.entry]
      by_cases hf : s.entry q = .free <;> simp [hf]
    · have hge := entry_ge s q (Nat.le_of_not_lt hlt)
      rw [entry_ge _ q (by simpa [Work.hearClaim, (Work.claimedBy_judges _).size_over, hlen] using hlt), hge]
      simp
  · obtain ⟨hfresh, hhas⟩ := Work.hearClaim_contests (hw.fresh hst) (hw.mode_ne_listening hm) u.toNat hq
      (by rw [hw.conf]; exact hc) (by rw [hw.entry]; exact hown)
    exact (contests_iff _ q).2 (hrest.has (Frame.contestOf_lists q) hfresh hhas)
  · exact hw.queue_listening happ hcalm hm (contestAndHand_listening (overQuanta_keeps (·.mc) _ (by simp) _ _)
      (overQuanta_keeps (·.lc) _ (by simp) _ _) (hw.mode_listening hm))
  · obtain ⟨-, hbu, -⟩ := hrest.blocks
    rw [hbu, Work.hearClaim_keeps .. |>.2.2.2.2.1, hw.bu]
  · have hhc : (w.hearClaim u.toNat (quantaOf p)).hc = { s.hc with needOpen := w.hc.needOpen } := by simpa using hw.hc
    rw [hrest.holdings, hhc]

/-! ## A CONTEST -/

theorem parsePayload_contest (p : List Byte) (h1 : 1 ≤ p.length) (h8 : p.length ≤ 8) :
    parsePayload .contest p = some (.contest (quantaOf p)) := if_pos ⟨h1, h8⟩

theorem exec_contest (u : BitVec 5) (p : List Byte) (s : State) : exec (.contest u p) s = .next (s.heard .contest u p) := rfl

theorem Work.applyFrame_contest (w : Work) (u : Nat) (qs : List Nat) :
    w.applyFrame u (.contest qs) = if w.toState.peerIs u .mismatched then w else w.hearContest u qs := by
  unfold Work.applyFrame
  cases w.toState.peerIs u .mismatched <;> rfl

theorem Work.hearContest_appliesTo {w : Work} (hw : w.conflictLost = []) (u : Nat) (qs : List Nat) :
    w.appliesTo (w.hearContest u qs) := by
  have hhc := w.statedAll_hc u qs
  exact contestAndHand_appliesTo hw (by simp) (by simp) (by rw [hhc])

/-- Settles O25: each listed quantum is judged by the conflict rule on its own entry, and what is won is contested after the
map change. -/
theorem contestHeardAppliesTheConflictRule : Obligations.ContestHeardAppliesTheConflictRule := by
  refine ⟨fun u p x s hh hcalm hx h1 h8 hsh hst hps => ⟨_, by rw [exec_contest, heard_applies hh (parsePayload_contest p h1 h8)],
      ?_⟩,
    fun u p x s hh hcalm hx h1 h8 => ⟨_, by rw [exec_contest, heard_applies hh (parsePayload_contest p h1 h8)],
      heard_mismatched hh hcalm hx rfl fun w hw => by rw [Work.applyFrame_contest, if_pos hw]⟩,
    fun u p s hst hout hown h1 h8 hcalm =>
      ⟨_, exec_contest u p s, heard_passed (parsePayload_contest p h1 h8) hst hout hown hcalm⟩⟩
  obtain ⟨-, -, -, hux⟩ := hh
  have hw := hearing_spec (f := .contest (quantaOf p)) rfl hux
  generalize s.hearing u.toNat (.contest (quantaOf p)) = w at hw ⊢
  rw [Work.applyFrame_contest, if_neg (by rw [hw.mismatched hux]; simpa using hx)]
  have happ := Work.hearContest_appliesTo hw.conflictLost u.toNat (quantaOf p)
  have hrest := hw.rests happ hcalm
  have hvmap : (w.hearContest u.toNat (quantaOf p)).map = (w.statedAll u.toNat (quantaOf p)).1.map := by
    simp [Work.hearContest]
  have hvhc : (w.hearContest u.toNat (quantaOf p)).hc = (w.statedAll u.toNat (quantaOf p)).1.hc := by
    simp [Work.hearContest]
  have hlen : w.map.length = 128 := by rw [hw.map, hsh.1]
  have hentry : ∀ q, q < 128 → (w.hearContest u.toNat (quantaOf p)).finish.entry q =
      if q < s.conf.bCfg ∧ q ∈ quantaOf p then s.stated u.toNat q else s.entry q := fun q hq => by
    rw [hrest.entry, entry_eq_of_map _ _ hvmap, w.entry_statedAll _ _ (by rw [hlen]; exact hq), hw.conf, hw.entry,
      State.stated_congr hw.outer.2.2.1 (hw.entry q)]
  have hin : ∀ q, s.entry q ≠ .withdrawn → q < 128 := fun q hq => by
    by_contra hge
    exact hq (entry_ge s q (by rw [hsh.1]; omega))
  have hwin_iff : ∀ q, w.toState.conf.winner q w.toState.own u.toNat = w.toState.own ↔
      s.conf.winner q s.own u.toNat = s.own := fun q => by rw [hw.conf, hw.own]
  refine ⟨hentry, fun hm q hq hc hown hwin => ?_, fun hm => ?_, fun q hq hmine hlost => ?_, fun q hq hc hown hlose => ?_,
    fun q hq => ?_, hw.sender happ hcalm hux, ?_, hw.heardFrom happ hcalm⟩
  · obtain ⟨hfresh, hhas⟩ := contestAndHand_contests (w := w) (z := w.statedAll u.toNat (quantaOf p)) (by simp) (by simp)
      (hw.fresh hst) (hw.mode_ne_listening hm)
      (w.statedAll_contests u.toNat _ ⟨by rw [hw.conf]; exact hc, hq⟩ (by rw [hw.entry]; exact hown) ((hwin_iff q).2 hwin))
    exact (contests_iff _ q).2 (hrest.has (Frame.contestOf_lists q) hfresh hhas)
  · exact hw.queue_listening happ hcalm hm (contestAndHand_listening (by simp) (by simp) (hw.mode_listening hm))
  · have hown : (s.entry q).ownToContest = true := by rw [hmine]; rfl
    rw [hentry q (hin q (by simp [hmine]))] at hlost
    have hlisted : q < s.conf.bCfg ∧ q ∈ quantaOf p := by
      by_contra hn
      rw [if_neg hn] at hlost
      exact hlost hmine
    rw [if_pos hlisted, State.stated_own hown] at hlost
    have hlose : s.conf.winner q s.own u.toNat ≠ s.own := fun hwin => by
      rw [if_pos hwin] at hlost
      exact hlost hmine
    obtain ⟨-, hdrain⟩ := w.statedAll_loses u.toNat (quantaOf p) (q := q) (by rw [hw.conf]; exact hlisted)
      (by rw [hw.entry]; exact hown) (mt (hwin_iff q).1 hlose)
    have := hdrain (by rw [hw.entry]; exact hmine)
    rw [← hvhc, ← hrest.drainQuanta] at this
    exact this
  · obtain ⟨hsend, -⟩ := w.statedAll_loses u.toNat (quantaOf p) (q := q) (by rw [hw.conf]; exact ⟨hc, hq⟩)
      (by rw [hw.entry]; exact hown) (mt (hwin_iff q).1 hlose)
    rw [hrest.sendsOne (by simpa [Work.hearContest] using hsend)]
    simp [hw.ci]
  · have hsp : w.toState.SettlesPending := fun k hk => by
      rw [hw.entry, (hps.2 k).2 (hw.settling ▸ hk)]
    obtain ⟨hset, hpend⟩ := w.statedAll_settling u.toNat (quantaOf p) hsp q
      (by rw [← settling_congr (s := (w.statedAll u.toNat (quantaOf p)).1.toState) (congrArg Holdings.claim hvhc)]
          exact hrest.settling_subset q hq)
    have hsq : q ∈ s.settling := hw.settling ▸ hset
    refine ⟨hsq, fun hl => ?_⟩
    have hlt : q < w.map.length := by
      rw [hlen]
      exact hin q (by rw [(hps.2 q).2 hsq]; simp)
    rw [w.entry_statedAll _ _ hlt, if_pos (by rw [hw.conf]; exact hl)] at hpend
    exact State.stated_ne_pending _ _ _ hpend
  · obtain ⟨-, hbu, -⟩ := hrest.blocks
    rw [hbu, Work.hearContest_keeps .. |>.2.2.2.2.1, hw.bu]

end Sys2Proof.Machine
end

section
/-! SUPPORT. JOIN and LEAVE heard (O28). -/

namespace Sys2Proof.Machine

theorem parsePayload_join {p : List Byte} (h : p.length = 4) :
    parsePayload .join p = some (.join (BitVec.ofNat 16 (at2 p 0)) (at1 p 2) (at1 p 3)) := if_pos h

theorem matches_join (s : State) (fp : BitVec 16) (n h : Nat) :
    s.matches (.join fp n h) = true ↔ s.cpi.fingerprint = some fp ∧ n = s.conf.nSt ∧ h = s.conf.h := by
  simp [State.matches, and_assoc]

theorem exec_join (u : BitVec 5) (p : List Byte) (s : State) : exec (.join u p) s = .next (s.heard .join u p) := rfl

theorem exec_leave (u : BitVec 5) (p : List Byte) (s : State) : exec (.leave u p) s = .next (s.heard .leave u p) := rfl

theorem Work.applyFrame_leave (w : Work) (u : Nat) :
    w.applyFrame u .leave = { w.forgetHoldings u false with considerClaim := true } := rfl

theorem Work.leave_appliesTo (w : Work) (u : Nat) :
    w.appliesTo { w.forgetHoldings u false with considerClaim := true } := by
  refine ⟨by simp, by simp, by simp, by simp, by simp, by simp, ?_, by simp, ?_⟩
  · rw [show ({ w.forgetHoldings u false with considerClaim := true } : Work).lc = w.lc by simp]
    exact Link.sameBut_refl _
  · simp [State.sessionEnding, State.sessState]

/-- Settles O28: hearing alone moves the entry, and a LEAVE frees what the map shows of its sender. -/
theorem joinAndLeaveHeardMoveTheEntry : Obligations.JoinAndLeaveHeardMoveTheEntry := by
  refine ⟨fun u p x s hh hcalm h4 => ⟨_, by rw [exec_join, heard_applies hh (parsePayload_join h4)], ?_⟩,
    fun u x s hh hcalm => ⟨_, by rw [exec_leave, heard_applies hh (k := .leave) rfl], ?_⟩⟩
  · obtain ⟨-, -, -, hux⟩ := hh
    have hw := hearing_any hux (.join (BitVec.ofNat 16 (at2 p 0)) (at1 p 2) (at1 p 3))
    have hm := matches_join s (BitVec.ofNat 16 (at2 p 0)) (at1 p 2) (at1 p 3)
    generalize s.hearing u.toNat (.join (BitVec.ofNat 16 (at2 p 0)) (at1 p 2) (at1 p 3)) = w at hw ⊢
    have happ := w.appliesTo_refl
    obtain ⟨-, hbu, hmap, -⟩ := (hw.rests happ hcalm).blocks
    refine ⟨(Work.sender_after hw happ hcalm hux (Peer.hear_settled _ _ _ _)).trans ?_, hmap.trans hw.map, hbu.trans hw.bu,
      hw.heardFrom happ hcalm⟩
    by_cases hok : s.cpi.fingerprint = some (BitVec.ofNat 16 (at2 p 0)) ∧ at1 p 2 = s.conf.nSt ∧ at1 p 3 = s.conf.h
    · rw [if_pos hok, hm.2 hok]
      rfl
    · rw [if_neg hok, Bool.eq_false_iff.2 (mt hm.1 hok)]
      rfl
  · obtain ⟨-, -, -, hux⟩ := hh
    have hw := hearing_any hux .leave
    generalize s.hearing u.toNat .leave = w at hw ⊢
    have happ := w.leave_appliesTo u.toNat
    have hrest := hw.rests happ hcalm
    obtain ⟨-, hbu, -⟩ := hrest.blocks
    rw [Work.applyFrame_leave]
    refine ⟨(Work.sender_after hw happ hcalm hux (Peer.hear_settled _ _ _ _)).trans rfl, fun q _ => ?_,
      hbu.trans ((Work.forgetHoldings_keeps _ _ _).2.2.2.2.2.1.trans hw.bu), hw.heardFrom happ hcalm⟩
    have hentry : (w.forgetHoldings u.toNat false).toState.entry q = s.forgetEntry u.toNat false q (s.entry q) := by
      by_cases hlt : q < w.map.length
      · rw [Work.entry_forgetHoldings _ _ _ _ hlt, hw.entry]
        simp only [State.forgetEntry, hw.vacant, Bool.false_and]
      · have hge : s.entry q = .withdrawn := entry_ge s q (by rw [← hw.map]; omega)
        rw [hge, entry_ge _ q (by simpa [Work.forgetHoldings] using hlt)]
        rfl
    rw [hrest.entry]
    refine hentry.trans ?_
    unfold State.forgetEntry
    cases s.entry q with
    | draining r b => cases b <;> rfl
    | _ => rfl

end Sys2Proof.Machine
end

section
/-! SUPPORT. REPORT heard (O27), and the notices that a step's first system notice stands before. -/

namespace Sys2Proof.Machine

/-! ## The notice of a system event -/

/-- What a notice tells but for its tags, its time and the overrun mark. -/
def Notice.tells (n : Notice) : Nat × Nat × Bool := (n.code, n.value, n.urgent)

theorem markNewest_tells (q : List Notice) : (markNewest q).map Notice.tells = q.map Notice.tells := by
  induction q with
  | nil => rfl
  | cons n q ih =>
    cases q with
    | nil => rfl
    | cons m q => simpa [markNewest] using ih

theorem postUrgent_tells (q : List Notice) (n : Notice) : q.map Notice.tells <+: (postUrgent q n).map Notice.tells := by
  unfold postUrgent
  split
  · simp
  · rw [markNewest_tells]

theorem Bookings.offer_tells (k : Bookings) (i v t : Nat) :
    k.notices.map Notice.tells <+: (k.offer i v t).notices.map Notice.tells := by
  unfold Bookings.offer
  split
  · exact List.prefix_rfl
  · dsimp only
    split
    · exact postUrgent_tells _ _
    · split
      · exact List.prefix_rfl
      · split
        · simp
        · exact List.prefix_rfl

theorem Work.takeAction_notices (w : Work) (a : Action) : (w.takeAction a).bk.notices = w.bk.notices := by
  cases a <;> simp [Work.takeAction]

theorem Work.evaluate_notices (w : Work) (i : Nat) (holds event : Bool) (v : Nat) :
    (w.evaluate i holds event v).bk.notices = w.bk.notices := by
  unfold Work.evaluate
  split
  · rfl
  · dsimp only
    split
    · rw [Work.takeAction_notices]
    · rfl

/-- Handing a quantity to the bookings posts nothing before the end of the step. -/
theorem Work.hand_notices (w : Work) (sel : Trigger → Option (Bool × Bool × Nat)) : (w.hand sel).bk.notices = w.bk.notices := by
  unfold Work.hand
  refine foldl_induct (fun v : Work => v.bk.notices = w.bk.notices) _ (fun v i hv => ?_) _ _ rfl
  split
  · rw [Work.evaluate_notices, hv]
  · exact hv

/-- The one system notice of a step is the first that is posted (R171). -/
theorem Work.flushNotices_first {w : Work} {c : SysCode} {v : Nat} {tags : List Byte} (hs : w.sysNotices = [(c, v, tags)])
    (hroom : w.bk.notices.length < 16) :
    (w.flushNotices.bk.notices[w.bk.notices.length]?).map Notice.tells = some (128 + sysCode c, v, true) := by
  have hsys : sysOrder.flatMap (fun c => w.sysNotices.filter fun n => n.1 == c) = [(c, v, tags)] := by
    rw [hs]
    cases c <;> rfl
  have hposted : postUrgent w.bk.notices (systemNotice c v tags w.toState.noticeTime) =
      w.bk.notices ++ [systemNotice c v tags w.toState.noticeTime] := if_pos hroom
  unfold Work.flushNotices
  dsimp only
  rw [hsys, List.foldl_cons, List.foldl_nil, hposted]
  obtain ⟨l, hl⟩ := foldl_induct
    (fun k : Bookings => (w.bk.notices ++ [systemNotice c v tags w.toState.noticeTime]).map Notice.tells <+:
      k.notices.map Notice.tells) (fun (k : Bookings) (f : Nat × Nat) => k.offer f.1 f.2 w.toState.noticeTime)
    (fun k f hk => hk.trans (k.offer_tells _ _ _))
    ((List.range Config.bookings).flatMap fun i => w.firings.filter fun f => f.1 == i)
    { w.bk with notices := w.bk.notices ++ [systemNotice c v tags w.toState.noticeTime] } List.prefix_rfl
  rw [← List.getElem?_map, ← hl]
  simp [Notice.tells, systemNotice]

theorem Work.rests.postsFirst {w : Work} (h : w.rests) {c : SysCode} {v : Nat} {tags : List Byte}
    (hs : w.sysNotices = [(c, v, tags)]) (hroom : w.bk.notices.length < 16) :
    (w.finish.bk.notices[w.bk.notices.length]?).map Notice.tells = some (128 + sysCode c, v, true) := by
  have hbk : w.holdingsProgress.formAndSend.bk = w.bk := by simp
  have hfirst := Work.flushNotices_first (w := w.holdingsProgress.formAndSend) (c := c) (v := v) (tags := tags)
    (by simpa using hs) (by rw [hbk]; exact hroom)
  rw [hbk] at hfirst
  rw [h.finish_eq]
  exact hfirst

/-- At its first mismatch CONFIG_MISMATCH with the number of the station is to be posted (R46). -/
theorem hearing_mismatchNotice {s : State} {u : Nat} {x : Peer} {f : Frame} (hx : s.ptu.entries[u]? = some x)
    (ha : announces f = true) (hm : s.matches f = false) (hfp : x.fpSeen = false) :
    (s.hearing u f).sysNotices = [(.configMismatch, u, [0, 0, 0])] ∧ (s.hearing u f).bk.notices = s.bk.notices := by
  have hm' : ({ s.begin with lc := s.lc.validFrame } : Work).toState.matches f = false := by cases f <;> exact hm
  have hpeer : (Work.hearPeer { s.begin with lc := s.lc.validFrame } u f).sysNotices = [(.configMismatch, u, [0, 0, 0])] ∧
      (Work.hearPeer { s.begin with lc := s.lc.validFrame } u f).bk.notices = s.bk.notices := by
    unfold Work.hearPeer
    rw [show ({ s.begin with lc := s.lc.validFrame } : Work).ptu.entries[u]? = some x from hx]
    simp only [ha, hm', hfp, Bool.not_false, Bool.and_self, if_true]
    split
    · exact ⟨rfl, rfl⟩
    · unfold Work.handPeer
      exact ⟨by simp, by rw [Work.hand_notices]; rfl⟩
  unfold State.hearing
  dsimp only
  split
  · unfold Work.setMode Work.handMode
    exact ⟨by simpa using hpeer.1, by rw [Work.hand_notices]; exact hpeer.2⟩
  · exact hpeer

/-! ## Holdings -/

theorem parsePayload_report {p : List Byte} (h : p.length = 26) : parsePayload .report p =
    some (.report (at1 p 0) (at1 p 1) (at1 p 2) (at1 p 3) (at1 p 4) (at1 p 5) (at2 p 6) (holdingsAt p 8)
      (BitVec.ofNat 16 (at2 p 24))) := if_pos h

theorem exec_report (u : BitVec 5) (p : List Byte) (s : State) : exec (.report u p) s = .next (s.heard .report u p) := rfl

theorem matches_report (s : State) (a b c d e f g : Nat) (hs : List Nat) (fp : BitVec 16) :
    s.matches (.report a b c d e f g hs fp) = true ↔ s.cpi.fingerprint = some fp := by
  simp [State.matches]

theorem Work.applyFrame_report (w : Work) (u a b c d e f g : Nat) (hs : List Nat) (fp : BitVec 16) :
    w.applyFrame u (.report a b c d e f g hs fp) = if w.toState.peerIs u .mismatched then w else w.hearHoldings u hs := by
  unfold Work.applyFrame
  cases w.toState.peerIs u .mismatched <;> rfl

theorem mem_holdingsAt {p : List Byte} {i q : Nat} (hq : q < 128) :
    q ∈ holdingsAt p i ↔ (p.getD (i + q / 8) 0).getLsbD (7 - q % 8) = true := by
  simp only [holdingsAt, List.mem_filter, List.mem_range]
  exact and_iff_right hq

/-- The entry of the sender after the frame, as hearing it leaves it. -/
theorem State.Hearing.peerIs_sender {s : State} {u : Nat} {x y : Peer} {w : Work} (h : s.Hearing u y w)
    (hx : s.ptu.entries[u]? = some x) (hy : y.heardPlain s.now = y) (st : PeerState) :
    w.toState.peerIs u st = decide (y.state = st) := by
  have hlt : u < s.ptu.entries.length := (List.getElem?_eq_some_iff.1 hx).1
  rw [State.peerIs, State.peerState, h.ptu, hy, Bool.eq_iff_iff]
  simp [hlt]

/-- One entry after those that a REPORT no longer lists have been dropped (R33). -/
theorem Work.entry_unlisted (w : Work) (u : Nat) (qs : List Nat) {q : Nat} (hq : q < w.map.length) :
    (w.unlisted u qs).toState.entry q =
      if (w.toState.entry q).heldBy u = true ∧ q ∉ qs then w.toState.vacant q else w.toState.entry q := by
  unfold Work.unlisted
  rw [Work.entry_mapAll _ _ _ hq]
  cases he : w.toState.entry q with
  | held v m => by_cases hv : v = u <;> simp [QEntry.heldBy, hv]
  | _ => simp [QEntry.heldBy]

theorem Work.hearHoldings_appliesTo {w : Work} (hw : w.conflictLost = []) (u : Nat) (qs : List Nat) :
    w.appliesTo (w.hearHoldings u qs) := by
  have hhc := (w.unlisted u qs).statedAll_hc u qs
  exact contestAndHand_appliesTo hw (by simp) (by simp) (by rw [hhc]; simp)

/-- What hearing a REPORT leaves of the entry of its sender (R46, R48). -/
theorem Peer.hear_report_ok (x : Peer) (now seq tier weight want floor sess tag : Nat) (hs : List Nat) (fp : BitVec 16) :
    x.hear now true (.report seq tier weight want floor sess tag hs fp) = { x with
      heardAt := some now, state := .live, lastSeq := seq
      bid := if 3 < tier then none else some
        { tier := tier, weight := max 1 (min weight 64), want := min want 128, floor := min floor (min want 128) }
      summary := (sessOf sess).map fun st => (st, tag) } := rfl

/-- A REPORT with another fingerprint changes its sender's entry only (R46). -/
theorem report_mismatched {s : State} {u : BitVec 5} {p : List Byte} {x : Peer} (hh : s.hears u.toNat x) (hcalm : s.calm)
    (h26 : p.length = 26) (hfp : s.cpi.fingerprint ≠ some (BitVec.ofNat 16 (at2 p 24))) :
    ∃ t, exec (.report u p) s = .next t ∧
      (t.ptu.entries[u.toNat]? = some { x with
        heardAt := some s.now, state := .mismatched, bid := none, summary := none, fpSeen := true }) ∧
      t.map = s.map ∧
      (x.fpSeen = false → s.bk.notices.length < 16 →
        (t.bk.notices[s.bk.notices.length]?).map Notice.tells = some (128, u.toNat, true)) ∧
      t.bu = s.bu ∧ s.heardFrom t u.toNat := by
  refine ⟨_, by rw [exec_report, heard_applies hh (parsePayload_report h26)], ?_⟩
  obtain ⟨-, -, -, hux⟩ := hh
  generalize hf : Frame.report (at1 p 0) (at1 p 1) (at1 p 2) (at1 p 3) (at1 p 4) (at1 p 5) (at2 p 6) (holdingsAt p 8)
    (BitVec.ofNat 16 (at2 p 24)) = f
  have hm : s.matches f = false := by
    rw [Bool.eq_false_iff, ← hf]
    exact mt (matches_report s _ _ _ _ _ _ _ _ _).1 hfp
  have hy : x.hear s.now false f = { x with
      heardAt := some s.now, state := .mismatched, bid := none, summary := none, fpSeen := true } := by
    rw [← hf]
    rfl
  have hw := hearing_any hux f
  have hnote := hearing_mismatchNotice hux (f := f) (by rw [← hf]; rfl) hm
  have hsettled := x.hear_settled s.now false f
  rw [hm] at hw
  generalize s.hearing u.toNat f = w at hw hnote ⊢
  have happly : w.applyFrame u.toNat f = w := by
    rw [← hf, Work.applyFrame_report, if_pos]
    rw [hw.peerIs_sender hux hsettled, hy]
    rfl
  have happ := w.appliesTo_refl
  have hrest := hw.rests happ hcalm
  obtain ⟨-, hbu, hmap, -⟩ := hrest.blocks
  rw [happly]
  refine ⟨(Work.sender_after hw happ hcalm hux hsettled).trans (by rw [hy]), hmap.trans hw.map, fun h1 h2 => ?_,
    hbu.trans hw.bu, hw.heardFrom happ hcalm⟩
  obtain ⟨hsys, hnot⟩ := hnote h1
  rw [← hnot]
  exact hrest.postsFirst hsys (by rw [hnot]; exact h2)

/-- Settles O27: the holdings that are no longer listed go first, and each listed quantum is then judged on an entry that this
has left as it was. -/
theorem reportHeardRecordsBidAndHoldings : Obligations.ReportHeardRecordsBidAndHoldings := by
  refine ⟨fun u p x s hh hcalm h26 hfp hsh _ => ⟨_, by rw [exec_report, heard_applies hh (parsePayload_report h26)], ?_⟩,
    fun u p x s hh hcalm h26 hfp => ?_⟩
  · obtain ⟨-, -, -, hux⟩ := hh
    generalize hf : Frame.report (at1 p 0) (at1 p 1) (at1 p 2) (at1 p 3) (at1 p 4) (at1 p 5) (at2 p 6) (holdingsAt p 8)
      (BitVec.ofNat 16 (at2 p 24)) = f
    have hm : s.matches f = true := by
      rw [← hf]
      exact (matches_report s _ _ _ _ _ _ _ _ _).2 hfp
    have hw := hearing_any hux f
    have hsettled := x.hear_settled s.now true f
    rw [hm] at hw
    generalize s.hearing u.toNat f = w at hw ⊢
    have hlive : (x.hear s.now true f).state = .live := by rw [← hf]; rfl
    have happly : w.applyFrame u.toNat f = w.hearHoldings u.toNat (holdingsAt p 8) := by
      rw [← hf, Work.applyFrame_report, if_neg]
      rw [hw.peerIs_sender hux hsettled, hlive]
      simp
    have happ := Work.hearHoldings_appliesTo hw.conflictLost u.toNat (holdingsAt p 8)
    have hrest := hw.rests happ hcalm
    rw [happly]
    generalize hu : w.unlisted u.toNat (holdingsAt p 8) = w'
    have hv : w.hearHoldings u.toNat (holdingsAt p 8) = contestAndHand (w'.statedAll u.toNat (holdingsAt p 8)) := by
      rw [← hu]
      rfl
    obtain ⟨hcpi, hmc, hlc, hbu', hhc'⟩ :
        w'.cpi = w.cpi ∧ w'.mc = w.mc ∧ w'.lc = w.lc ∧ w'.bu = w.bu ∧ w'.hc = w.hc := by
      rw [← hu]
      simp
    have hlen : w.map.length = 128 := by rw [hw.map, hsh.1]
    have hlen' : w'.map.length = 128 := by
      rw [← hu]
      simpa [Work.unlisted] using hlen
    have hconf : w'.toState.conf = s.conf := by rw [← hw.conf]; simp only [State.conf, hcpi]
    have hown : w'.toState.own = s.own := by rw [← hw.own]; simp only [State.own, hcpi]
    have hbefore : ∀ q, q < 128 → w'.toState.entry q =
        if (s.entry q).heldBy u.toNat = true ∧ q ∉ holdingsAt p 8 then s.vacant q else s.entry q := fun q hq => by
      rw [← hu, w.entry_unlisted _ _ (by rw [hlen]; exact hq), hw.entry, hw.vacant]
    have hlisted : ∀ q, q < 128 → q ∈ holdingsAt p 8 → w'.toState.entry q = s.entry q := fun q hq hin => by
      rw [hbefore q hq, if_neg fun h => h.2 hin]
    have hentry : ∀ q, q < 128 → (w.hearHoldings u.toNat (holdingsAt p 8)).finish.entry q =
        if q < s.conf.bCfg ∧ q ∈ holdingsAt p 8 then s.stated u.toNat q else w'.toState.entry q := fun q hq => by
      rw [hrest.entry, hv, entry_eq_of_map _ (w'.statedAll u.toNat (holdingsAt p 8)).1.toState (by simp),
        w'.entry_statedAll _ _ (by rw [hlen']; exact hq), hconf]
      by_cases hin : q ∈ holdingsAt p 8
      · rw [State.stated_congr (hcpi.trans hw.outer.2.2.1) (hlisted q hq hin)]
      · simp [hin]
    refine ⟨(Work.sender_after hw happ hcalm hux hsettled).trans ?_, fun q hq => ?_, fun hmode hst q hq hbit hc hoc hwin => ?_,
      fun q hq hmine hlost => ?_, ?_, hw.heardFrom happ hcalm⟩
    · rw [← hf, Peer.hear_report_ok]
    · rw [hentry q hq]
      by_cases hbit : (p.getD (8 + q / 8) 0).getLsbD (7 - q % 8) = true
      · have hin := (mem_holdingsAt (i := 8) hq).2 hbit
        rw [if_pos hbit, hlisted q hq hin]
        simp [hin]
      · have hin := mt (mem_holdingsAt (i := 8) hq).1 hbit
        rw [if_neg hbit, hbefore q hq]
        simp [hin]
    · have hin := (mem_holdingsAt (i := 8) hq).2 hbit
      obtain ⟨hfresh, hhas⟩ := contestAndHand_contests (w := w) (z := w'.statedAll u.toNat (holdingsAt p 8)) (by simp [hmc])
        (by simp [hlc]) (hw.fresh hst) (hw.mode_ne_listening hmode)
        (w'.statedAll_contests u.toNat _ ⟨by rw [hconf]; exact hc, hin⟩ (by rw [hlisted q hq hin]; exact hoc)
          (by rw [hconf, hown]; exact hwin))
      rw [← hv] at hfresh hhas
      exact (contests_iff _ q).2 (hrest.has (Frame.contestOf_lists q) hfresh hhas)
    · rw [hentry q hq] at hlost
      have hl : q < s.conf.bCfg ∧ q ∈ holdingsAt p 8 := by
        by_contra hn
        rw [if_neg hn, hbefore q hq, if_neg (by simp [hmine, QEntry.heldBy])] at hlost
        exact hlost hmine
      have hoc : (s.entry q).ownToContest = true := by rw [hmine]; rfl
      rw [if_pos hl, State.stated_own hoc] at hlost
      have hlose : s.conf.winner q s.own u.toNat ≠ s.own := fun hwin => by
        rw [if_pos hwin] at hlost
        exact hlost hmine
      obtain ⟨-, hdrain⟩ := w'.statedAll_loses u.toNat (holdingsAt p 8) (q := q) (by rw [hconf]; exact hl)
        (by rw [hlisted q hq hl.2]; exact hoc) (by rw [hconf, hown]; exact hlose)
      have hin := hdrain (by rw [hlisted q hq hl.2]; exact hmine)
      change q ∈ (w.hearHoldings u.toNat (holdingsAt p 8)).finish.hc.drainQuanta
      rw [hrest.drainQuanta, hv]
      simpa using hin
    · obtain ⟨-, hbu, -⟩ := hrest.blocks
      rw [hbu, hv]
      simp [hbu', hw.bu]
  · obtain ⟨t, hexec, hsender, hmap, hnote, hrest⟩ := report_mismatched hh hcalm h26 hfp
    exact ⟨t, hexec, hsender, hmap, fun h1 h2 _ => hnote h1 h2, hrest⟩

end Sys2Proof.Machine
end

section
/-! SUPPORT. UNDOCK and ABORT SESSION (O17): every holding is given up, and the session goes where nothing is held. -/

namespace Sys2Proof.Machine

/-! ## Every holding given up -/

section
variable {w : Work}

/-- Mine drains, and what is Pending is given up (R22, R28). -/
theorem Work.entry_drainAndGiveUp (hp : w.toState.pendingSettles) (r : DrainReason) (b : Bool) (q : Nat) :
    ((w.drainMine r fun _ => true).giveUpPending b w.toState.settling).toState.entry q = w.toState.drainedFor r q := by
  have hvacant : (w.drainMine r fun _ => true).toState.vacant q = w.toState.vacant q := rfl
  rw [Work.entry_giveUpPending, Work.entry_drainMine, hvacant]
  have hq := hp.2 q
  unfold State.drainedFor
  cases he : w.toState.entry q with
  | mine => simp
  | pending => simp [hq.1 he]
  | _ => simp

theorem Work.endQueued_map : w.removeQueuedClaim.removeQueuedRequest.endSweep.map = w.map := by simp

/-! ## The end of the step -/

/-- A step under no withdrawal, in which no drain completes of itself, ends with the test of ENDING, after which it rests. -/
theorem Work.rests_afterTest (hl : w.lostCompletes = w) (hl' : w.testSessionEnd.lostCompletes = w.testSessionEnd)
    (hc : w.conflictLost = []) (hd : w.toState.draining = false) :
    w.testSessionEnd.rests ∧ w.finish = w.testSessionEnd.finish := by
  have hconf : ∀ v : Work, v.conflictLost = [] → v.handConflict = v := fun v hv => by rw [Work.handConflict, hv]
  have hdrain : w.testSessionEnd.testDrainDone = w.testSessionEnd :=
    Work.testDrainDone_idle (by rw [draining_congr (s := w.toState) (by simp), hd])
  have hw : w.settle = w.testSessionEnd.holdingsProgress.formAndSend.flushNotices := by
    rw [Work.settle, hl, hconf w hc, hdrain, Work.testSessionEnd_again]
  have hu : w.testSessionEnd.rests := by
    rw [Work.rests, Work.settle, hl', hconf _ (by simp [hc]), Work.testSessionEnd_again, hdrain, Work.testSessionEnd_again]
  exact ⟨hu, congrArg Work.toState (hw.trans hu.symm)⟩

theorem Work.rests_testSessionEnd (hl : ¬(w.ci.conv = .lost ∧ w.ci.lostQuiesce = .expired)) (hc : w.conflictLost = [])
    (hi : w.mc.isolateReq = false) (hr : w.mc.restarting = false) :
    w.testSessionEnd.rests ∧ w.finish = w.testSessionEnd.finish :=
  Work.rests_afterTest (if_neg hl) (if_neg (by simpa using hl)) hc (by simp [State.draining, hi, hr])

/-- In ENDING the session goes where nothing is held and no own CLAIM awaits its echo (R126). -/
theorem Work.testSessionEnd_session {y : Session} (hy : w.ss.session = some y) (he : w.toState.sessionEnding = true) :
    w.testSessionEnd.ss.session =
      if w.toState.holdsNothing = true ∧ w.toState.noClaimAwaiting = true then none else some y := by
  split
  · rename_i h
    rw [Work.testSessionEnd_ends hy he h.1 h.2]
  · rename_i h
    unfold Work.testSessionEnd
    rw [hy]
    dsimp only
    rw [if_neg (by simp only [he, Bool.and_eq_true]; tauto), hy]

end

/-- A state that keeps these blocks of another, but for the response to a command. -/
theorem State.eq_of_unlisted {a t : State} {r : Response} (hnow : t.now = a.now) (hio : t.io = a.io) (hpend : t.pending = a.pending)
    (hmc : t.mc = a.mc) (hbu : t.bu = a.bu) (hptu : t.ptu = a.ptu) (hae : t.ae = a.ae) :
    t.respond r = { a with
      map := t.map, lc := t.lc, hc := t.hc, ci := t.ci, ss := t.ss, bk := t.bk, cpi := (t.respond r).cpi } := by
  rw [← hnow, ← hio, ← hpend, ← hmc, ← hbu, ← hptu, ← hae]
  rfl

/-! ## The session ends -/

/-- The working state of a session that has become ENDING, before its holdings are given up (R125). -/
def Work.toEnding (w : Work) (why : EndReason) : Work :=
  (w.setSession fun x => { x with phase := .ending why w.toState.sessState }).derive

theorem Work.endSession_eq (w : Work) (why : EndReason) : w.endSession why =
    (((w.toEnding why).drainMine .shutdown fun _ => true).giveUpPending true w.toState.settling).removeQueuedClaim.removeQueuedRequest.endSweep :=
  rfl

section
variable {w : Work} (why : EndReason)

theorem Work.endSession_entry (hp : w.toState.pendingSettles) (q : Nat) :
    (w.endSession why).toState.entry q = w.toState.drainedFor .shutdown q := by
  rw [Work.endSession_eq, entry_eq_of_map _ _ Work.endQueued_map]
  exact Work.entry_drainAndGiveUp (w := w.toEnding why) hp .shutdown true q

theorem Work.endSession_lc : w.lc.sameBut (w.endSession why).lc := by
  rw [Work.endSession_eq]
  exact Link.sameBut_trans (((w.toEnding why).drainMine .shutdown fun _ => true).giveUpPending_lc true _) (Work.endQueued_lc _)

theorem Work.endSession_ss : (w.endSession why).ss = (w.toEnding why).ss := by
  rw [Work.endSession_eq]
  simp

theorem Work.toEnding_session {x : Session} (hx : w.ss.session = some x) :
    (w.toEnding why).ss.session = some { x with phase := .ending why w.toState.sessState } := by
  simp [Work.toEnding, Work.setSession, hx]

theorem Work.toEnding_ending {x : Session} (hx : w.ss.session = some x) :
    (w.toEnding why).toState.sessionEnding = true ∧ (w.toEnding why).toState.charging = false := by
  simp [State.sessionEnding, State.sessState, State.charging, Work.toEnding_session why hx, SessPhase.report]

end

/-- UNDOCK and ABORT SESSION are one command but for the end reason (R125). -/
theorem exec_leaveSession {c : Instr} (hc : c = .undock (.whole []) ∨ c = .abortSession (.whole [])) (s : State) :
    ∃ code, exec c s = .next (s.command code
      [badLength (.whole []) 0, s.notStarted, (s.ss.session.isNone, .state)]
      fun s => (s.leaveSession (if c = .undock (.whole []) then .undocked else .aborted), .accepted code [])) := by
  rcases hc with rfl | rfl
  · exact ⟨0x12, rfl⟩
  · exact ⟨0x13, rfl⟩

/-- The checks of the two commands pass where a session is there. -/
theorem leaveSession_taken {s : State} (h : s.started = true) {x : Session} (hx : s.ss.session = some x) :
    firstRefusal [badLength (.whole []) 0, s.notStarted, (s.ss.session.isNone, .state)] = none := by
  simp [badLength, State.notStarted, h, hx]

theorem State.sendValue_zero {s : State} (h : s.setpointFormed) (h0 : s.ci.pSet = 0) : s.ci.sendValue = 0 := by
  rw [h.2, h0]
  simp

/-- Settles O17: every holding is given up at once, and the end of the step finds the session ENDING. -/
theorem undockAndAbortDrainEveryHolding : Obligations.UndockAndAbortDrainEveryHolding := by
  refine ⟨fun c x s hc hst hx hcalm hps => ?_, fun c s hc hst he => ?_, fun c s hc hst hx => ?_⟩
  · obtain ⟨code, hexec⟩ := exec_leaveSession hc s
    generalize hwhy : (if c = .undock (.whole []) then EndReason.undocked else .aborted) = why at hexec ⊢
    obtain ⟨hi, hr, hse, hl⟩ := hcalm
    rw [hexec, command_taken _ _ _ _ (leaveSession_taken hst hx), State.leaveSession, if_neg (by simp [hse])]
    let y : Session := { x with phase := .ending why x.phase.report }
    have hentry := Work.endSession_entry (w := s.begin) why hps
    have hlc := Work.endSession_lc (w := s.begin) why
    have hss := Work.endSession_ss (w := s.begin) why
    have hy : (s.begin.toEnding why).ss.session = some y := by
      rw [Work.toEnding_session why (w := s.begin) hx]
      simp [y, State.sessState, hx]
    have hend := Work.toEnding_ending (w := s.begin) why hx
    have hnull : (s.begin.toEnding why).ss.bid = Bid.null := Work.derive_bidFollows _ hend.2
    obtain ⟨wnow, wio, wcpi, wmc, wbu, wptu, wae, wci, wbk, wpend, -, -, -, wconf, -⟩ := s.begin.endSession_keeps why
    have houter := finish_outer (s.begin.endSession why)
    have hform := finish_formed (s.begin.endSession why)
    rw [← hss] at hy hnull
    have hse' : (s.begin.endSession why).toState.sessionEnding = true := by
      rw [← hend.1]
      simp only [State.sessionEnding, State.sessState, hss]
    obtain ⟨hrest, hfin⟩ := Work.rests_testSessionEnd (w := s.begin.endSession why) (by rw [wci]; exact hl) wconf
      (by rw [wmc]; exact hi) (by rw [wmc]; exact hr)
    generalize s.begin.endSession why = w at *
    have hsess := Work.testSessionEnd_session hy hse'
    have hcharge : w.testSessionEnd.toState.charging = false := by
      unfold State.charging
      rw [hsess]
      by_cases hgone : w.toState.holdsNothing = true ∧ w.toState.noClaimAwaiting = true
      · rw [if_pos hgone]
      · rw [if_neg hgone]
        rfl
    have hbid : w.testSessionEnd.ss.bid = Bid.null :=
      Work.testSessionEnd_bidFollows (w := w) (fun _ => hnull) hcharge
    obtain ⟨unow, uio, ucpi, umc, ulc, ubu, umap, uptu, uae, uhc, uci, upend, -⟩ := w.testSessionEnd_keeps
    generalize w.testSessionEnd = u at *
    have hidle := Work.holdingsProgress_idle (w := u) (by simp [State.mayTake, hcharge])
    obtain ⟨fmc, fbu, fmap, fptu, fae, fss, flc, fhc, -⟩ := hrest.blocks
    rw [← hfin] at fmc fbu fmap fptu fae fss flc fhc
    rw [hidle.1, ulc] at flc
    rw [hidle.2, uhc] at fhc
    generalize w.finish = t at *
    have htentry : ∀ q, t.entry q = s.drainedFor .shutdown q := fun q => by
      rw [entry_eq_of_map _ _ (fmap.trans umap), hentry q]
      rfl
    have hpSet : t.ci.pSet = 0 := State.pSet_drained hform htentry
    obtain ⟨hnow, hio, hcpi, hpend⟩ := houter
    have hholds : t.holdsNothing = w.toState.holdsNothing := by
      simp only [State.holdsNothing, State.mineCount, State.pendingCount, State.drainingCount, fmap.trans umap]
    have hno : t.noClaimAwaiting = w.toState.noClaimAwaiting := by
      simp only [State.noClaimAwaiting, fhc]
    refine ⟨_, rfl, respond_answered s t _ (hnow.trans wnow) (hcpi.trans wcpi), fun q _ => htentry q, hpSet,
      State.sendValue_zero hform hpSet, by simp [fhc], ?_, by simpa [fss] using hbid, ?_, ?_, hform⟩
    · change t.ss.session = if t.holdsNothing = true ∧ t.noClaimAwaiting = true then none else some y
      rw [hholds, hno, fss, hsess]
    · exact State.eq_of_unlisted (hnow.trans wnow) (hio.trans wio) (hpend.trans wpend) (fmc.trans (umc.trans wmc))
        (fbu.trans (ubu.trans wbu)) (fptu.trans (uptu.trans wptu)) (fae.trans (uae.trans wae))
    · have : s.lc.sameBut t.lc := by rw [flc]; exact hlc
      exact this
  · obtain ⟨code, hexec⟩ := exec_leaveSession hc s
    have hx : ∃ x, s.ss.session = some x := by
      cases h : s.ss.session with
      | none => simp [State.sessionEnding, State.sessState, h] at he
      | some x => exact ⟨x, rfl⟩
    obtain ⟨x, hx⟩ := hx
    rw [hexec, command_taken _ _ _ _ (leaveSession_taken hst hx), State.leaveSession, if_pos he]
    exact ⟨_, rfl, rfl, respond_answered s s _ rfl rfl⟩
  · obtain ⟨code, hexec⟩ := exec_leaveSession hc s
    rw [hexec, command_refused _ _ _ _ .state (by simp [badLength, State.notStarted, hst, hx, firstRefusal])]
    exact ⟨_, rfl, rfl, respond_refused_answered s code .state⟩

end Sys2Proof.Machine
end

section
/-! SUPPORT. Frames that the queue loses (R30, R105), and the entry to OFFLINE. -/

namespace Sys2Proof.Machine

/-! ## What a lost frame takes with it -/

/-- The quanta that a RELEASE lists. -/
def Frame.releases : Frame → List Nat
  | .release _ qs => qs
  | _ => []

theorem Work.entry_lostFrame (w : Work) (f : Frame) (q : Nat) : (w.lostFrame f).toState.entry q =
    if q ∈ f.releases ∧ (w.toState.entry q).isDraining = true then w.toState.vacant q else w.toState.entry q := by
  cases f with
  | release b qs => exact Work.entry_freeLocally _ _ _
  | claim qs =>
    unfold Work.lostFrame
    dsimp only
    rw [if_neg (by simp [Frame.releases])]
    split <;> rfl
  | _ => exact (if_neg (by simp [Frame.releases])).symm

theorem Work.lostFrame_settling (w : Work) (f : Frame) : (w.lostFrame f).toState.settling = w.toState.settling := by
  cases f with
  | claim qs =>
    unfold Work.lostFrame
    dsimp only
    split
    · rename_i h
      rw [State.settling, State.settling, h]
      rfl
    · rfl
  | _ => rfl

section
variable (w : Work) (p : Frame → Bool)

theorem Work.loseFrames_over {P : Work → Prop} (h : ∀ (v : Work) (f : Frame), P v → P (v.lostFrame f))
    (hw : P { w with lc := w.lc.removeOffLine p }) : P (w.loseFrames p) :=
  foldl_induct P (fun (v : Work) (x : QFrame) => v.lostFrame x.frame) (fun v x hv => h v x.frame hv) _ _ hw

/-- One entry after frames have been lost: a Draining quantum of a lost RELEASE is freed (R30). -/
theorem Work.entry_loseFrames (q : Nat) : (w.loseFrames p).toState.entry q =
    if (∃ x ∈ w.lc.offLineFrames p, q ∈ x.frame.releases) ∧ (w.toState.entry q).isDraining = true then w.toState.vacant q
    else w.toState.entry q := by
  have hvac : (w.toState.vacant q).isDraining = false := by
    unfold State.vacant
    split <;> rfl
  suffices h : ∀ (l : List QFrame) (v : Work), v.bu = w.bu →
      (l.foldl (fun (v : Work) (x : QFrame) => v.lostFrame x.frame) v).toState.entry q =
        if (∃ x ∈ l, q ∈ x.frame.releases) ∧ (v.toState.entry q).isDraining = true then w.toState.vacant q
        else v.toState.entry q from
    h (w.lc.offLineFrames p) { w with lc := w.lc.removeOffLine p } rfl
  intro l
  induction l with
  | nil => simp
  | cons x l ih =>
    intro v hv
    have hvacant : v.toState.vacant q = w.toState.vacant q := by simp only [State.vacant, hv]
    rw [List.foldl_cons, ih _ (by simpa using hv), Work.entry_lostFrame, hvacant]
    by_cases hx : q ∈ x.frame.releases <;> by_cases hd : (v.toState.entry q).isDraining = true <;> simp [hx, hd, hvac]

theorem Work.loseFrames_settling : (w.loseFrames p).toState.settling = w.toState.settling :=
  w.loseFrames_over p (P := fun v => v.toState.settling = w.toState.settling)
    (fun v f hv => (v.lostFrame_settling f).trans hv) rfl

end

/-! ## The RELEASEs that wait -/

/-- A frame that is left stood in the queue before. -/
theorem Link.mem_of_removeOffLine {l : Link} {p : Frame → Bool} {x : QFrame}
    (h : x ∈ (l.removeOffLine p).queue ++ (l.removeOffLine p).waiting) : x ∈ l.queue ++ l.waiting := by
  have hin := (Link.promote_perm _).mem_iff.1 h
  exact (List.filter_sublist.append List.filter_sublist).subset hin

theorem mem_queuedReleases (l : Link) (q : Nat) : q ∈ l.queuedReleases ↔
    ∃ x ∈ l.queue ++ l.waiting, l.onLine x = false ∧ q ∈ x.frame.releases := by
  unfold Link.queuedReleases
  rw [List.mem_flatMap]
  refine ⟨fun ⟨x, hx, hq⟩ => ?_, fun ⟨x, hx, hon, hq⟩ => ⟨x, ?_, ?_⟩⟩
  · rw [Link.mem_offLineFrames] at hx
    refine ⟨x, hx.1, hx.2.1, ?_⟩
    cases hf : x.frame with
    | release b qs =>
      rw [hf] at hq
      exact hq
    | _ =>
      rw [hf] at hq
      cases hq
  · rw [Link.mem_offLineFrames]
    refine ⟨hx, hon, ?_⟩
    cases hf : x.frame with
    | release b qs => rfl
    | _ =>
      rw [hf] at hq
      cases hq
  · cases hf : x.frame with
    | release b qs =>
      rw [hf] at hq
      exact hq
    | _ =>
      rw [hf] at hq
      cases hq

/-! ## The queue emptied -/

section
variable (w : Work)

theorem Link.lastAttempt_onLine (l : Link) (x : QFrame) : l.lastAttempt.onLine x = l.onLine x := by
  unfold Link.onLine Link.lastAttempt
  cases l.attempt with
  | none => rfl
  | some a => cases a <;> rfl

/-- One entry after the queue has been emptied. -/
theorem Work.entry_emptyQueue (q : Nat) : w.emptyQueue.toState.entry q =
    if q ∈ w.lc.queuedReleases ∧ (w.toState.entry q).isDraining = true then w.toState.vacant q else w.toState.entry q := by
  have hiff : (∃ x ∈ w.lc.lastAttempt.offLineFrames fun _ => true, q ∈ x.frame.releases) ↔ q ∈ w.lc.queuedReleases := by
    rw [mem_queuedReleases]
    simp only [Link.mem_offLineFrames, Link.lastAttempt_onLine, and_true, and_assoc]
    rfl
  unfold Work.emptyQueue
  rw [Work.entry_loseFrames]
  exact if_congr (and_congr_left fun _ => hiff) rfl rfl

theorem Work.emptyQueue_settling : w.emptyQueue.toState.settling = w.toState.settling := Work.loseFrames_settling _ _

/-! ## OFFLINE -/

/-- The working state of the entry to OFFLINE, before the queue is emptied (R161). -/
def Work.toOffline (w : Work) : Work :=
  { w.setMode .offline with
    mc := { (w.setMode .offline).mc with
      listenAt := none, leaving := (w.setMode .offline).mc.leaving && (w.setMode .offline).mc.restarting }
    lc := { (w.setMode .offline).lc with muteAt := none, probeDue := false } }

theorem Work.enterOffline_eq : w.enterOffline = w.toOffline.emptyQueue.suspendCause .offline := rfl

theorem Work.toOffline_spec :
    w.toOffline.mc = { w.mc with
      mode := .offline, echoSince := none, errSince := false, listenAt := none, leaving := w.mc.leaving && w.mc.restarting } ∧
    w.toOffline.lc = { w.lc with tx := .off, muteAt := none, probeDue := false } ∧ w.toOffline.map = w.map ∧
    w.toOffline.hc = { w.hc with needOpen := w.hc.needOpen && !(w.mc.mode == .active) } ∧
    w.toOffline.ss = (w.setMode .offline).ss := by
  unfold Work.toOffline
  refine ⟨?_, ?_, ?_, ?_, ?_⟩
  · simp [Work.setMode_mc]
  · simp [Work.setMode_lc, txOf]
  · simp
  · simp [Work.setMode_hc, show (Mode.offline == Mode.active) = false from rfl]
  · simp

/-- One entry after the entry to OFFLINE (R105, R161). -/
theorem Work.entry_enterOffline (q : Nat) : w.enterOffline.toState.entry q =
    if q ∈ w.lc.queuedReleases ∧ (w.toState.entry q).isDraining = true then w.toState.vacant q else w.toState.entry q := by
  obtain ⟨-, hlc, hmap, -, -⟩ := w.toOffline_spec
  have hrel : q ∈ w.toOffline.lc.queuedReleases ↔ q ∈ w.lc.queuedReleases := by
    rw [mem_queuedReleases, mem_queuedReleases, hlc]
    rfl
  have hvacant : w.toOffline.toState.vacant q = w.toState.vacant q := by
    simp only [State.vacant, Work.toOffline, Work.setMode_keeps]
  have hsusp : (w.toOffline.emptyQueue.suspendCause .offline).map = w.toOffline.emptyQueue.map := by simp
  rw [Work.enterOffline_eq, entry_eq_of_map _ _ hsusp, Work.entry_emptyQueue, entry_eq_of_map _ w.toState hmap, hvacant]
  exact if_congr (and_congr_left fun _ => hrel) rfl rfl

theorem Work.enterOffline_mc : w.enterOffline.mc = { w.mc with
    mode := .offline, echoSince := none, errSince := false, listenAt := none, leaving := w.mc.leaving && w.mc.restarting } := by
  rw [Work.enterOffline_eq, ← w.toOffline_spec.1]
  simp

/-- The transmitter is off, and only a frame on the line stays (R161; log 26). -/
theorem Work.enterOffline_lc : w.enterOffline.lc.tx = .off ∧
    ∀ x ∈ w.enterOffline.lc.queue ++ w.enterOffline.lc.waiting, w.lc.onLine x = true ∧ x ∈ w.lc.queue ++ w.lc.waiting := by
  obtain ⟨-, hlc, -, -, -⟩ := w.toOffline_spec
  have h : w.enterOffline.lc = w.toOffline.lc.lastAttempt.removeOffLine fun _ => true := by
    rw [Work.enterOffline_eq, ← Work.emptyQueue_lc]
    simp
  have hframes : ∀ x ∈ w.enterOffline.lc.queue ++ w.enterOffline.lc.waiting,
      x ∈ w.lc.queue ++ w.lc.waiting := fun x hx => by
    rw [h] at hx
    have hin := Link.mem_of_removeOffLine hx
    rw [hlc] at hin
    exact hin
  refine ⟨by rw [h, hlc]; rfl, fun x hx => ⟨?_, hframes x hx⟩⟩
  rw [h] at hx
  have hon := Link.onLine_of_emptied hx
  rw [Link.lastAttempt_onLine, hlc] at hon
  exact hon

/-- A session that is SUSPENDED with reason OFFLINE stays so (R120). -/
theorem Work.enterOffline_suspended (hn : w.toState.bookingsNotify)
    (h : w.ss.session.map Session.phase = some (.suspended .offline)) :
    w.enterOffline.ss.session.map Session.phase = some (.suspended .offline) := by
  have hss : w.toOffline.emptyQueue.ss = w.ss := by
    obtain ⟨-, -, -, -, hset⟩ := w.toOffline_spec
    rw [← ((w.setMode_session .offline).2 hn).1, ← hset]
    simp
  rw [Work.enterOffline_eq]
  obtain ⟨x, hx, hp⟩ := Option.map_eq_some_iff.1 h
  unfold Work.suspendCause
  rw [hss, hx]
  simp [Session.suspendFor, hp]

end

end Sys2Proof.Machine
end

section
/-! SUPPORT. ISOLATE and the OFFLINE input (O21): the isolate drain, and its end in the same step. -/

namespace Sys2Proof.Machine

theorem sessionEnding_congr {s t : State} (h : t.ss = s.ss) : t.sessionEnding = s.sessionEnding := by
  simp only [State.sessionEnding, State.sessState, h]

/-! ## The test of the drain -/

section
variable {w : Work} (hd : w.toState.draining = true) (hl : w.mc.leaving = false)
include hd hl

theorem Work.testDrainDone_undone (hdone : w.toState.drainIsDone = false) : w.testDrainDone = w := by
  unfold Work.testDrainDone
  rw [if_neg (by simp [hd])]
  simp [hdone, hl]

/-- With the transmitter in probe or off an isolate drain that is done ends in OFFLINE at once (R161). -/
theorem Work.testDrainDone_offline (hdone : w.toState.drainIsDone = true) (hr : w.mc.restarting = false) (htx : w.lc.tx ≠ .on) :
    w.testDrainDone = ({ w with mc := { w.mc with leaving := false } } : Work).enterOffline := by
  unfold Work.testDrainDone
  rw [if_neg (by simp [hd])]
  simp [hl, hdone, htx, Work.concludeDrain, hr]

/-- What the test of an isolate drain can come to (R161). -/
theorem Work.testDrainDone_cases (hr : w.mc.restarting = false) :
    w.testDrainDone = w ∨ w.testDrainDone = { w with lc := w.lc.place .leave, mc := { w.mc with leaving := true } } ∨
    w.toState.drainIsDone = true ∧
      ∃ l, w.testDrainDone = ({ w with lc := l, mc := { w.mc with leaving := false } } : Work).enterOffline := by
  cases hdone : w.toState.drainIsDone with
  | false => exact .inl (Work.testDrainDone_undone hd hl hdone)
  | true =>
    by_cases htx : w.lc.tx = .on
    · unfold Work.testDrainDone
      rw [if_neg (by simp [hd])]
      simp only [hl, hdone, htx, Work.enqueue_leave, Work.concludeDrain, hr]
      by_cases hq : (w.lc.place .leave).leaveQueued = true ∧
          (!((w.lc.place .leave).tx == .on) && !(w.lc.place .leave).leaveOnLine) = false
      · exact .inr (.inl (by simp [hq.1, hq.2]))
      · refine .inr (.inr ⟨trivial, w.lc.place .leave, ?_⟩)
        rw [not_and, Bool.not_eq_false] at hq
        by_cases hleave : (w.lc.place .leave).leaveQueued = true
        · simp [hleave, hq hleave]
        · simp [hleave]
    · exact .inr (.inr ⟨rfl, w.lc, Work.testDrainDone_offline hd hl hdone hr htx⟩)

end

/-! ## The isolate drain -/

/-- The working state of a step that sets the isolate request (R161). -/
def State.isolateWork (s : State) : Work := { s.begin with mc := { s.mc with isolateReq := true } }

theorem requestIsolation_working {s : State} (h : s.working = true) : s.begin.requestIsolation = s.isolateWork.beginDrain :=
  if_pos h

theorem requestIsolation_idle {s : State} (h : s.working = false) :
    s.begin.requestIsolation = s.isolateWork.suspendCause .offline := if_neg fun hw => Bool.noConfusion (h.symm.trans hw)

section
variable {s : State} (hw : s.working = true) (hr : s.mc.restarting = false) (hl : s.mc.leaving = false)
  (he : s.sessionEnding = false) (hc : ¬(s.ci.conv = .lost ∧ s.ci.lostQuiesce = .expired)) (hp : s.pendingSettles)

/-- What the isolate drain is, before its end is tested. -/
structure State.IsolateDrain (s : State) (w : Work) : Prop where
  outer : w.now = s.now ∧ w.io = s.io ∧ w.cpi = s.cpi ∧ w.pending = s.pending
  elsewhere : w.bu = s.bu ∧ w.ptu = s.ptu ∧ w.ae = s.ae ∧ w.ci = s.ci ∧ w.bk = s.bk
  mc : w.mc = { s.mc with isolateReq := true }
  lc : s.lc.sameBut w.lc
  entry : ∀ q, w.toState.entry q = s.drainedFor .shutdown q
  ending : w.toState.sessionEnding = false
  phase : s.charging = true → w.ss.session.map Session.phase = some (.suspended .offline)
  claimed : s.hc.claim = none → w.toState.noClaimAwaiting = true
  conflictLost : w.conflictLost = []

include he hp in
theorem State.isolateDrain : s.IsolateDrain s.isolateWork.beginDrain := by
  have hentry := Work.beginDrain_entry (w := s.isolateWork) hp
  have hlc := s.isolateWork.beginDrain_lc
  have hss := s.isolateWork.beginDrain_ss
  have hno := fun h => Work.beginDrain_noClaimAwaiting (w := s.isolateWork) h
  obtain ⟨know, kio, kcpi, kmc, kbu, kptu, kae, kci, kbk, kpend, -, -, -, klost, -⟩ := s.isolateWork.beginDrain_keeps
  refine ⟨⟨know, kio, kcpi, kpend⟩, ⟨kbu, kptu, kae, kci, kbk⟩, kmc, hlc, hentry, ?_, fun h => ?_, fun h => hno ?_, klost⟩
  · rw [sessionEnding_congr (s := (s.isolateWork.suspendCause .offline).toState) hss, Work.suspendCause_sessionEnding]
    exact he
  · rw [hss]
    exact Work.suspendCause_charging (w := s.isolateWork) h _
  · change s.noClaimAwaiting = true
    simp [State.noClaimAwaiting, h]

/-- Room for the LEAVE stays where there was room, and nothing is Pending. -/
theorem State.isolateDrain_room (hclaim : s.hc.claim = none) (hq : s.lc.queue.length < 8) (hwait : s.lc.waiting = []) :
    s.isolateWork.beginDrain.lc.roomFor 1 := by
  have hset : s.isolateWork.drainAll.toState.settling = [] := by
    rw [State.settling, Work.drainAll_claim]
    simp [State.isolateWork, hclaim]
  have hgive : ∀ (v : Work) (b : Bool), v.giveUpPending b [] = v := fun v b => by
    cases b <;> rfl
  rw [Work.beginDrain_eq, hset, hgive]
  refine Work.roomFor_endQueued ?_
  have hlc : s.isolateWork.drainAll.lc = s.lc := by simp [Work.drainAll, State.isolateWork]
  rw [hlc]
  exact ⟨hq, hwait⟩

/-- The drain of an isolate request after its end has been tested. -/
structure State.IsolateTested (s : State) (w v : Work) : Prop where
  outer : v.now = s.now ∧ v.io = s.io ∧ v.cpi = s.cpi ∧ v.pending = s.pending
  elsewhere : v.bu = s.bu ∧ v.ptu = s.ptu ∧ v.ae = s.ae
  isolateReq : v.mc.isolateReq = true
  entry : ∀ q, v.toState.entry q = w.toState.entry q
  ending : v.toState.sessionEnding = false
  phase : s.charging = true → s.bookingsNotify → v.ss.session.map Session.phase = some (.suspended .offline)

theorem Work.enterOffline_sessionEnding (w : Work) : w.enterOffline.toState.sessionEnding = w.toState.sessionEnding := by
  have hss : w.toOffline.emptyQueue.ss = (w.setMode .offline).ss := by
    obtain ⟨-, -, -, -, hset⟩ := w.toOffline_spec
    rw [← hset]
    simp
  rw [Work.enterOffline_eq, Work.suspendCause_sessionEnding, sessionEnding_congr hss, w.setMode_sessionEnding]

include hw hr hl in
theorem State.IsolateDrain.tested {w : Work} (h : s.IsolateDrain w) : s.IsolateTested w w.testDrainDone := by
  obtain ⟨⟨hnow, hio, hcpi, hpend⟩, ⟨hbu, hptu, hae, -, hbk⟩, hmc, -, -, hend, hphase, -, -⟩ := h
  have hd : w.toState.draining = true := by
    have : w.toState.working = true := by
      rw [State.working, hmc]
      exact hw
    simp [State.draining, this, hmc]
  rcases Work.testDrainDone_cases hd (by rw [hmc]; exact hl) (by rw [hmc]; exact hr) with hv | hv | ⟨hdone, l, hv⟩
  · rw [hv]
    exact ⟨⟨hnow, hio, hcpi, hpend⟩, ⟨hbu, hptu, hae⟩, by rw [hmc], fun q => rfl, hend, fun h _ => hphase h⟩
  · rw [hv]
    exact ⟨⟨hnow, hio, hcpi, hpend⟩, ⟨hbu, hptu, hae⟩, by rw [hmc], fun q => rfl, hend, fun h _ => hphase h⟩
  · have hnone := (State.holdsNothing_iff _).1 (Bool.and_eq_true _ _ ▸ hdone : _ ∧ _).1
    rw [hv]
    generalize hu : ({ w with lc := l, mc := { w.mc with leaving := false } } : Work) = u
    obtain ⟨una, uio, ucpi, ubu, uptu, uae, -, upend, -⟩ := u.enterOffline_keeps
    have hentry : ∀ q, u.toState.entry q = w.toState.entry q := fun q => by rw [← hu]; rfl
    refine ⟨⟨una.trans ?_, uio.trans ?_, ucpi.trans ?_, upend.trans ?_⟩, ⟨ubu.trans ?_, uptu.trans ?_, uae.trans ?_⟩, ?_,
      fun q => ?_, ?_, fun h hn => ?_⟩
    · rw [← hu]; exact hnow
    · rw [← hu]; exact hio
    · rw [← hu]; exact hcpi
    · rw [← hu]; exact hpend
    · rw [← hu]; exact hbu
    · rw [← hu]; exact hptu
    · rw [← hu]; exact hae
    · rw [Work.enterOffline_mc, ← hu, hmc]
    · rw [Work.entry_enterOffline, hentry, if_neg fun h => Bool.noConfusion ((hnone q).2.2.symm.trans h.2)]
    · rw [Work.enterOffline_sessionEnding, ← hu]
      exact hend
    · refine u.enterOffline_suspended (State.bookingsNotify_congr ?_ hn) ?_
      · rw [← hu]; exact hbk
      · rw [← hu]; exact hphase h

include hw hr hl hc in
/-- The step that sets the isolate request ends as the drain stands after its test. -/
theorem State.IsolateDrain.finish {w : Work} (h : s.IsolateDrain w) {t : State} (ht : w.finish = t) :
    (t.now = s.now ∧ t.io = s.io ∧ t.cpi = s.cpi ∧ t.pending = s.pending) ∧ (t.bu = s.bu ∧ t.ptu = s.ptu ∧ t.ae = s.ae) ∧
    t.mc = w.testDrainDone.mc ∧ t.lc = w.testDrainDone.lc ∧ t.mc.isolateReq = true ∧
    (∀ q, t.entry q = s.drainedFor .shutdown q) ∧
    (s.charging = true → s.bookingsNotify → t.ss.session.map Session.phase = some (.suspended .offline)) := by
  have htest := h.tested hw hr hl
  have hidle : w.lostCompletes.handConflict = w := by
    have hlost : w.lostCompletes = w := if_neg (by rw [h.elsewhere.2.2.2.1]; exact hc)
    rw [hlost, Work.handConflict, h.conflictLost]
  have hsettle : w.testDrainDone.holdingsProgress.formAndSend.flushNotices.toState = t := by
    rw [← ht, Work.finish, Work.settle, hidle, w.testSessionEnd_calm h.ending, Work.testSessionEnd_calm _ htest.ending]
  obtain ⟨outer, tmc, tlc, tmap, tbu, tptu, tae, tss⟩ := Work.wrapUp_idle
    (by simp [State.mayTake, State.withdrawing, htest.isolateReq]) hsettle
  obtain ⟨⟨vnow, vio, vcpi, vpend⟩, ⟨vbu, vptu, vae⟩, viso, ventry, -, vphase⟩ := htest
  obtain ⟨onow, oio, ocpi, opend⟩ := outer
  refine ⟨⟨onow.trans vnow, oio.trans vio, ocpi.trans vcpi, opend.trans vpend⟩,
    ⟨tbu.trans vbu, tptu.trans vptu, tae.trans vae⟩, tmc, tlc, by rw [tmc, viso], fun q => ?_, fun h1 h2 => ?_⟩
  · rw [entry_eq_of_map _ _ tmap, ventry, h.entry]
  · rw [tss]
    exact vphase h1 h2

end

/-! ## The two commands -/

/-- What the step that sets the isolate request brings about in ACTIVE, ISOLATED and MUTED (R161). -/
structure State.Isolated (s t : State) : Prop where
  outer : t.now = s.now ∧ t.io = s.io ∧ t.cpi = s.cpi ∧ t.pending = s.pending
  elsewhere : t.bu = s.bu ∧ t.ptu = s.ptu ∧ t.ae = s.ae
  isolateReq : t.mc.isolateReq = true
  entry : ∀ q, t.entry q = s.drainedFor .shutdown q
  phase : s.charging = true → s.bookingsNotify → t.ss.session.map Session.phase = some (.suspended .offline)
  leaves : s.holdsNothing = true → s.hc.claim = none → s.lc.tx = .on → s.lc.queue.length < 8 → s.lc.waiting = [] →
    t.queues (fun f => f == .leave) ∧ t.mc.mode = s.mc.mode
  offline : s.holdsNothing = true → s.hc.claim = none → s.lc.tx ≠ .on → t.mc.mode = .offline
  formed : t.setpointFormed

/-- An isolate drain with nothing to drain is done at once. -/
theorem State.IsolateDrain.done {s : State} {w : Work} (h : s.IsolateDrain w) (hn : s.holdsNothing = true)
    (hc : s.hc.claim = none) : w.toState.drainIsDone = true := by
  have hholds : w.toState.holdsNothing = true := by
    refine (State.holdsNothing_iff _).2 fun q => ?_
    have hq := (State.holdsNothing_iff s).1 hn q
    have hsame : w.toState.entry q = s.entry q := by
      rw [h.entry, State.drainedFor]
      split
      · rename_i he
        exact absurd he hq.1
      · rename_i he
        exact absurd he hq.2.1
      · rfl
    rw [hsame]
    exact hq
  rw [State.drainIsDone, hholds, h.claimed hc]
  rfl

theorem State.isolated {s : State} (hw : s.working = true) (hr : s.mc.restarting = false) (hl : s.mc.leaving = false)
    (he : s.sessionEnding = false) (hc : ¬(s.ci.conv = .lost ∧ s.ci.lostQuiesce = .expired)) (hp : s.pendingSettles) :
    s.Isolated s.begin.requestIsolation.finish := by
  rw [requestIsolation_working hw]
  have hdrain := State.isolateDrain he hp
  have hroom := State.isolateDrain_room (s := s)
  have hform := finish_formed s.isolateWork.beginDrain
  generalize s.isolateWork.beginDrain = w at hdrain hroom hform ⊢
  obtain ⟨outer, elsewhere, tmc, tlc, tiso, tentry, tphase⟩ := hdrain.finish hw hr hl hc rfl
  have hdr : w.toState.draining = true := by
    have : w.toState.working = true := by
      rw [State.working, hdrain.mc]
      exact hw
    simp [State.draining, this, hdrain.mc]
  have hlv : w.mc.leaving = false := by rw [hdrain.mc]; exact hl
  have htx : w.lc.tx = s.lc.tx := by rw [hdrain.lc]
  refine ⟨outer, elsewhere, tiso, tentry, tphase, fun h1 h2 h3 h4 h5 => ?_, fun h1 h2 h3 => ?_, hform⟩
  · rw [queues_iff, tlc, tmc,
      Work.testDrainDone_leaves hdr hlv (hdrain.done h1 h2) (htx.trans h3) (hroom h2 h4 h5)]
    exact ⟨⟨_, List.mem_append_left _ (w.lc.place_mem .leave (hroom h2 h4 h5).1), rfl⟩, by rw [hdrain.mc]⟩
  · rw [tmc, Work.testDrainDone_offline hdr hlv (hdrain.done h1 h2) (by rw [hdrain.mc]; exact hr) (by rw [htx]; exact h3),
      Work.enterOffline_mc]

theorem exec_isolate {s : State} (h : s.started = true) : exec (.isolate (.whole [])) s =
    .next ((if s.mc.mode = .offline ∨ s.mc.isolateReq = true then s else s.begin.requestIsolation.finish).respond
      (.accepted 0x21 [])) := by
  have hr : firstRefusal [badLength (.whole []) 0, s.notStarted] = none := by simp [badLength, State.notStarted, h]
  simp only [exec, execIsolate, command_taken _ _ _ _ hr, goOn_eq]

theorem State.working_started {s : State} (h : s.working = true) : s.started = true ∧ s.mc.mode ≠ .offline := by
  unfold State.working at h
  unfold State.started
  cases hm : s.mc.mode <;> simp_all

/-- A CHARGING session alone takes the reason OFFLINE (R120). -/
theorem Work.suspendCause_offline_phase (w : Work) : (w.suspendCause .offline).ss.session.map Session.phase =
    w.ss.session.map fun x => if x.phase = .charging then .suspended .offline else x.phase := by
  unfold Work.suspendCause
  cases hs : w.ss.session with
  | none => simp [hs]
  | some x =>
    simp only [Work.derive_ss, Option.map_some]
    unfold Session.suspendFor
    cases hp : x.phase <;> simp [hp]

/-- In LISTENING and TRIPPED the request is set, and a CHARGING session is suspended (R120, R161; log 37). -/
theorem isolate_idle {s : State} (hm : s.mc.mode = .listening ∨ s.mc.mode = .tripped) (hcalm : s.calm) :
    ∃ t, exec (.isolate (.whole [])) s = .next t ∧ t.answered s .accepted none [] ∧
      State.endOf { s with cpi := t.cpi, mc := { s.mc with isolateReq := true }, ss := t.ss } t ∧
      (t.ss.session.map Session.phase = s.ss.session.map fun x => if x.phase = .charging then
        .suspended .offline else x.phase) := by
  obtain ⟨hi, hr, he, hlost⟩ := hcalm
  have hst : s.started = true ∧ ¬(s.mc.mode = .offline ∨ s.mc.isolateReq = true) ∧ s.working = false := by
    rcases hm with h | h <;> simp [State.started, State.working, h, hi]
  rw [exec_isolate hst.1, if_neg hst.2.1, requestIsolation_idle hst.2.2]
  have hkeep := s.isolateWork.suspendCause_keeps .offline
  have hend : (s.isolateWork.suspendCause .offline).toState.sessionEnding = false :=
    (s.isolateWork.suspendCause_sessionEnding .offline).trans he
  have hphase : (s.isolateWork.suspendCause .offline).ss.session.map Session.phase =
      s.ss.session.map fun x => if x.phase = .charging then .suspended .offline else x.phase :=
    s.isolateWork.suspendCause_offline_phase
  generalize s.isolateWork.suspendCause .offline = w at *
  obtain ⟨wnow, wio, wcpi, wmc, wlc, wbu, wmap, wptu, wae, whc, wci, wbk, wpend, -, wsys, wfir, -, wlostc, -, -⟩ := hkeep
  have hrest : w.rests := by
    refine Work.rests_of_idle (if_neg (by rw [wci]; exact hlost)) wlostc hend ?_
    have hwork : w.toState.working = false := by
      rw [State.working, wmc]
      exact hst.2.2
    have hres : w.mc.restarting = false := by rw [wmc]; exact hr
    simp [State.draining, hwork, hres]
  have hw : w.toState = { s with mc := { s.mc with isolateReq := true }, ss := w.ss } := by
    rw [← show w.now = s.now from wnow, ← show w.io = s.io from wio, ← show w.cpi = s.cpi from wcpi,
      ← show w.mc = { s.mc with isolateReq := true } from wmc, ← show w.lc = s.lc from wlc, ← show w.bu = s.bu from wbu,
      ← show w.map = s.map from wmap, ← show w.ptu = s.ptu from wptu, ← show w.ae = s.ae from wae,
      ← show w.hc = s.hc from whc, ← show w.ci = s.ci from wci, ← show w.bk = s.bk from wbk,
      ← show w.pending = s.pending from wpend]
  have hof := hrest.endOf wsys wfir
  obtain ⟨-, -, -, -, -, tss, -, -, -⟩ := hrest.blocks
  obtain ⟨tnow, -, tcpi, -⟩ := finish_outer w
  generalize w.finish = t at *
  refine ⟨_, rfl, respond_answered s t _ (tnow.trans wnow) (tcpi.trans wcpi), ?_, by rw [← hphase, ← tss]; rfl⟩
  have := State.endOf_respond hof (.accepted 0x21 [])
  rw [hw, ← tss] at this
  exact this

/-- Settles O21: the drain is begun and tested in one step, in whatever state its test leaves it. -/
theorem isolateBeginsTheIsolateDrain : Obligations.IsolateBeginsTheIsolateDrain := by
  refine ⟨fun c s hc hw hi hr hl he hlost hp => ?_, fun s hm hcalm => isolate_idle hm hcalm, fun s hst h => ?_, fun s h => ?_⟩
  · obtain ⟨hst, hnoff⟩ := State.working_started hw
    rcases hc with rfl | rfl
    · have hiso := State.isolated hw hr hl he hlost hp
      rw [exec_isolate hst, if_neg (by simp [hnoff, hi])]
      generalize s.begin.requestIsolation.finish = t at hiso
      obtain ⟨⟨tnow, tio, tcpi, tpend⟩, ⟨tbu, tptu, tae⟩, hreq, hentry, hphase, hleave, hoff, hform⟩ := hiso
      have hpSet := State.pSet_drained hform hentry
      refine ⟨_, rfl, fun _ => respond_answered s t _ tnow tcpi, (by simp), hreq, fun q _ => hentry q, hpSet,
        State.sendValue_zero hform hpSet, hphase, hleave, hoff, ?_, hform⟩
      rw [← tnow, ← tpend, ← tbu, ← tptu, ← tae]
      rfl
    · let s' : State := { s with io := { s.io with offline := true } }
      have hiso := State.isolated (s := s') hw hr hl he hlost hp
      have hexec : exec .offlineAsserted s = .next s'.begin.requestIsolation.finish :=
        if_pos (by rw [show s'.working = true from hw, show s'.mc.isolateReq = false from hi]; rfl)
      rw [hexec]
      generalize s'.begin.requestIsolation.finish = t at hiso
      obtain ⟨⟨tnow, tio, tcpi, tpend⟩, ⟨tbu, tptu, tae⟩, hreq, hentry, hphase, hleave, hoff, hform⟩ := hiso
      have hpSet := State.pSet_drained hform hentry
      refine ⟨_, rfl, (by simp), fun _ => ⟨tcpi, by rw [tio]⟩, hreq, fun q _ => hentry q, hpSet,
        State.sendValue_zero hform hpSet, hphase, hleave, hoff, ?_, hform⟩
      rw [← show t.now = s.now from tnow, ← show t.pending = s.pending from tpend, ← show t.bu = s.bu from tbu,
        ← show t.ptu = s.ptu from tptu, ← show t.ae = s.ae from tae]
  · rw [exec_isolate hst, if_pos h]
    exact ⟨_, rfl, rfl, respond_answered s s _ rfl rfl⟩
  · refine ⟨_, if_neg ?_, rfl⟩
    rcases h with h | h
    · exact fun hw => by simp [State.working] at h hw; simp [h] at hw
    · exact fun hw => by simp [h] at hw

end Sys2Proof.Machine
end

section
/-! SUPPORT. A duplicate frame (O32): what the station gives up as it leaves the row. -/

namespace Sys2Proof.Machine

/-! ## The entry to OFFLINE with nothing left to lose -/

theorem Work.loseFrames_of_none {w : Work} {p : Frame → Bool} (h : w.lc.offLineFrames p = []) :
    w.loseFrames p = { w with lc := w.lc.removeOffLine p } := by
  unfold Work.loseFrames
  rw [h]
  rfl

/-- With only a frame on the line left, the entry to OFFLINE touches the Holdings Controller in need open alone. -/
theorem Work.enterOffline_hc {w : Work} (h : ∀ x ∈ w.lc.queue ++ w.lc.waiting, w.lc.onLine x = true) :
    w.enterOffline.hc = { w.hc with needOpen := w.hc.needOpen && !(w.mc.mode == .active) } := by
  obtain ⟨-, hlc, -, hhc, -⟩ := w.toOffline_spec
  have hnone : ({ w.toOffline with lc := w.toOffline.lc.lastAttempt } : Work).lc.offLineFrames (fun _ => true) = [] := by
    refine List.eq_nil_iff_forall_not_mem.2 fun x hx => ?_
    rw [Link.mem_offLineFrames] at hx
    obtain ⟨hin, hoff, -⟩ := hx
    dsimp only at hin hoff
    rw [Link.lastAttempt_onLine, hlc] at hoff
    rw [hlc] at hin
    exact Bool.noConfusion (hoff.symm.trans (h x hin))
  have hempty : w.toOffline.emptyQueue.hc = w.toOffline.hc := by
    unfold Work.emptyQueue
    rw [Work.loseFrames_of_none hnone]
  rw [Work.enterOffline_eq, ← hhc, ← hempty]
  simp

theorem Work.enterOffline_charging {w : Work} (hn : w.toState.bookingsNotify) (hc : w.toState.charging = true) :
    w.enterOffline.ss.session.map Session.phase = some (.suspended .offline) := by
  have hss : w.toOffline.emptyQueue.ss = w.ss := by
    obtain ⟨-, -, -, -, hset⟩ := w.toOffline_spec
    rw [← ((w.setMode_session .offline).2 hn).1, ← hset]
    simp
  rw [Work.enterOffline_eq]
  refine Work.suspendCause_charging ?_ _
  unfold State.charging at hc ⊢
  rw [hss]
  exact hc

theorem Work.setMode_notices (w : Work) (m : Mode) : (w.setMode m).bk.notices = w.bk.notices := by
  unfold Work.setMode Work.handMode
  rw [Work.hand_notices]

theorem Work.enterOffline_notices (w : Work) : w.enterOffline.bk.notices = w.bk.notices := by
  have h : (w.toOffline.emptyQueue.suspendCause .offline).bk = w.toOffline.bk := by simp
  have hset : w.toOffline.bk = (w.setMode .offline).bk := by simp [Work.toOffline]
  rw [Work.enterOffline_eq, h, hset, w.setMode_notices]

/-! ## What is given up -/

/-- The holdings given up at the first duplicate, before the marks are dropped (R28, R59). -/
def Work.withdrawHoldings (w : Work) : Work :=
  ((w.emptyQueue.drainMine .shutdown fun _ => true).giveUpPending false w.emptyQueue.toState.settling).endSweep

/-- The station about to leave the row (R59). -/
def Work.withdrawn (w : Work) : Work :=
  ({ w.withdrawHoldings with hc := { w.withdrawHoldings.hc with request := none, promises := [] } } : Work).mapAll dropMark

/-- The fault cause is set, and its notice is to be posted (R58). -/
def Work.noteDuplicate (w : Work) (k : FrameKind) : Work :=
  ({ w with mc := { w.mc with duplicate := true } } : Work).notice .duplicateStation (kindChar k)

theorem Work.hearDuplicate_first {w : Work} (h : w.mc.duplicate = false) (k : FrameKind) : w.hearDuplicate k =
    if (w.mc.mode == .listening) = true then (w.noteDuplicate k).withdrawn.enterOffline.startEpoch
    else (w.noteDuplicate k).withdrawn.enterOffline :=
  if_neg (by simp [h])

/-- The working state of the first duplicate. -/
def State.duplicateWork (s : State) (k : FrameKind) : Work := ({ s.begin with lc := s.lc.validFrame } : Work).noteDuplicate k

theorem exec_duplicateFrame {s : State} {k : FrameKind} (ht : s.takesFrames = true) (hd : s.mc.duplicate = false) :
    exec (.duplicateFrame k) s = .next
      (if (s.mc.mode == .listening) = true then (s.duplicateWork k).withdrawn.enterOffline.startEpoch
        else (s.duplicateWork k).withdrawn.enterOffline).finish := by
  have hst : s.started = true := (Bool.and_eq_true _ _ ▸ ht : _ ∧ _).1
  have htakes : ({ s.begin with lc := s.lc.validFrame } : Work).toState.takesFrames = true := ht
  have hexec : exec (.duplicateFrame k) s =
      .next (Work.hearDuplicate { s.begin with lc := s.lc.validFrame } k).finish := by
    simp only [exec, execDuplicateFrame, goOn_eq]
    rw [if_neg (by simp [hst]), if_pos htakes]
  rw [hexec, Work.hearDuplicate_first (w := { s.begin with lc := s.lc.validFrame }) hd]
  rfl

section
variable {w : Work}

theorem Work.withdrawn_keeps :
    (w.withdrawn.now = w.now ∧ w.withdrawn.io = w.io ∧ w.withdrawn.cpi = w.cpi ∧ w.withdrawn.pending = w.pending) ∧
    w.withdrawn.mc = w.mc ∧ w.withdrawn.bu = w.bu ∧ w.withdrawn.ptu = w.ptu ∧ w.withdrawn.ss = w.ss ∧ w.withdrawn.ci = w.ci ∧
    w.withdrawn.bk = w.bk ∧ w.withdrawn.sysNotices = w.sysNotices ∧ w.withdrawn.conflictLost = w.conflictLost := by
  simp [Work.withdrawn, Work.withdrawHoldings]

theorem Work.withdrawn_hc : w.withdrawn.hc.request = none ∧ w.withdrawn.hc.promises = [] ∧ w.withdrawn.hc.sweep = none :=
  ⟨rfl, rfl, rfl⟩

/-- Only a frame on the line is left in the queue (R59). -/
theorem Work.withdrawn_lc : ∀ x ∈ w.withdrawn.lc.queue ++ w.withdrawn.lc.waiting,
    w.withdrawn.lc.onLine x = true ∧ w.lc.onLine x = true := by
  have hgive : ∀ (w : Work) (qs : List Nat), (w.giveUpPending false qs).lc = w.lc := fun w qs =>
    giveUp_fold_keeps (fun w : Work => w.lc) (by simp) _ _ _
  have hlc : w.withdrawn.lc = w.lc.lastAttempt.removeOffLine fun _ => true := by
    have hout : w.withdrawn.lc = ((w.emptyQueue.drainMine .shutdown fun _ => true).giveUpPending false
      w.emptyQueue.toState.settling).lc := by simp [Work.withdrawn, Work.withdrawHoldings]
    rw [hout, hgive, ← Work.emptyQueue_lc]
    simp
  intro x hx
  rw [hlc] at hx ⊢
  have hon := Link.onLine_of_emptied hx
  exact ⟨hon, (Link.lastAttempt_onLine _ _).symm.trans hon⟩

theorem pendingSettles_emptyQueue (hp : w.toState.pendingSettles) : w.emptyQueue.toState.pendingSettles := by
  rw [State.pendingSettles, w.emptyQueue_settling]
  refine ⟨hp.1, fun q => ?_⟩
  rw [Work.entry_emptyQueue]
  split
  · rename_i h
    have hne : w.toState.entry q ≠ .pending := fun he => by simp [he, QEntry.isDraining] at h
    exact ⟨fun he => absurd he (w.toState.vacant_ne_pending q), fun hq => absurd ((hp.2 q).2 hq) hne⟩
  · exact hp.2 q

/-- One entry of a station that has left the row (R28, R30, R40, R59). -/
theorem Work.entry_withdrawn (hp : w.toState.pendingSettles) (q : Nat) : w.withdrawn.toState.entry q =
    if q ∈ w.lc.queuedReleases ∧ (w.toState.entry q).isDraining = true then w.toState.vacant q
    else dropMark q (w.toState.drainedFor .shutdown q) := by
  have hdrain : w.withdrawHoldings.toState.entry q = w.emptyQueue.toState.drainedFor .shutdown q :=
    Work.entry_drainAndGiveUp (pendingSettles_emptyQueue hp) .shutdown false q
  have hvacant : w.emptyQueue.toState.vacant q = w.toState.vacant q := by
    simp only [State.vacant, Work.emptyQueue_keeps]
  have hmark : w.withdrawn.toState.entry q = dropMark q (w.withdrawHoldings.toState.entry q) := by
    by_cases hq : q < w.withdrawHoldings.map.length
    · exact Work.entry_mapAll _ _ _ hq
    · rw [entry_ge w.withdrawHoldings.toState q (Nat.le_of_not_lt hq)]
      exact Work.entry_mapAll_ge _ _ _ (Nat.le_of_not_lt hq)
  rw [hmark, hdrain]
  unfold State.drainedFor
  rw [Work.entry_emptyQueue, hvacant]
  by_cases h : q ∈ w.lc.queuedReleases ∧ (w.toState.entry q).isDraining = true
  · rw [if_pos h, if_pos h]
    unfold State.vacant
    by_cases hb : q < w.bu.bEff
    · rw [if_pos hb]
      rfl
    · rw [if_neg hb]
      rfl
  · rw [if_neg h, if_neg h]

end

/-! ## The end of the step -/

/-- What the first duplicate brings about, before the end of its step. -/
structure State.OutOfTheRow (s : State) (k : FrameKind) (w : Work) : Prop where
  outer : w.now = s.now ∧ w.io = s.io ∧ w.cpi = s.cpi ∧ w.pending = s.pending
  elsewhere : w.bu = s.bu ∧ w.ptu = s.ptu ∧ w.ci = s.ci
  duplicate : w.mc.duplicate = true
  mode : w.mc.mode = .offline
  restarting : w.mc.restarting = s.mc.restarting
  tx : w.lc.tx = .off
  frames : ∀ f ∈ w.lc.queue ++ w.lc.waiting, s.lc.onLine f = true
  entry : ∀ q, w.toState.entry q =
    if q ∈ s.lc.queuedReleases ∧ (s.entry q).isDraining = true then s.vacant q else dropMark q (s.drainedFor .shutdown q)
  hc : w.hc.request = none ∧ w.hc.promises = []
  phase : s.charging = true → s.bookingsNotify → w.ss.session.map Session.phase = some (.suspended .offline)
  ending : w.toState.sessionEnding = s.sessionEnding
  notices : w.bk.notices = s.bk.notices
  sysNotices : w.sysNotices = [(.duplicateStation, kindChar k, [0, 0, 0])]
  conflictLost : w.conflictLost = []

theorem State.outOfTheRow {s : State} (hp : s.pendingSettles) (k : FrameKind) :
    s.OutOfTheRow k (s.duplicateWork k).withdrawn.enterOffline := by
  obtain ⟨⟨wnow, wio, wcpi, wpend⟩, wmc, wbu, wptu, wss, wci, wbk, wsys, wlost⟩ := (s.duplicateWork k).withdrawn_keeps
  obtain ⟨wreq, wprom, -⟩ := (s.duplicateWork k).withdrawn_hc
  have hframes := (s.duplicateWork k).withdrawn_lc
  have hentry := (s.duplicateWork k).entry_withdrawn hp
  generalize (s.duplicateWork k).withdrawn = w at *
  obtain ⟨onow, oio, ocpi, obu, optu, -, oci, opend, -, osys, -, olost, -⟩ := w.enterOffline_keeps
  obtain ⟨otx, olc⟩ := w.enterOffline_lc
  have hhc := Work.enterOffline_hc (w := w) fun x hx => (hframes x hx).1
  have hnone : ∀ q, q ∉ w.lc.queuedReleases := fun q hq => by
    obtain ⟨x, hx, hoff, -⟩ := (mem_queuedReleases _ _).1 hq
    exact Bool.noConfusion (hoff.symm.trans (hframes x hx).1)
  refine ⟨⟨onow.trans wnow, oio.trans wio, ocpi.trans wcpi, opend.trans wpend⟩, ⟨obu.trans wbu, optu.trans wptu, oci.trans wci⟩,
    ?_, ?_, ?_, otx, fun f hf => (hframes f (olc f hf).2).2, fun q => ?_, ⟨by rw [hhc]; exact wreq, by rw [hhc]; exact wprom⟩,
    fun hc hn => Work.enterOffline_charging (State.bookingsNotify_congr wbk hn) ?_, ?_, ?_, osys.trans wsys, olost.trans wlost⟩
  · rw [Work.enterOffline_mc, wmc]
    rfl
  · rw [Work.enterOffline_mc]
  · rw [Work.enterOffline_mc, wmc]
    rfl
  · rw [Work.entry_enterOffline, if_neg fun h => hnone q h.1, hentry q]
    rfl
  · rw [charging_congr (s := s) (congrArg Sequencer.session wss)]
    exact hc
  · rw [Work.enterOffline_sessionEnding, sessionEnding_congr (s := s) wss]
  · rw [Work.enterOffline_notices, wbk]
    rfl

theorem State.OutOfTheRow.startEpoch {s : State} {k : FrameKind} {w : Work} (h : s.OutOfTheRow k w) :
    s.OutOfTheRow k w.startEpoch :=
  ⟨h.outer, h.elsewhere, h.duplicate, h.mode, h.restarting, h.tx, h.frames, h.entry, h.hc, h.phase, h.ending, h.notices,
    h.sysNotices, h.conflictLost⟩

/-- Settles O32: the station leaves the row in one step, which finds nothing more to conclude. -/
theorem duplicateFrameWithdrawsTheStation : Obligations.DuplicateFrameWithdrawsTheStation := by
  refine ⟨fun k s ht hd hr he hlost hp => ⟨_, exec_duplicateFrame ht hd, ?_⟩, fun k s hst hcalm h => ?_⟩
  · have hout : s.OutOfTheRow k (if (s.mc.mode == .listening) = true then (s.duplicateWork k).withdrawn.enterOffline.startEpoch
        else (s.duplicateWork k).withdrawn.enterOffline) := by
      split
      · exact (State.outOfTheRow hp k).startEpoch
      · exact State.outOfTheRow hp k
    generalize (if (s.mc.mode == .listening) = true then (s.duplicateWork k).withdrawn.enterOffline.startEpoch
        else (s.duplicateWork k).withdrawn.enterOffline) = w at hout ⊢
    obtain ⟨⟨wnow, wio, wcpi, wpend⟩, ⟨wbu, wptu, wci⟩, hdup, hmode, hres, htx, hframes, hentry, ⟨hreq, hprom⟩, hphase, hend,
      hnot, hsys, hconf⟩ := hout
    have hrest : w.rests := by
      refine Work.rests_of_idle (if_neg (by rw [wci]; exact hlost)) hconf (hend.trans he) ?_
      simp [State.draining, State.working, hmode, hres, hr]
    have hform := finish_formed w
    obtain ⟨hlc, hhc⟩ := Work.holdingsProgress_idle (w := w) (by simp [State.mayTake, hmode])
    obtain ⟨tmc, tbu, -, tptu, -, tss, tlc, thc, -⟩ := hrest.blocks
    obtain ⟨tnow, tio, tcpi, tpend⟩ := finish_outer w
    rw [hlc] at tlc
    rw [hhc, hreq, hprom] at thc
    have htentry := fun q => (hrest.entry q).trans (hentry q)
    have hfirst := fun h => hrest.postsFirst hsys h
    rw [hnot] at hfirst
    generalize w.finish = t at *
    have hmine : ∀ q, t.entry q ≠ .mine := fun q => by
      rw [htentry]
      have hv : s.vacant q ≠ .mine := by
        unfold State.vacant
        split <;> simp
      split
      · exact hv
      · unfold State.drainedFor dropMark
        cases s.entry q with
        | pending =>
          dsimp only
          split <;> simp_all
        | _ => simp
    refine ⟨tmc ▸ hdup, tmc ▸ hmode, tlc ▸ htx, fun q _ => ?_, fun f hf => hframes f (tlc ▸ hf), by rw [thc]; rfl,
      by rw [thc]; rfl, by rw [thc], State.pSet_noMine hform (t.mineCount_eq_zero_iff.2 hmine), fun hc hn => ?_,
      tptu.trans wptu, tbu.trans wbu, fun hroom _ => hfirst hroom, ?_⟩
    · rw [htentry]
      simp only [List.contains_iff_mem]
      refine if_congr Iff.rfl rfl ?_
      unfold State.drainedFor
      cases s.entry q with
      | pending =>
        change dropMark q (s.vacant q) = s.vacant q
        unfold State.vacant
        by_cases hb : q < s.bu.bEff
        · rw [if_pos hb]
          rfl
        · rw [if_neg hb]
          rfl
      | _ => rfl
    · rw [tss]
      exact hphase hc hn
    · rw [← tnow.trans wnow, ← tio.trans wio, ← tcpi.trans wcpi, ← tpend.trans wpend, ← tbu.trans wbu, ← tptu.trans wptu]
  · have hpass : (if ({ s.begin with lc := s.lc.validFrame } : Work).toState.takesFrames = true then
        Work.hearDuplicate { s.begin with lc := s.lc.validFrame } k else { s.begin with lc := s.lc.validFrame }) =
        { s.begin with lc := s.lc.validFrame } := by
      by_cases ht : s.takesFrames = true
      · have hd : s.mc.duplicate = true := h.resolve_left (by simp [ht])
        rw [if_pos (show ({ s.begin with lc := s.lc.validFrame } : Work).toState.takesFrames = true from ht)]
        exact if_pos hd
      · exact if_neg ht
    refine ⟨_, by simp only [exec, execDuplicateFrame, goOn_eq]; rw [if_neg (by simp [hst]), hpass], ?_⟩
    exact Work.finish_endOf { s.begin with lc := s.lc.validFrame } hcalm rfl rfl rfl

end Sys2Proof.Machine
end

section
/-! SUPPORT. The entry to TRIPPED (O34). -/

namespace Sys2Proof.Machine

/-! ## The session under a cause of suspension -/

theorem sessionEnding_of_session {s t : State} (h : t.ss.session = s.ss.session) : t.sessionEnding = s.sessionEnding := by
  simp only [State.sessionEnding, State.sessState, h]

theorem inUse_congr {s t : State} (h : t.ss.session = s.ss.session) : t.inUse = s.inUse := by
  simp only [State.inUse, State.sessState, h]

theorem Work.suspendCause_inUse (w : Work) (r : SuspReason) : (w.suspendCause r).toState.inUse = w.toState.inUse := by
  unfold Work.suspendCause
  cases hs : w.ss.session with
  | none => rfl
  | some x =>
    simp only [State.inUse, State.sessState, Work.derive_ss, hs]
    unfold Session.suspendFor
    cases hp : x.phase with
    | suspended q => by_cases hr : r = .offline <;> simp [hr, hp, SessPhase.report]
    | _ => simp [hp, SessPhase.report]

theorem Work.takeAction_inUse (w : Work) (a : Action) : (w.takeAction a).toState.inUse = w.toState.inUse := by
  cases a with
  | suspend => exact w.suspendCause_inUse _
  | _ => rfl

/-- Bookings leave a session that is CHARGING or SUSPENDED in one of the two states (R169). -/
theorem Work.hand_inUse (w : Work) (sel : Trigger → Option (Bool × Bool × Nat)) :
    (w.hand sel).toState.inUse = w.toState.inUse := by
  unfold Work.hand
  refine foldl_induct (fun v : Work => v.toState.inUse = w.toState.inUse) _ (fun v i hv => ?_) _ _ rfl
  split
  · unfold Work.evaluate
    split
    · exact hv
    · dsimp only
      split
      · rw [Work.takeAction_inUse]
        exact hv
      · exact hv
  · exact hv

theorem Work.setMode_inUse (w : Work) (m : Mode) : (w.setMode m).toState.inUse = w.toState.inUse := by
  unfold Work.setMode Work.handMode
  rw [Work.hand_inUse]
  rfl

/-- A session in use takes the reason TRIP (R120; log 41). -/
theorem Work.suspendCause_trip {w : Work} (h : w.toState.inUse = true) :
    (w.suspendCause .trip).ss.session.map Session.phase = some (.suspended .trip) := by
  rw [Work.suspendCause_phase _ _ (by simp)]
  unfold State.inUse State.sessState at h
  cases hs : w.ss.session with
  | none => simp [hs] at h
  | some x =>
    rw [hs] at h
    cases hp : x.phase <;> simp_all [SessPhase.report]

/-! ## The blocks on entry -/

section
variable (w : Work)

/-- The working state of the entry to TRIPPED, before the session is suspended (R159). -/
def Work.toTripped (w : Work) : Work :=
  { w.setMode .tripped with
    mc := { (w.setMode .tripped).mc with listenAt := none, leaving := false }
    ci := { (w.setMode .tripped).ci with causeTripped := true }
    sendAtOnce := true
    map := (w.setMode .tripped).toState.wipedMap
    hc := { (w.setMode .tripped).hc with
      claim := none, request := none, sweep := none, promises := [], drains := [], stuck := false, quiesceAt := none
      needOpen := false }
    lc := { (w.setMode .tripped).lc.lastAttempt.removeOffLine (fun f => !(kindOf f == .budget)) with
      muteAt := none, probeDue := false }
    ae := { (w.setMode .tripped).ae with epochAt := none } }

theorem Work.tripEffects_eq : w.tripEffects = w.toTripped.suspendCause .trip := rfl

theorem Work.toTripped_ss : w.toTripped.ss = (w.setMode .tripped).ss := by simp only [Work.toTripped]

/-- What stands in TRIPPED after the entry, but for a restart in progress (R38, R83, R138, R159). -/
theorem Work.tripEffects_spec :
    w.tripEffects.mc = { w.mc with mode := .tripped, echoSince := none, errSince := false, listenAt := none, leaving := false } ∧
    w.tripEffects.lc = { ({ w.lc with tx := .off } : Link).lastAttempt.removeOffLine (fun f => !(kindOf f == .budget)) with
      muteAt := none, probeDue := false } ∧
    w.tripEffects.map = w.toState.wipedMap ∧
    w.tripEffects.hc = { w.hc with
      claim := none, request := none, sweep := none, promises := [], drains := [], stuck := false, quiesceAt := none
      needOpen := false } ∧
    w.tripEffects.ae = { w.ae with epochAt := none } ∧ w.tripEffects.sendAtOnce = true := by
  have hvacant : (w.setMode .tripped).toState.vacant = w.toState.vacant := by
    funext q
    simp only [State.vacant, Work.setMode_keeps]
  have hwiped : (w.setMode .tripped).toState.wipedMap = w.toState.wipedMap := by rw [State.wipedMap, hvacant, State.wipedMap]
  rw [Work.tripEffects_eq]
  unfold Work.toTripped
  refine ⟨?_, ?_, ?_, ?_, ?_, ?_⟩
  · simp [Work.setMode_mc]
  · simp [Work.setMode_lc, txOf]
  · simp [hwiped]
  · simp [Work.setMode_hc]
  · simp
  · simp

theorem Work.tripEffects_inUse (h : w.toState.inUse = true) :
    w.tripEffects.ss.session.map Session.phase = some (.suspended .trip) := by
  rw [Work.tripEffects_eq]
  refine Work.suspendCause_trip ?_
  rw [inUse_congr (congrArg Sequencer.session w.toTripped_ss), w.setMode_inUse, h]

theorem Work.tripEffects_sessionEnding : w.tripEffects.toState.sessionEnding = w.toState.sessionEnding := by
  rw [Work.tripEffects_eq, Work.suspendCause_sessionEnding, sessionEnding_congr w.toTripped_ss, w.setMode_sessionEnding]

end

/-! ## The end of the step -/

/-- With nothing to end, the end of a step leaves the Holdings Controller. -/
theorem Holdings.idle_eq {h : Holdings} (hreq : h.request = none) (hsweep : h.sweep = none) (hprom : h.promises = [])
    (p : Promise → Bool) : { h with
      promises := h.promises.filter p, sweep := none, request := h.request.map fun r => { r with ofSweep := false } } = h := by
  cases h
  simp_all

/-- A working state of TRIPPED in which nothing is held, and a setpoint message is to be sent. -/
structure Work.Tripped (w : Work) : Prop where
  mode : w.mc.mode = .tripped
  restarting : w.mc.restarting = false
  hc : w.hc.claim = none ∧ w.hc.request = none ∧ w.hc.sweep = none ∧ w.hc.promises = [] ∧ w.hc.drains = []
  cause : w.ci.causeTripped = true
  sendAtOnce : w.sendAtOnce = true
  fresh : w.newDrains = [] ∧ w.conflictLost = []

section
variable {w : Work} (h : w.Tripped)
include h

theorem Work.Tripped.idle : w.lostCompletes = w ∧ w.toState.draining = false := by
  refine ⟨Work.lostCompletes_noDrains h.hc.2.2.2.2, ?_⟩
  simp [State.draining, State.working, h.mode, h.restarting]

/-- What the end of the step leaves of TRIPPED: one message with limit 0 and the inhibit flag is sent (R131; log 19). -/
theorem Work.Tripped.finish {t : State} (ht : w.finish = t) :
    (t.now = w.now ∧ t.io = w.io ∧ t.cpi = w.cpi ∧ t.pending = w.pending) ∧
    (t.mc = w.mc ∧ t.bu = w.bu ∧ t.map = w.map ∧ t.ptu = w.ptu ∧ t.ae = w.ae ∧ t.lc = w.lc ∧ t.hc = w.hc) ∧
    t.ci = { w.ci with
      pSet := 0, sendValue := 0, inhibit := true
      outbox := w.ci.outbox ++ [{ limit := 0, inhibit := true, marks := [] }] } ∧
    t.ss = w.testSessionEnd.ss := by
  obtain ⟨hl, hd⟩ := h.idle
  obtain ⟨hnew, hconf⟩ := h.fresh
  obtain ⟨hclaim, hreq, hsweep, hprom, hdrains⟩ := h.hc
  have hkeep := w.testSessionEnd_keeps
  obtain ⟨hrest, hfin⟩ := Work.rests_afterTest hl (Work.lostCompletes_noDrains (by simpa using hdrains)) hconf hd
  obtain ⟨fmc, fbu, fmap, fptu, fae, flc, fhc, -, -⟩ := Work.finish_idle hl hd (by simp [h.mode])
  have hss := Work.finish_idle_ss hl hd hconf
  have hform := finish_formed w
  have houter := finish_outer w
  have hci := hrest.sentAtOnce (by simpa using h.sendAtOnce)
  rw [← hfin] at hci
  rw [ht] at *
  generalize w.testSessionEnd = u at *
  obtain ⟨-, -, -, -, -, -, -, -, -, -, uci, -, -, unew, -, -, -⟩ := hkeep
  obtain ⟨hp, hsend⟩ := State.setpointFormed_zero hform (by simp [State.working, fmc, h.mode])
  have hcause : (u.ci.inhibit || u.toState.inhibitCause) = true := by simp [State.inhibitCause, uci, h.cause]
  have hlimit : sendValueOf u.toState.conf.pMin u.toState.formSetpoint = 0 := by rw [← hsend, hci]
  have hset : u.toState.formSetpoint = 0 := by rw [← hp, hci]
  refine ⟨houter, ⟨fmc, fbu, fmap, fptu, fae, flc, ?_⟩, ?_, hss⟩
  · rw [fhc, Holdings.idle_eq hreq hsweep hprom]
  · rw [hci, hlimit, hset, hcause, unew, hnew, uci]
    simp

theorem Work.Tripped.suspended {t : State} (ht : w.finish = t) {r : SuspReason}
    (hr : w.ss.session.map Session.phase = some (.suspended r)) : t.ss.session.map Session.phase = some (.suspended r) := by
  obtain ⟨-, -, -, hss⟩ := h.finish ht
  rw [hss, Work.testSessionEnd_calm _ (sessionEnding_of_suspended hr), hr]

/-- An ENDING session goes, for nothing is held (R126). -/
theorem Work.Tripped.ended {t : State} (ht : w.finish = t) (he : w.toState.sessionEnding = true)
    (hn : w.toState.holdsNothing = true) : t.ss.session = none := by
  obtain ⟨-, -, -, hss⟩ := h.finish ht
  have hy : ∃ y, w.ss.session = some y := by
    cases hs : w.ss.session with
    | none => simp [State.sessionEnding, State.sessState, hs] at he
    | some y => exact ⟨y, rfl⟩
  obtain ⟨y, hy⟩ := hy
  have hno : w.toState.noClaimAwaiting = true := by simp [State.noClaimAwaiting, h.hc.1]
  rw [hss, Work.testSessionEnd_session hy he, if_pos ⟨hn, hno⟩]

end

/-! ## The two events -/

/-- The attempt is not made again should it fail. -/
def Attempt.isLast : Attempt → Bool
  | .frame _ _ last => last
  | .probe _ _ last => last
  | .brk _ => true

theorem Attempt.asLast_isLast {a : Attempt} (h : a.asLast = a) : a.isLast = true := by
  cases a with
  | frame id us last => exact (Attempt.frame.inj h).2.2.symm
  | probe us d last => exact (Attempt.probe.inj h).2.2.symm
  | brk us => rfl

theorem all_isLast {o : Option Attempt} (h : ∀ a ∈ o, a.asLast = a) : o.all Attempt.isLast = true := by
  cases o with
  | none => rfl
  | some a => exact Attempt.asLast_isLast (h a rfl)

/-- A break that is asked for waits for the own attempt in progress, and begins at once without one (R151). -/
theorem Link.askBreak_spec (l : Link) :
    ((l.askBreak).tx = l.tx ∧ (l.askBreak).queue = l.queue ∧ (l.askBreak).waiting = l.waiting ∧
      (l.askBreak).txErrors = l.txErrors ∧ (l.askBreak).rxErrors = l.rxErrors ∧ (l.askBreak).muteHold = l.muteHold) ∧
    (∀ a ∈ (l.askBreak).attempt, a ∈ l.attempt ∨ a = .brk 0) ∧ (l.attempt = none → (l.askBreak).attempt = some (.brk 0)) := by
  unfold Link.askBreak
  split <;> simp_all

/-- The station trips from `r`, which is `s` with the level or the break told; `f` is what the event makes of the link. -/
structure TripsFrom (c : Instr) (s r : State) (f : Link → Link) : Prop where
  rest : r = { s with
    io := r.io, mc := { s.mc with breakOn := r.mc.breakOn }, lc := { s.lc with quietUs := r.lc.quietUs, heldUs := r.lc.heldUs } }
  link : ∀ l, (f l).tx = l.tx ∧ (f l).queue = l.queue ∧ (f l).waiting = l.waiting ∧ (f l).txErrors = l.txErrors ∧
    (f l).rxErrors = l.rxErrors ∧ (f l).muteHold = l.muteHold
  attempt : ∀ l, ∀ a ∈ (f l).attempt, a ∈ l.attempt ∨ a = .brk 0
  asserted : c = .tripAsserted → r.io = { s.io with trip := true } ∧ ∀ l, l.attempt = none → (f l).attempt = some (.brk 0)
  detected : c = .breakDetected → r.io = s.io ∧ r.mc.breakOn = true

theorem Work.sendBreak_eq (w : Work) : w.sendBreak = { w with lc := w.lc.askBreak } := rfl

theorem Work.setLink_id (w : Work) : ({ w with lc := id w.lc } : Work) = w := rfl

theorem exec_trips {c : Instr} {s : State} (hc : (c = .tripAsserted ∧ s.io.trip = false) ∨ c = .breakDetected)
    (ht : s.takesFrames = true) : ∃ r f, TripsFrom c s r f ∧
      exec c s = .next ({ r.begin.tripEntry with lc := f r.begin.tripEntry.lc } : Work).finish := by
  have hst : s.started = true := (Bool.and_eq_true _ _ ▸ ht : _ ∧ _).1
  have hm : s.mc.mode ≠ .tripped := by
    have := (Bool.and_eq_true _ _ ▸ ht : _ ∧ _).2
    simpa using this
  rcases hc with ⟨rfl, htrip⟩ | rfl
  · refine ⟨s.setTrip true, Link.askBreak, ⟨rfl, fun l => l.askBreak_spec.1, fun l => l.askBreak_spec.2.1,
      fun _ => ⟨rfl, fun l => l.askBreak_spec.2.2⟩, (fun h => nomatch h)⟩, ?_⟩
    have hm' : (s.setTrip true).mc.mode ≠ .tripped := hm
    have hst' : (s.setTrip true).started = true := hst
    simp only [exec, execTripAsserted, goOn_eq]
    rw [if_neg (by simp [htrip]), if_neg (by simp [hst']), if_neg hm', Work.sendBreak_eq]
  · refine ⟨s.startBreak, id, ⟨rfl, fun l => ⟨rfl, rfl, rfl, rfl, rfl, rfl⟩, fun l a ha => .inl ha, (fun h => nomatch h),
      fun _ => ⟨rfl, rfl⟩⟩, ?_⟩
    simp only [exec, execBreakDetected, goOn_eq]
    rw [if_neg (by simp [hst]), if_neg hm, Work.setLink_id]

section
variable {c : Instr} {s r : State} {f : Link → Link} (h : TripsFrom c s r f)
include h

theorem TripsFrom.blocks : (r.now = s.now ∧ r.cpi = s.cpi ∧ r.pending = s.pending) ∧
    r.mc = { s.mc with breakOn := r.mc.breakOn } ∧ r.bu = s.bu ∧ r.ptu = s.ptu ∧ r.ae = s.ae ∧ r.hc = s.hc ∧ r.ss = s.ss ∧
    r.ci = s.ci ∧ r.lc.attempt = s.lc.attempt := by
  rw [h.rest]
  exact ⟨⟨rfl, rfl, rfl⟩, rfl, rfl, rfl, rfl, rfl, rfl, rfl, rfl⟩

theorem TripsFrom.onLine (x : QFrame) : r.lc.onLine x = s.lc.onLine x := by
  rw [h.rest]
  rfl

/-- What the link shows of the entry to TRIPPED: `l` is the link after it, whose attempt in progress is its last. -/
theorem TripsFrom.shows {l : Link} (hl : l.attempt = s.lc.attempt.map Attempt.asLast) :
    (c = .tripAsserted → s.lc.attempt = none → (f l).attempt = some (.brk 0)) ∧
    ∀ a ∈ (f l).attempt, a.asLast = a := by
  refine ⟨fun hc hn => (h.asserted hc).2 l (by rw [hl, hn]; rfl), fun a ha => ?_⟩
  rcases h.attempt l a ha with ha | rfl
  · rw [hl] at ha
    obtain ⟨b, -, rfl⟩ := Option.map_eq_some_iff.1 ha
    exact b.asLast_asLast
  · rfl

end

/-- The frames that the entry to TRIPPED leaves (R159; log 38). -/
theorem Work.tripEffects_frames (w : Work) : ∀ x ∈ w.tripEffects.lc.queue ++ w.tripEffects.lc.waiting,
    kindOf x.frame = .budget ∨ w.lc.onLine x = true := by
  obtain ⟨-, hlc, -⟩ := w.tripEffects_spec
  rw [hlc]
  intro x hx
  have hin := (Link.promote_perm _).mem_iff.1 hx
  have hkeep : (({ w.lc with tx := .off } : Link).lastAttempt.onLine x || !!(kindOf x.frame == .budget)) = true := by
    rcases List.mem_append.1 hin with hm | hm <;> exact (List.mem_filter.1 hm).2
  rw [Link.lastAttempt_onLine, Bool.or_eq_true] at hkeep
  rcases hkeep with hon | hb
  · exact .inr hon
  · exact .inl (by simpa using hb)

/-! ## The station trips -/

/-- Nothing is held after a wipe. -/
theorem holdsNothing_wiped {s : State} (h : ∀ q, s.entry q = .free ∨ s.entry q = .withdrawn) : s.holdsNothing = true := by
  refine (State.holdsNothing_iff s).2 fun q => ?_
  rcases h q with hq | hq <;> simp [hq, QEntry.isDraining]

theorem entry_wiped {s t : State} (h : s.map = t.wipedMap) (q : Nat) : s.entry q = .free ∨ s.entry q = .withdrawn := by
  by_cases hq : q < 128
  · rw [State.entry, h, wipedMap_getD _ _ hq]
    unfold State.vacant
    split
    · exact .inl rfl
    · exact .inr rfl
  · exact .inr (entry_ge s q (by rw [h]; simpa using hq))

theorem entry_start {s : State} {n : Nat} (h : s.map = startMap n) (q : Nat) : s.entry q = .free ∨ s.entry q = .withdrawn := by
  by_cases hq : q < 128
  · rw [State.entry, h, startMap_getD _ _ hq]
    split
    · exact .inl rfl
    · exact .inr rfl
  · exact .inr (entry_ge s q (by rw [h]; simpa using hq))

theorem Work.tripEntry_plain {w : Work} (h : w.mc.restarting = false) : w.tripEntry = w.tripEffects := by
  have hres : w.tripEffects.mc.restarting = false := by
    rw [w.tripEffects_spec.1]
    exact h
  rw [Work.tripEntry]
  simp [hres]

theorem Work.tripEntry_restarting {w : Work} (h : w.mc.restarting = true) : w.tripEntry = w.tripEffects.clearBlocks := by
  have hres : w.tripEffects.mc.restarting = true := by
    rw [w.tripEffects_spec.1]
    exact h
  rw [Work.tripEntry]
  simp [hres]

/-- With no restart under way the entry to TRIPPED is all. -/
theorem State.tripEffects_tripped {r : State} (hr : r.mc.restarting = false) : r.begin.tripEffects.Tripped := by
  obtain ⟨hmc, -, -, hhc, -, hsend⟩ := r.begin.tripEffects_spec
  obtain ⟨-, -, -, -, -, -, -, -, knew, kconf, -⟩ := r.begin.tripEffects_keeps
  have hci := r.begin.tripEffects_ci
  generalize r.begin.tripEffects = v at *
  exact ⟨by rw [hmc], by rw [hmc]; exact hr, by rw [hhc]; exact ⟨rfl, rfl, rfl, rfl, rfl⟩, by rw [hci], hsend, knew, kconf⟩

/-- A restart under way reaches its clearing point with the entry (R181). -/
theorem State.tripEffects_cleared (r : State) : r.begin.tripEffects.clearBlocks.Tripped := by
  obtain ⟨hmc, -, -, -, -, hsend⟩ := r.begin.tripEffects_spec
  obtain ⟨-, -, -, -, -, -, -, -, knew, kconf, -⟩ := r.begin.tripEffects_keeps
  have hci := r.begin.tripEffects_ci
  generalize r.begin.tripEffects = v at *
  obtain ⟨cmc, -, -, -, -, chc, -⟩ := v.clearBlocks_spec
  obtain ⟨-, -, -, cci, -, -, -, -, cnew, cconf, csend⟩ := v.clearBlocks_keeps
  generalize v.clearBlocks = u at *
  exact ⟨by rw [cmc, hmc], by rw [cmc], by rw [chc]; exact ⟨rfl, rfl, rfl, rfl, rfl⟩, by rw [cci, hci], csend.trans hsend,
    cnew.trans knew, cconf.trans kconf⟩

theorem Work.Tripped.setLink {w : Work} (h : w.Tripped) (l : Link) : ({ w with lc := l } : Work).Tripped :=
  ⟨h.mode, h.restarting, h.hc, h.cause, h.sendAtOnce, h.fresh⟩

/-- A trip wipes the station (R38, R159). -/
theorem trip_wipes {c : Instr} {s : State} (hc : (c = .tripAsserted ∧ s.io.trip = false) ∨ c = .breakDetected)
    (ht : s.takesFrames = true) (hr : s.mc.restarting = false) : ∃ r f t, TripsFrom c s r f ∧ exec c s = .next t ∧
      (t.now = s.now ∧ t.io = r.io ∧ t.cpi = s.cpi ∧ t.pending = s.pending) ∧
      t.mc = { s.mc with
        mode := .tripped, echoSince := none, errSince := false, listenAt := none, leaving := false, breakOn := r.mc.breakOn } ∧
      t.bu = s.bu ∧ t.map = s.wipedMap ∧ t.ptu = s.ptu ∧ t.ae = { s.ae with epochAt := none } ∧
      t.hc = { s.hc with
        claim := none, request := none, sweep := none, promises := [], drains := [], stuck := false, quiesceAt := none
        needOpen := false } ∧
      t.lc = f r.begin.tripEffects.lc ∧
      t.ci = { s.ci with
        pSet := 0, sendValue := 0, causeTripped := true, inhibit := true
        outbox := s.ci.outbox ++ [{ limit := 0, inhibit := true, marks := [] }] } ∧
      (s.inUse = true → t.ss.session.map Session.phase = some (.suspended .trip)) ∧
      (s.sessionEnding = true → t.ss.session = none) := by
  obtain ⟨r, f, htrips, hexec⟩ := exec_trips hc ht
  obtain ⟨⟨rnow, rcpi, rpend⟩, rmc, rbu, rptu, rae, rhc, rss, rci, -⟩ := htrips.blocks
  have hres : r.mc.restarting = false := by rw [rmc]; exact hr
  rw [Work.tripEntry_plain (w := r.begin) hres] at hexec
  have htripped := (State.tripEffects_tripped hres).setLink (f r.begin.tripEffects.lc)
  obtain ⟨vmc, -, vmap, vhc, vae, -⟩ := r.begin.tripEffects_spec
  obtain ⟨vnow, vio, vcpi, vbu, vptu, vpend, -⟩ := r.begin.tripEffects_keeps
  have vci := r.begin.tripEffects_ci
  have vuse := r.begin.tripEffects_inUse
  have vend := r.begin.tripEffects_sessionEnding
  refine ⟨r, f, _, htrips, hexec, ?_⟩
  obtain ⟨⟨tnow, tio, tcpi, tpend⟩, ⟨tmc, tbu, tmap, tptu, tae, tlc, thc⟩, tci, -⟩ := htripped.finish rfl
  have tsusp := htripped.suspended rfl (r := .trip)
  have tended := htripped.ended rfl
  generalize Work.finish { r.begin.tripEffects with lc := f r.begin.tripEffects.lc } = t at *
  generalize r.begin.tripEffects = v at *
  have hwiped : r.wipedMap = s.wipedMap := by
    have : r.vacant = s.vacant := by
      funext q
      simp only [State.vacant, rbu]
    rw [State.wipedMap, this, State.wipedMap]
  refine ⟨⟨tnow.trans (vnow.trans rnow), tio.trans vio, tcpi.trans (vcpi.trans rcpi), tpend.trans (vpend.trans rpend)⟩, ?_,
    tbu.trans (vbu.trans rbu), tmap.trans (vmap.trans hwiped), tptu.trans (vptu.trans rptu), ?_, ?_, tlc, ?_, fun h => ?_,
    fun h => ?_⟩
  · rw [tmc, vmc, show r.begin.mc = r.mc from rfl, rmc]
  · rw [tae, vae, show r.begin.ae = s.ae from rae]
  · rw [thc, vhc, show r.begin.hc = s.hc from rhc]
  · rw [tci, vci, show r.begin.ci = s.ci from rci]
  · exact tsusp (vuse ((inUse_congr (congrArg Sequencer.session rss)).trans h))
  · exact tended (vend.trans ((sessionEnding_congr rss).trans h)) (holdsNothing_wiped fun q => entry_wiped vmap q)

/-- The link after a trip with a restart under way. -/
theorem Work.tripEffects_clearedLink (w : Work) :
    w.tripEffects.clearBlocks.lc.attempt = w.lc.attempt.map Attempt.asLast ∧ w.tripEffects.clearBlocks.lc.tx = .off ∧
    (w.tripEffects.clearBlocks.lc.txErrors = 0 ∧ w.tripEffects.clearBlocks.lc.rxErrors = 0 ∧
      w.tripEffects.clearBlocks.lc.muteHold = 1000) ∧
    ∀ x ∈ w.tripEffects.clearBlocks.lc.queue ++ w.tripEffects.clearBlocks.lc.waiting, w.lc.onLine x = true := by
  obtain ⟨-, hlc, -⟩ := w.tripEffects_spec
  have hattempt := w.tripEffects_attempt
  have htx : w.tripEffects.lc.tx = .off := by
    rw [hlc]
    rfl
  have hon : ∀ x, w.tripEffects.lc.onLine x = w.lc.onLine x := fun x => by
    rw [← Link.lastAttempt_onLine w.lc, hlc]
    rfl
  generalize w.tripEffects = v at *
  obtain ⟨-, -, -, -, -, -, clc, -⟩ := v.clearBlocks_spec
  rw [clc]
  refine ⟨?_, htx, ⟨rfl, rfl, rfl⟩, fun x hx => ?_⟩
  · change v.lc.attempt.map Attempt.asLast = _
    rw [hattempt]
    simp [Function.comp_def, Attempt.asLast_asLast]
  · have := Link.onLine_of_emptied hx
    rw [Link.lastAttempt_onLine, hon] at this
    exact this

/-- A trip with a restart under way wipes the station and clears its blocks (R159, R181, R182). -/
theorem trip_clears {c : Instr} {s : State} (hc : (c = .tripAsserted ∧ s.io.trip = false) ∨ c = .breakDetected)
    (ht : s.takesFrames = true) (hr : s.mc.restarting = true) : ∃ r f t, TripsFrom c s r f ∧ exec c s = .next t ∧
      (t.now = s.now ∧ t.io = r.io ∧ t.cpi = s.cpi ∧ t.pending = s.pending) ∧
      t.mc = { s.mc with
        mode := .tripped, listenAt := none, leaving := false, restarting := false, duplicate := false, echoSince := none
        errSince := false, breakOn := r.mc.breakOn } ∧
      t.bu = { s.bu with offers := [], seen := false, bEff := s.conf.bCfg } ∧ t.map = startMap s.conf.bCfg ∧
      t.ptu = { entries := freshTable s.conf.nSt s.own, lineHeard := none, lineCleared := s.now } ∧
      t.ae = { s.ae with epochAt := none, sticky := CompFlags.clear } ∧
      t.hc = { Holdings.reset s.own with rotate := s.hc.rotate } ∧
      t.lc = f r.begin.tripEffects.clearBlocks.lc ∧
      t.ci = { s.ci with
        pSet := 0, sendValue := 0, causeTripped := true, inhibit := true
        outbox := s.ci.outbox ++ [{ limit := 0, inhibit := true, marks := [] }] } ∧
      (s.inUse = true → t.ss.session.map Session.phase = some (.suspended .trip)) ∧
      (s.sessionEnding = true → t.ss.session = none) := by
  obtain ⟨r, f, htrips, hexec⟩ := exec_trips hc ht
  obtain ⟨⟨rnow, rcpi, rpend⟩, rmc, rbu, rptu, rae, rhc, rss, rci, -⟩ := htrips.blocks
  have hres : r.mc.restarting = true := by rw [rmc]; exact hr
  rw [Work.tripEntry_restarting (w := r.begin) hres] at hexec
  have htripped := r.tripEffects_cleared.setLink (f r.begin.tripEffects.clearBlocks.lc)
  obtain ⟨vmc, -, -, vhc, vae, -⟩ := r.begin.tripEffects_spec
  obtain ⟨vnow, vio, vcpi, vbu, vptu, vpend, -⟩ := r.begin.tripEffects_keeps
  have vci := r.begin.tripEffects_ci
  have vuse := r.begin.tripEffects_inUse
  have vend := r.begin.tripEffects_sessionEnding
  obtain ⟨umc, umap, ubu, uptu, uae, uhc, -, uss, -, -⟩ := r.begin.tripEffects.clearBlocks_spec
  obtain ⟨unow, uio, ucpi, uci, upend, -⟩ := r.begin.tripEffects.clearBlocks_keeps
  refine ⟨r, f, _, htrips, hexec, ?_⟩
  obtain ⟨⟨tnow, tio, tcpi, tpend⟩, ⟨tmc, tbu, tmap, tptu, tae, tlc, thc⟩, tci, -⟩ := htripped.finish rfl
  have tsusp := htripped.suspended rfl (r := .trip)
  have tended := htripped.ended rfl
  generalize Work.finish { r.begin.tripEffects.clearBlocks with lc := f r.begin.tripEffects.clearBlocks.lc } = t at *
  generalize r.begin.tripEffects.clearBlocks = u at *
  generalize r.begin.tripEffects = v at *
  have hconf : v.toState.conf = s.conf := by simp only [State.conf, vcpi, show r.begin.cpi = s.cpi from rcpi]
  have hown : v.toState.own = s.own := by simp only [State.own, vcpi, show r.begin.cpi = s.cpi from rcpi]
  rw [hconf] at umap ubu uptu
  rw [hown] at uptu uhc
  refine ⟨⟨tnow.trans (unow.trans (vnow.trans rnow)), tio.trans (uio.trans vio), tcpi.trans (ucpi.trans (vcpi.trans rcpi)),
    tpend.trans (upend.trans (vpend.trans rpend))⟩, ?_, ?_, tmap.trans umap, ?_, ?_, ?_, tlc, ?_, fun h => ?_, fun h => ?_⟩
  · rw [tmc, umc, vmc, show r.begin.mc = r.mc from rfl, rmc]
  · rw [tbu, ubu, vbu, show r.begin.bu = s.bu from rbu]
  · rw [tptu, uptu, vnow, show r.begin.now = s.now from rnow]
  · rw [tae, uae, vae, show r.begin.ae = s.ae from rae]
  · rw [thc, uhc, vhc, show r.begin.hc = s.hc from rhc]
  · rw [tci, uci, vci, show r.begin.ci = s.ci from rci]
  · refine tsusp ?_
    rw [uss]
    exact vuse ((inUse_congr (congrArg Sequencer.session rss)).trans h)
  · refine tended ?_ (holdsNothing_wiped fun q => entry_start umap q)
    rw [sessionEnding_of_session (s := v.toState) (by rw [uss])]
    exact vend.trans ((sessionEnding_congr rss).trans h)

/-- TRIP asserted in TRIPPED stops the trip hold timer and asks for a break again (R151, R160). -/
theorem tripAsserted_tripped {s : State} (hm : s.mc.mode = .tripped) (ht : s.io.trip = false) (he : s.sessionEnding = false)
    (hl : ¬(s.ci.conv = .lost ∧ s.ci.lostQuiesce = .expired)) : ∃ t, exec .tripAsserted s = .next t ∧
      State.endOf { s with
        io := { s.io with trip := true }, mc := { s.mc with tripHoldAt := none }, lc := s.lc.askBreak } t := by
  have hst : s.started = true := by simp [State.started, hm]
  let w : Work := { (s.setTrip true).stopTripHold.begin with lc := s.lc.askBreak }
  have hexec : exec .tripAsserted s = .next w.finish := by
    simp only [exec, execTripAsserted, goOn_eq]
    rw [if_neg (by simp [ht]), if_neg (by simpa [State.setTrip, State.started] using hst),
      if_pos (show (s.setTrip true).mc.mode = .tripped from hm), Work.sendBreak_eq]
    rfl
  have hrest : w.rests :=
    Work.rests_of_idle (if_neg hl) rfl he (draining_of_idle (by
      rw [State.working, show w.mc.mode = .tripped from hm]
      rfl) (by rw [show w.mc.mode = .tripped from hm]; simp))
  exact ⟨_, hexec, hrest.endOf rfl rfl⟩

/-- Settles O34: the station trips from the state with the level or the break told, and the end of the step sends one message. -/
theorem tripWipesTheStation : Obligations.TripWipesTheStation := by
  refine ⟨fun c s hc ht hr => ?_, fun s hst htrip => ⟨_, ?_, rfl⟩, fun s hst => ⟨s, ?_, rfl⟩, fun s hm htrip he hl => ?_,
    fun c s hc ht hr => ?_, fun s hm => ⟨_, ?_, rfl⟩⟩
  · obtain ⟨r, f, t, htrips, hexec, ⟨tnow, tio, tcpi, tpend⟩, tmc, tbu, tmap, tptu, tae, thc, tlc, tci, tuse, tend⟩ :=
      trip_wipes hc ht hr
    obtain ⟨ltx, lqueue, lwait, -⟩ := htrips.link r.begin.tripEffects.lc
    obtain ⟨sbrk, slast⟩ := htrips.shows (l := r.begin.tripEffects.lc)
      (by rw [Work.tripEffects_attempt, ← htrips.blocks.2.2.2.2.2.2.2.2]; rfl)
    rw [← tlc] at ltx lqueue lwait sbrk slast
    refine ⟨t, hexec, by rw [tmc], ltx.trans (by rw [r.begin.tripEffects_spec.2.1]; rfl), fun q hq => ?_, tbu, tptu, tae, thc, tci,
      by rw [tmc], by rw [tmc], by rw [tmc], by rw [tmc], fun x hx => ?_, tuse, tend,
      fun h => ⟨tio.trans (htrips.asserted h).1, sbrk h⟩, all_isLast slast,
      fun h => ⟨tio.trans (htrips.detected h).1, by rw [tmc]; exact (htrips.detected h).2⟩, tnow, tcpi, tpend⟩
    · rw [State.entry, tmap, wipedMap_getD _ _ hq]
      rfl
    · rw [lqueue, lwait] at hx
      rw [← htrips.onLine]
      exact r.begin.tripEffects_frames x hx
  · simp only [exec, execTripAsserted, goOn_eq]
    have hst' : (s.setTrip true).started = false := hst
    rw [if_neg (by simp [htrip]), if_pos (by simp [hst'])]
    rfl
  · simp only [exec, execBreakDetected, goOn_eq]
    rw [if_pos (by simp [hst])]
  · exact tripAsserted_tripped hm htrip he hl
  · obtain ⟨r, f, t, htrips, hexec, ⟨tnow, tio, tcpi, tpend⟩, tmc, tbu, tmap, tptu, tae, thc, tlc, tci, tuse, tend⟩ :=
      trip_clears hc ht hr
    obtain ⟨hattempt, ltx, lcounts, lframes⟩ := r.begin.tripEffects_clearedLink
    rw [show r.begin.lc.attempt = s.lc.attempt from htrips.blocks.2.2.2.2.2.2.2.2] at hattempt
    generalize r.begin.tripEffects.clearBlocks.lc = l at *
    obtain ⟨ftx, fqueue, fwait, ftxe, frxe, fmute⟩ := htrips.link l
    obtain ⟨sbrk, slast⟩ := htrips.shows hattempt
    rw [← tlc] at ftx fqueue fwait ftxe frxe fmute sbrk slast
    refine ⟨t, hexec, by rw [tmc], ftx.trans ltx, fun q hq => ?_, by rw [tbu], fun k hk => ?_, by rw [tptu], tae, thc, tci,
      by rw [ftxe, frxe, fmute]; exact lcounts, fun x hx => ?_, tuse, tend,
      fun h => ⟨tio.trans (htrips.asserted h).1, sbrk h⟩, all_isLast slast,
      fun h => ⟨tio.trans (htrips.detected h).1, by rw [tmc]; exact (htrips.detected h).2⟩, tnow, tcpi, tpend⟩
    · rw [State.entry, tmap, startMap_getD _ _ hq]
    · rw [tptu]
      exact freshTable_peer _ hk
    · rw [fqueue, fwait] at hx
      rw [← htrips.onLine]
      exact lframes x hx
  · simp only [exec, execBreakDetected, goOn_eq]
    rw [if_neg (by simp [State.started, hm]), if_pos hm]
    rfl

end Sys2Proof.Machine
end

section
/-! SUPPORT. YIELD-ANS heard (O31). -/

namespace Sys2Proof.Machine

/-! ## The end of a step after which no request may go out -/

/-- Claiming and sweeping begin with the queue and the request as they are, once promises and a sweep have ended. -/
theorem Work.holdingsProgress_begins (w : Work) : ∃ v : Work, w.holdingsProgress = v.considerClaiming.sweepProgress ∧
    v.lc = w.lc ∧ (w.hc.request = none → v.hc.request = none) ∧ v.considerClaim = (w.considerClaim || w.madeFree) := by
  unfold Work.holdingsProgress
  dsimp only
  refine ⟨_, rfl, ?_, fun h => ?_, ?_⟩ <;> dsimp only <;> split
  case refine_2.isFalse => simp [h]
  case refine_2.isTrue => exact h
  all_goals rfl

section
variable {w v : Work} (hq : w.toState.hasQueued .yieldReq = true) (hv : v.hc.request = none ∧ v.lc = w.lc)
include hq hv

/-- No request goes out while a YIELD-REQ is queued (R104; log 63). -/
theorem Work.sweepMove_unasked : v.sweepMove.hc.request = none ∧ v.sweepMove.lc = w.lc := by
  have hqv : v.toState.hasQueued .yieldReq = true := by rw [State.hasQueued, hv.2]; exact hq
  unfold Work.sweepMove
  dsimp only
  split
  · exact hv
  · split
    · exact ⟨by simp [hv.1], hv.2⟩
    · rw [hqv, Bool.or_true, if_pos rfl]
      exact hv

theorem Work.sweepProgress_unasked : v.sweepProgress.hc.request = none ∧ v.sweepProgress.lc = w.lc := by
  have hstart : v.considerSweep.hc.request = none ∧ v.considerSweep.lc = w.lc := by
    unfold Work.considerSweep
    dsimp only
    split <;> exact hv
  unfold Work.sweepProgress
  split
  · unfold Work.sweepRun
    exact foldl_induct (fun v : Work => v.hc.request = none ∧ v.lc = w.lc) _ (fun v _ hv => Work.sweepMove_unasked hq hv) _ _
      hstart
  · split
    · exact ⟨by simp [hv.1], hv.2⟩
    · exact hv

end

/-- While a YIELD-REQ is queued and nothing asks for a claim, the end of a step queues nothing and sends no request
(R91, R104; log 63). -/
theorem Work.holdingsProgress_unasked {w : Work} (hreq : w.hc.request = none) (hq : w.toState.hasQueued .yieldReq = true)
    (hc : w.considerClaim = false) (hfree : w.madeFree = false) :
    w.holdingsProgress.hc.request = none ∧ w.holdingsProgress.lc = w.lc := by
  obtain ⟨v, hv, hlc, hr, hcc⟩ := w.holdingsProgress_begins
  have hclaim : v.considerClaiming = v := by
    unfold Work.considerClaiming
    simp [hcc, hc, hfree]
  rw [hv, hclaim]
  exact Work.sweepProgress_unasked hq ⟨hr hreq, hlc⟩

/-- The end of a step keeps an outstanding request. -/
theorem Work.holdingsProgress_asks {w : Work} {k : Request} (h : w.hc.request = some k) :
    w.holdingsProgress.hc.request.map (fun m => (m.target, m.disp, m.count, m.listed, m.echoAt, m.answered)) =
      some (k.target, k.disp, k.count, k.listed, k.echoAt, k.answered) := by
  refine Work.holdingsProgress_kept (P := fun h : Holdings =>
    h.request.map (fun m => (m.target, m.disp, m.count, m.listed, m.echoAt, m.answered)) =
      some (k.target, k.disp, k.count, k.listed, k.echoAt, k.answered))
    ⟨fun _ _ k => k, fun _ _ _ _ k => k, fun h k => ?_, fun h r hr _ k => by simp [hr] at k⟩ (by rw [h]; rfl)
  rw [Option.map_map]
  exact k

/-! ## The answer -/

theorem exec_yieldAns (u : BitVec 5) (p : List Byte) (s : State) :
    exec (.yieldAns u p) s = .next (s.heard .yieldAns u p) := rfl

theorem parsePayload_yieldAns {a n r : Byte} {p : List Byte} (hn : n.toNat ≤ 8) (hp : p.length = n.toNat) :
    parsePayload .yieldAns (a :: n :: r :: p) = some (.yieldAns a.toNat r.toNat (quantaOf p)) := by
  refine if_pos ⟨by simp, ?_, ?_⟩
  · simpa [at1] using hn
  · simp [at1, hp]
    omega

theorem Work.applyFrame_yieldAns (w : Work) (u r : Nat) (qs : List Nat) :
    w.applyFrame u (.yieldAns w.toState.own r qs) = w.takeAnswer u r qs := if_pos rfl

/-- The quanta that an answer of `donor` grants (R97). -/
def State.grantedBy (s : State) (donor : Nat) (granted : List Nat) : List Nat :=
  (s.listedQuanta granted).filter fun q => (s.entry q).heldBy donor

/-- The entry of station `u` becomes `y`. -/
def Work.withPeer (w : Work) (u : Nat) (y : Peer) : Work :=
  { w with ptu := { w.ptu with entries := w.ptu.entries.set u y } }

/-- The marks, the promise and the refusal reason of an answer that is taken (R97). -/
def Work.markGranted (w : Work) (donor reason : Nat) (qs : List Nat) : Work :=
  { w with
    map := qs.foldl (fun m q => m.set q (.held donor true)) w.map
    hc := { w.hc with
      promises := if qs.isEmpty then w.hc.promises
        else w.hc.promises ++ [{ donor := donor, quanta := qs, expiry := w.now + Config.promiseMs }]
      lastRefusal := some (yieldReasonOf reason) } }

/-- What an answer does beyond the entry of its sender (R97). -/
def Work.takeGrant (w : Work) (donor reason : Nat) (granted : List Nat) : Work :=
  let qs := w.toState.grantedBy donor granted
  let v := w.markGranted donor reason qs
  if v.toState.awaits donor then v.endRequest (.granted qs.length) else v

theorem Work.setPeer_eq {w : Work} {u : Nat} {y : Peer} (hy : w.ptu.entries[u]? = some y) (f : Peer → Peer) :
    (w.onState fun s => s.setPeer u f) = w.withPeer u (f y) := by
  rw [Work.withPeer, ← modify_of_getElem? hy f]
  rfl

theorem Work.withPeer_at {w : Work} {u : Nat} {y : Peer} (hy : w.ptu.entries[u]? = some y) (z : Peer) :
    (w.withPeer u z).ptu.entries[u]? = some z :=
  List.getElem?_set_self (List.getElem?_eq_some_iff.1 hy).1

theorem Work.withPeer_withPeer (w : Work) (u : Nat) (y z : Peer) : (w.withPeer u y).withPeer u z = w.withPeer u z := by
  simp [Work.withPeer]

theorem Work.takeAnswer_working {w : Work} {u : Nat} {y : Peer} (hy : w.ptu.entries[u]? = some y)
    (hw : w.toState.working = true) (r : Nat) (g : List Nat) :
    w.takeAnswer u r g =
      (w.withPeer u { y with unanswered := 0, lastRefusal := some (yieldReasonOf r) }).takeGrant u r g := by
  have hon : (w.withPeer u { y with unanswered := 0 }).toState.working = true := hw
  unfold Work.takeAnswer
  dsimp only
  rw [Work.setPeer_eq hy, hon, Work.setPeer_eq (Work.withPeer_at hy _), Work.withPeer_withPeer]
  rfl

theorem Work.takeAnswer_ignored {w : Work} {u : Nat} {y : Peer} (hy : w.ptu.entries[u]? = some y)
    (hw : w.toState.working = false) (r : Nat) (g : List Nat) :
    w.takeAnswer u r g = (w.withPeer u { y with unanswered := 0 }).noteAnswer u := by
  have hoff : (w.withPeer u { y with unanswered := 0 }).toState.working = false := hw
  unfold Work.takeAnswer
  dsimp only
  rw [Work.setPeer_eq hy, hoff]
  rfl

theorem Work.entry_markGranted (w : Work) (u r : Nat) (qs : List Nat) (q : Nat) :
    (w.markGranted u r qs).toState.entry q = if q ∈ qs ∧ q < w.map.length then .held u true else w.toState.entry q :=
  getD_foldl_set _ _ _ _ _

theorem State.mem_grantedBy (s : State) (u : Nat) (g : List Nat) (q : Nat) :
    q ∈ s.grantedBy u g ↔ q ∈ g ∧ q < s.conf.bCfg ∧ (s.entry q).heldBy u = true := by
  simp [State.grantedBy, and_assoc]

section
variable (w : Work) (u r : Nat) (g : List Nat)

theorem Work.takeGrant_spec : (w.takeGrant u r g).map = (w.markGranted u r (w.toState.grantedBy u g)).map ∧
    (w.takeGrant u r g).hc.promises = (w.markGranted u r (w.toState.grantedBy u g)).hc.promises ∧
    (w.takeGrant u r g).hc.lastRefusal = some (yieldReasonOf r) ∧
    (w.takeGrant u r g).hc.request = (if w.toState.awaits u then none else w.hc.request) ∧
    (w.takeGrant u r g).lc = w.lc ∧ (w.takeGrant u r g).considerClaim = w.considerClaim ∧
    (w.takeGrant u r g).before = w.before ∧ (w.takeGrant u r g).bu = w.bu ∧ w.appliesTo (w.takeGrant u r g) := by
  have haw : (w.markGranted u r (w.toState.grantedBy u g)).toState.awaits u = w.toState.awaits u := rfl
  unfold Work.takeGrant
  dsimp only
  rw [haw]
  split <;> exact ⟨rfl, rfl, rfl, rfl, rfl, rfl, rfl, rfl, ⟨rfl, rfl, rfl, rfl⟩, rfl, rfl, rfl, rfl, rfl, rfl, rfl, rfl⟩

end

/-- The entry of the sender is set after the frame has been heard. -/
theorem State.Hearing.withPeer {s : State} {u : Nat} {x : Peer} {w : Work} (h : s.Hearing u x w) {y : Peer}
    (hy : y.heardPlain s.now = y) : s.Hearing u y (w.withPeer u y) := by
  refine ⟨h.outer, h.map, h.bu, h.ae, h.ci, h.hc, ?_, h.mc, h.lc, h.ending, h.startAt, h.before, h.conflictLost⟩
  rw [Work.withPeer]
  dsimp only
  rw [h.ptu, List.set_set, hy]

theorem hearing_considerClaim (s : State) (u : Nat) (f : Frame) : (s.hearing u f).considerClaim = false := by
  unfold State.hearing
  dsimp only
  split <;> simp [State.begin]

theorem awaits_iff (s : State) (u : Nat) : s.awaits u = true ↔ s.hc.request.map Request.target = some u := by
  cases h : s.hc.request <;> simp [State.awaits, h]

/-- Where only quanta that the map shows Held have changed, none has become Free. -/
theorem Work.madeFree_markGranted {w : Work} (h : w.before.map = w.map) (u r : Nat) (qs : List Nat) :
    (w.markGranted u r qs).madeFree = false := by
  unfold Work.madeFree
  rw [List.any_eq_false]
  rintro ⟨a, b⟩ hab
  obtain ⟨i, hi⟩ := List.mem_iff_getElem?.1 hab
  rw [List.getElem?_zip_eq_some] at hi
  obtain ⟨ha, hb⟩ := hi
  have hentry := w.entry_markGranted u r qs i
  have hea : w.toState.entry i = a := by simp [State.entry, ← h, List.getD, show w.before.map[i]? = some a from ha]
  have heb : (w.markGranted u r qs).toState.entry i = b := by simp [State.entry, List.getD, hb]
  rw [hea, heb] at hentry
  subst hentry
  by_cases hq : i ∈ qs ∧ i < w.map.length
  · simp [hq]
  · cases a <;> simp [hq]

/-- Of an entry heard as a plain frame only the time and the state change, so that what R97 sets in it stays. -/
theorem Peer.answered_settled (x : Peer) (now : Nat) (why : Option YieldReason) :
    ({ x.heardPlain now with unanswered := 0, lastRefusal := why } : Peer).heardPlain now =
      { x.heardPlain now with unanswered := 0, lastRefusal := why } := by
  unfold Peer.heardPlain
  cases x.state <;> simp

theorem State.Hearing.working {s : State} {u : Nat} {x : Peer} {w : Work} (h : s.Hearing u x w) :
    w.toState.working = s.working := by
  have hm : w.mc.mode = if s.mc.mode = .isolated then .active else s.mc.mode := by rw [h.mc]
  rw [State.working, State.working, hm]
  cases s.mc.mode <;> rfl

theorem byte_own {s : State} (h : s.own < 32) : (BitVec.ofNat 8 s.own).toNat = s.own := by
  rw [BitVec.toNat_ofNat]
  omega

section
variable {s : State} {u : Nat} {x : Peer} {w : Work} (h : s.Hearing u x w) (hcalm : s.calm)
include h hcalm

/-- What the end of the step makes of an answer that is taken. -/
theorem State.Hearing.grant_request (hfree : w.considerClaim = false) (r : Nat) (g : List Nat) :
    (s.hc.request.map Request.target = some u → (w.takeGrant u r g).finish.hc.request.all (fun m => m.echoAt.isNone) = true ∧
      (s.hasQueued .yieldReq = true → (w.takeGrant u r g).finish.hc.request = none ∧
        (w.takeGrant u r g).finish.hasQueued .yieldReq = true)) ∧
    (∀ k ∈ s.hc.request, k.target ≠ u → (w.takeGrant u r g).finish.hc.request.map
        (fun m => (m.target, m.disp, m.count, m.listed, m.echoAt, m.answered)) =
      some (k.target, k.disp, k.count, k.listed, k.echoAt, k.answered)) := by
  obtain ⟨hmap, -, -, hreq, hlc, hcc, hbefore, -, happ⟩ := w.takeGrant_spec u r g
  obtain ⟨-, -, -, -, -, -, flc, fhc, -⟩ := (h.rests happ hcalm).blocks
  have hwreq : w.hc.request = s.hc.request := by rw [h.hc]
  have haw : w.toState.awaits u = s.awaits u := by simp only [State.awaits, hwreq]
  rw [haw, hwreq] at hreq
  refine ⟨fun ht => ?_, fun k hk hne => ?_⟩
  · rw [if_pos ((awaits_iff s u).2 ht)] at hreq
    rw [fhc]
    refine ⟨Work.holdingsProgress_unechoed (by rw [hreq]; rfl), fun hq => ?_⟩
    have hqw : (w.takeGrant u r g).toState.hasQueued .yieldReq = true := by
      rw [State.hasQueued, hlc, h.lc]
      exact hq
    have hmade : (w.takeGrant u r g).madeFree = false := by
      have := w.madeFree_markGranted (by rw [h.before, h.map]) u r (w.toState.grantedBy u g)
      rw [Work.madeFree, hmap, hbefore]
      exact this
    obtain ⟨hr, hl⟩ := Work.holdingsProgress_unasked hreq hqw (hcc.trans hfree) hmade
    refine ⟨hr, ?_⟩
    rw [State.hasQueued, flc, hl]
    exact hqw
  · rw [if_neg (by rw [awaits_iff, hk]; simpa using hne)] at hreq
    rw [fhc]
    exact Work.holdingsProgress_asks (hreq.trans hk)

/-- The marks of an answer that is taken, and its promise. -/
theorem State.Hearing.grant_marks (r : Nat) (g : List Nat) :
    (∀ q, (w.takeGrant u r g).finish.entry q =
      if q ∈ g ∧ q < s.conf.bCfg ∧ (s.entry q).heldBy u = true then .held u true else s.entry q) ∧
    (∀ q ∈ g, q < s.conf.bCfg → (s.entry q).heldBy u = true →
      { donor := u, quanta := s.grantedBy u g, expiry := s.now + 2500 } ∈ (w.takeGrant u r g).finish.hc.promises) := by
  obtain ⟨hmap, hprom, -, -, -, -, -, -, happ⟩ := w.takeGrant_spec u r g
  have hrest := h.rests happ hcalm
  have hgr : w.toState.grantedBy u g = s.grantedBy u g := by
    simp only [State.grantedBy, State.listedQuanta, h.conf, h.entry]
  have hent : ∀ q, (w.takeGrant u r g).toState.entry q =
      if q ∈ g ∧ q < s.conf.bCfg ∧ (s.entry q).heldBy u = true then .held u true else s.entry q := fun q => by
    rw [entry_eq_of_map _ _ hmap, w.entry_markGranted, h.entry, h.map]
    simp only [hgr, State.mem_grantedBy]
    by_cases hq : q < s.map.length
    · simp [hq]
    · simp [hq, entry_ge s q (Nat.le_of_not_lt hq), QEntry.heldBy]
  refine ⟨fun q => (hrest.entry q).trans (hent q), fun q hq hc hheld => ?_⟩
  obtain ⟨-, -, -, -, -, -, -, fhc, -⟩ := hrest.blocks
  have hin : q ∈ s.grantedBy u g := (s.mem_grantedBy u g q).2 ⟨hq, hc, hheld⟩
  have hnow : w.now = s.now := h.outer.1
  rw [fhc, Work.holdingsProgress_promises, hprom, List.mem_filter]
  refine ⟨?_, List.any_eq_true.2 ⟨q, hin, ?_⟩⟩
  · simp only [Work.markGranted, hgr, List.isEmpty_iff, if_neg (List.ne_nil_of_mem hin), hnow]
    exact List.mem_append_right _ (List.mem_singleton.2 rfl)
  · rw [hent, if_pos ⟨hq, hc, hheld⟩]
    simp

end

/-- Settles O31: what an answer grants is marked and promised, the request it answers ends, and no other goes out while its
YIELD-REQ is queued. -/
theorem yieldAnswerHeardMarksThePromise : Obligations.YieldAnswerHeardMarksThePromise := by
  refine ⟨fun u n r p x s hh hcalm hn hp hown hwork =>
      ⟨_, by rw [exec_yieldAns, heard_applies hh (parsePayload_yieldAns hn hp)], ?_⟩,
    fun u n r p x s hh hcalm hn hp hown hwork =>
      ⟨_, by rw [exec_yieldAns, heard_applies hh (parsePayload_yieldAns hn hp)], ?_⟩⟩
  all_goals
    obtain ⟨-, -, -, hux⟩ := hh
    rw [byte_own hown]
    have hw := hearing_spec (f := .yieldAns s.own r.toNat (quantaOf p)) rfl hux
    have hcc := hearing_considerClaim s u.toNat (.yieldAns s.own r.toNat (quantaOf p))
    generalize s.hearing u.toNat (.yieldAns s.own r.toNat (quantaOf p)) = w at hw hcc ⊢
    have hy : w.ptu.entries[u.toNat]? = some (x.heardPlain s.now) := by
      rw [hw.ptu]
      exact List.getElem?_set_self (List.getElem?_eq_some_iff.1 hux).1
    have hlt : u.toNat < s.ptu.entries.length := (List.getElem?_eq_some_iff.1 hux).1
    rw [← hw.own, Work.applyFrame_yieldAns]
  · rw [Work.takeAnswer_working hy (hw.working.trans hwork)]
    have hv := hw.withPeer (Peer.answered_settled x s.now (some (yieldReasonOf r.toNat)))
    generalize hveq : w.withPeer u.toNat _ = v at hv ⊢
    have hcv : v.considerClaim = false := hveq ▸ hcc
    obtain ⟨-, -, hlast, -, -, -, -, hbu, happ⟩ := v.takeGrant_spec u.toNat r.toNat (quantaOf p)
    have hrest := hv.rests happ hcalm
    obtain ⟨-, fbu, -, -, -, -, -, -, -⟩ := hrest.blocks
    obtain ⟨hentry, hprom⟩ := hv.grant_marks hcalm r.toNat (quantaOf p)
    obtain ⟨hmine, hother⟩ := hv.grant_request hcalm hcv r.toNat (quantaOf p)
    refine ⟨fun q _ => hentry q, ?_, ?_, fun q hq hc hheld => ?_, fun ht => (hmine ht).1, fun ht hq => (hmine ht).2 hq,
      fun k hk hne => ?_, fbu.trans (hbu.trans hv.bu), hv.heardFrom happ hcalm⟩
    · rw [Work.sender_after hv happ hcalm hux (Peer.answered_settled _ _ _)]
      unfold Peer.heardPlain
      cases x.state <;> simp
    · rw [hrest.holdings]
      exact hlast
    · refine List.any_eq_true.2 ⟨_, hprom q hq hc hheld, ?_⟩
      simpa [State.mem_grantedBy, and_assoc] using ⟨hq, hc, hheld⟩
    · have := congrArg (Option.map fun a => (a.1, a.2.1, a.2.2.1, a.2.2.2.1, a.2.2.2.2.1)) (hother k hk hne)
      simpa [Option.map_map, Function.comp_def] using this
  · rw [Work.takeAnswer_ignored hy (hw.working.trans hwork)]
    have hset : ({ x.heardPlain s.now with unanswered := 0 } : Peer).heardPlain s.now =
        { x.heardPlain s.now with unanswered := 0 } := Peer.answered_settled x s.now x.lastRefusal
    have hv := hw.withPeer hset
    generalize w.withPeer u.toNat _ = v at hv ⊢
    have happ : v.appliesTo (v.noteAnswer u.toNat) :=
      ⟨⟨rfl, rfl, rfl, rfl⟩, rfl, rfl, rfl, rfl, rfl, rfl, rfl, rfl⟩
    have hrest := hv.rests happ hcalm
    obtain ⟨-, fbu, fmap, -, -, -, -, fhc, -⟩ := hrest.blocks
    refine ⟨fmap.trans hv.map, ?_, fun k hk ht => ?_, fbu.trans hv.bu, hv.heardFrom happ hcalm⟩
    · rw [Work.sender_after hv happ hcalm hux hset]
      rfl
    · have hreq : (v.noteAnswer u.toNat).hc.request = some { k with answered := true } := by
        unfold Work.noteAnswer
        dsimp only
        rw [hv.hc]
        simp [show s.hc.request = some k from hk, ht]
      rw [fhc]
      have := congrArg (Option.map fun a => a.2.2.2.2.2) (Work.holdingsProgress_asks hreq)
      simpa [Option.map_map, Function.comp_def] using this

end Sys2Proof.Machine
end

section
/-! SUPPORT. What the end of a step places in the queue, and the frames that come back to it (R102, R103). -/

namespace Sys2Proof.Machine

/-! ## The frames that the end of a step places -/

/-- The sweep has put no frame in the queue, or one for which a request is outstanding. -/
def Work.sentOnce (l : Link) (v : Work) : Prop :=
  v.lc = l ∨ v.hc.request.isSome = true ∧ ∃ f, kindOf f = .yieldReq ∧ v.lc = l.place f

theorem Work.sendRequest_sentOnce {l : Link} {w : Work} (h : w.lc = l) (t : Nat) (d : Disposition) (c : Nat) (qs : List Nat) :
    (w.sendRequest t d c qs).sentOnce l := by
  obtain ⟨v, hv, hlc, hreq⟩ : ∃ v : Work, w.sendRequest t d c qs = v.enqueue (.yieldReq t c d qs) ∧ v.lc = w.lc ∧
      v.hc.request.isSome = true := ⟨_, rfl, rfl, rfl⟩
  rw [hv]
  refine (v.enqueue_lc (.yieldReq t c d qs)).imp (fun e => e.trans (hlc.trans h)) fun e => ⟨by simpa using hreq, .yieldReq t c d qs, rfl, ?_⟩
  rw [e, hlc, h]
  rfl

theorem Work.sweepMove_sentOnce {l : Link} {w : Work} (h : w.sentOnce l) : w.sweepMove.sentOnce l := by
  have hend : w.endSweep.sentOnce l := by
    unfold Work.sentOnce at *
    simpa using h
  unfold Work.sweepMove
  dsimp only
  split
  · exact h
  · split
    · exact hend
    · split
      · exact h
      · rename_i hno
        have hl : w.lc = l := h.resolve_right fun hs => hno (by rw [hs.1]; rfl)
        split
        · exact .inl hl
        · split
          · exact Work.sendRequest_sentOnce (by exact hl) _ _ _ _
          · exact .inl hl
        · exact hend
        · split
          · exact .inl hl
          · exact Work.sendRequest_sentOnce (by exact hl) _ _ _ _

theorem Work.sweepProgress_sentOnce (w : Work) : w.sweepProgress.sentOnce w.lc := by
  unfold Work.sweepProgress
  split
  · unfold Work.sweepRun
    refine foldl_induct (Work.sentOnce w.lc) _ (fun v _ hv => Work.sweepMove_sentOnce hv) _ _ (.inl ?_)
    unfold Work.considerSweep
    dsimp only
    split <;> rfl
  · split <;> exact .inl rfl

theorem Work.considerClaiming_places (w : Work) :
    w.considerClaiming.lc = w.lc ∨ ∃ f, kindOf f = .claim ∧ w.considerClaiming.lc = w.lc.place f := by
  unfold Work.considerClaiming
  dsimp only
  split
  · rename_i h
    refine (Work.enqueue_lc _ (.claim _)).imp id fun e => ⟨_, rfl, e⟩
  · exact .inl rfl

/-- The frames are CLAIMs and YIELD-REQs, two at most. -/
def asksAndClaims (fs : List Frame) : Prop := fs.length ≤ 2 ∧ ∀ f ∈ fs, kindOf f = .claim ∨ kindOf f = .yieldReq

/-- The end of a step places a CLAIM and a YIELD-REQ at most (R91, R93). -/
theorem Work.holdingsProgress_places (w : Work) : ∃ fs, asksAndClaims fs ∧ w.holdingsProgress.lc = fs.foldl Link.place w.lc := by
  obtain ⟨v, hv, hl, -, -⟩ := w.holdingsProgress_eq
  rw [hv, ← hl]
  rcases v.considerClaiming_places with hc | ⟨c, hc, hplace⟩ <;>
    rcases v.considerClaiming.sweepProgress_sentOnce with hs | ⟨-, f, hf, hs⟩
  · exact ⟨[], ⟨by simp, by simp⟩, hs.trans hc⟩
  · exact ⟨[f], ⟨by simp, by simp [hf]⟩, by rw [hs, hc]; rfl⟩
  · exact ⟨[c], ⟨by simp, by simp [hc]⟩, by rw [hs, hplace]; rfl⟩
  · exact ⟨[c, f], ⟨by simp, by simp [hc, hf]⟩, by rw [hs, hplace]; rfl⟩

/-- The queue after a step that concludes nothing. -/
theorem Work.rests.places {w : Work} (h : w.rests) : ∃ fs, asksAndClaims fs ∧ w.finish.lc = fs.foldl Link.place w.lc := by
  obtain ⟨-, -, -, -, -, -, hlc, -, -⟩ := h.blocks
  rw [hlc]
  exact w.holdingsProgress_places

/-! ## Frames that stay in the queue -/

/-- A frame of class 0 to 3 keeps its place in the queue (R104). -/
theorem Link.mem_queue_place {l : Link} (h : l.fresh) (f : Frame) {x : QFrame} (hx : x ∈ l.queue) (hc : classOf x.frame ≠ 4) :
    x ∈ (l.place f).queue := by
  unfold Link.place
  dsimp only
  split
  · exact (mem_insertFrame _ _ _).2 (.inr hx)
  · split
    · exact hx
    · split
      · rename_i y hy
        have hp := List.find?_some hy
        have hm : y ∈ l.queue := List.mem_reverse.1 (List.mem_of_find?_eq_some hy)
        simp only [Bool.and_eq_true, beq_iff_eq] at hp
        have hne : x.id ≠ y.id := fun he => hc (by
          rw [List.inj_on_of_nodup_map h.1 (List.mem_append_left _ hx) (List.mem_append_left _ hm) he]
          exact hp.1)
        exact (mem_insertFrame _ _ _).2 (.inr (List.mem_filter.2 ⟨hx, by simpa using hne⟩))
      · exact hx

/-- A frame there is after another has been placed stood there before, or is that one. -/
theorem Link.mem_of_place {l : Link} {f : Frame} {y : QFrame} (h : y ∈ (l.place f).queue ++ (l.place f).waiting) :
    y ∈ l.queue ++ l.waiting ∨ y.id = l.nextId ∧ y.frame = f := by
  unfold Link.place at h
  dsimp only at h
  (repeat' split at h) <;> simp only [List.mem_append, mem_insertFrame, List.mem_filter] at h ⊢
  · rcases h with (rfl | h) | h
    · exact .inr ⟨rfl, rfl⟩
    · exact .inl (.inl h)
    · exact .inl (.inr h)
  · exact .inl h
  · rcases h with (rfl | ⟨h, -⟩) | h
    · exact .inr ⟨rfl, rfl⟩
    · exact .inl (.inl h)
    · exact .inl (.inr h)
  · rcases h with h | rfl | h
    · exact .inl (.inl h)
    · exact .inr ⟨rfl, rfl⟩
    · exact .inl (.inr h)

theorem Link.place_nextId (l : Link) (f : Frame) : (l.place f).nextId = l.nextId + 1 := by
  unfold Link.place
  dsimp only
  (repeat' split) <;> rfl

section
variable (fs : List Frame)

theorem Link.mem_queue_placeAll {l : Link} (h : l.fresh) {x : QFrame} (hx : x ∈ l.queue) (hc : classOf x.frame ≠ 4) :
    x ∈ (fs.foldl Link.place l).queue := by
  induction fs generalizing l with
  | nil => exact hx
  | cons f fs ih => exact ih (l.place_fresh h f) (Link.mem_queue_place h f hx hc)

theorem Link.mem_of_placeAll {l : Link} {y : QFrame}
    (h : y ∈ (fs.foldl Link.place l).queue ++ (fs.foldl Link.place l).waiting) :
    y ∈ l.queue ++ l.waiting ∨ l.nextId ≤ y.id ∧ y.frame ∈ fs := by
  induction fs generalizing l with
  | nil => exact .inl h
  | cons f fs ih =>
    rcases ih h with hold | ⟨hid, hmem⟩
    · rcases Link.mem_of_place hold with hold | ⟨hid, hfr⟩
      · exact .inl hold
      · exact .inr ⟨hid.ge, hfr ▸ List.mem_cons_self⟩
    · rw [Link.place_nextId] at hid
      exact .inr ⟨by omega, List.mem_cons_of_mem _ hmem⟩

/-- With room for all of them no frame is displaced. -/
theorem Link.mem_queue_placeAll_room {l : Link} (h : l.queue.length + fs.length ≤ 8) {x : QFrame} (hx : x ∈ l.queue) :
    x ∈ (fs.foldl Link.place l).queue := by
  induction fs generalizing l with
  | nil => exact hx
  | cons f fs ih =>
    rw [List.length_cons] at h
    have hroom : l.queue.length < Config.queuePlaces := by
      change l.queue.length < 8
      omega
    have hplace : (l.place f).queue = insertFrame { id := l.nextId, frame := f, retry := 0 } l.queue := by
      unfold Link.place
      dsimp only
      rw [if_pos hroom]
    refine ih ?_ ?_
    · rw [hplace, insertFrame_length]
      omega
    · rw [hplace, mem_insertFrame]
      exact .inr hx

end

theorem Link.mem_queue_promote {l : Link} {x : QFrame} (h : x ∈ l.queue) : x ∈ l.promote.queue :=
  (foldl_insertFrame_perm _ _).mem_iff.2 (List.mem_append_left _ h)

/-! ## A frame that comes back -/

section
variable {l : Link} {id : Nat} {x : QFrame} (hx : l.queue.find? (fun y => y.id == id) = some x)
include hx

theorem Link.returned_plain (hk : kindOf x.frame ∉ [FrameKind.report, .budget, .contest]) : l.returned id = l := by
  unfold Link.returned
  rw [hx]
  cases hf : x.frame <;> simp_all [kindOf]

theorem Link.returned_report (hk : kindOf x.frame = .report ∨ kindOf x.frame = .budget) :
    l.returned id = l.supersede id (kindOf x.frame) := by
  unfold Link.returned
  rw [hx]
  cases hf : x.frame <;> simp_all [kindOf]

theorem Link.returned_contest {qs : List Nat} (hk : x.frame = .contest qs) : l.returned id = l.contestOnce id qs := by
  unfold Link.returned
  rw [hx]
  simp [hk]

/-- With no newer frame of its kind a frame that is no CONTEST comes back to the queue as it was (R103). -/
theorem Link.returned_alone (hk : kindOf x.frame ∉ [FrameKind.report, .budget, .contest] ∨ (kindOf x.frame ≠ .contest ∧
    (l.queue ++ l.waiting).find? (fun y => y.id != id && kindOf y.frame == kindOf x.frame) = none)) : l.returned id = l := by
  by_cases hr : kindOf x.frame ∈ [FrameKind.report, .budget, .contest]
  · obtain ⟨hne, hnone⟩ := hk.resolve_left (not_not_intro hr)
    rw [Link.returned_report hx (by simpa [hne] using hr), Link.supersede, hnone]
  · exact Link.returned_plain hx hr

theorem Link.returned_newer (hk : kindOf x.frame = .report ∨ kindOf x.frame = .budget) {z : QFrame}
    (hz : (l.queue ++ l.waiting).find? (fun y => y.id != id && kindOf y.frame == kindOf x.frame) = some z) :
    l.returned id = l.yieldPlace id z := by
  rw [Link.returned_report hx hk, Link.supersede, hz]

end

section
variable {l : Link} {id : Nat} {x z : QFrame}

/-- The newer frame takes the place by age of the one that comes back (R103). -/
theorem Link.mem_yieldPlace (hx : x ∈ l.queue) (hid : x.id = id) (hz : z.id ≠ id) :
    { x with frame := z.frame, retry := 0 } ∈ (l.yieldPlace id z).queue := by
  refine Link.mem_queue_promote (List.mem_map.2 ⟨x, List.mem_filter.2 ⟨hx, ?_⟩, if_pos hid⟩)
  simpa [hid] using Ne.symm hz

theorem Link.yieldPlace_gone {f : QFrame} (hf : f ∈ (l.yieldPlace id z).queue ++ (l.yieldPlace id z).waiting) : f.id ≠ z.id := by
  have hin := (Link.promote_perm _).mem_iff.1 hf
  rcases List.mem_append.1 hin with hq | hw
  · obtain ⟨y, hy, rfl⟩ := List.mem_map.1 hq
    have hne : y.id ≠ z.id := by simpa using (List.mem_filter.1 hy).2
    split <;> exact hne
  · simpa using (List.mem_filter.1 hw).2

theorem Link.yieldPlace_length (hz : z ∈ l.queue) (hw : l.waiting = []) :
    (l.yieldPlace id z).queue.length + 1 ≤ l.queue.length := by
  have hlt : (l.queue.filter fun y => y.id ≠ z.id).length < l.queue.length :=
    List.length_filter_lt_length_iff_exists.2 ⟨z, hz, by simp⟩
  have hlen : (l.yieldPlace id z).queue.length = (l.queue.filter fun y => y.id ≠ z.id).length := by
    unfold Link.yieldPlace Link.promote
    simp [hw]
  omega

/-- Frames but those of the kind that is replaced stay. -/
theorem Link.mem_yieldPlace_iff (hf : l.fresh) (hz : z ∈ l.queue ++ l.waiting) {k : FrameKind} (hzk : kindOf z.frame ≠ k)
    (hx : x ∈ l.queue) (hid : x.id = id) (hxk : kindOf x.frame ≠ k) {y : QFrame} (hy : kindOf y.frame = k) :
    y ∈ (l.yieldPlace id z).queue ++ (l.yieldPlace id z).waiting ↔ y ∈ l.queue ++ l.waiting := by
  have hinj : ∀ {a b : QFrame}, a ∈ l.queue ++ l.waiting → b ∈ l.queue ++ l.waiting → a.id = b.id → a = b := fun ha hb he =>
    List.inj_on_of_nodup_map hf.1 ha hb he
  refine (Link.promote_perm _).mem_iff.trans ⟨fun h => ?_, fun h => ?_⟩
  · rcases List.mem_append.1 h with hq | hw
    · obtain ⟨a, ha, rfl⟩ := List.mem_map.1 hq
      split at hy
      · exact absurd hy hzk
      · rename_i hne
        rw [if_neg hne]
        exact List.mem_append_left _ (List.mem_filter.1 ha).1
    · exact List.mem_append_right _ (List.mem_filter.1 hw).1
  · have hyz : y.id ≠ z.id := fun he => hzk (hinj h hz he ▸ hy)
    have hyx : y.id ≠ id := fun he => hxk (hinj h (List.mem_append_left _ hx) (he.trans hid.symm) ▸ hy)
    refine List.mem_append.2 ((List.mem_append.1 h).imp (fun hq => List.mem_map.2 ⟨y, List.mem_filter.2 ⟨hq, ?_⟩, if_neg hyx⟩)
      fun hw => List.mem_filter.2 ⟨hw, ?_⟩)
    · simpa using hyz
    · simpa using hyz

/-! ### CONTESTs -/

/-- What comes of one frame where the quanta of a CONTEST leave the others (R103). -/
def QFrame.cleaned (id : Nat) (qs : List Nat) (y : QFrame) : Option QFrame := if y.id = id then some y else y.withoutQuanta qs

theorem Link.contestOnce_mem {qs : List Nat} {y : QFrame} :
    y ∈ (l.contestOnce id qs).queue ++ (l.contestOnce id qs).waiting ↔
      ∃ a ∈ l.queue ++ l.waiting, a.cleaned id qs = some y := by
  refine (Link.promote_perm _).mem_iff.trans ?_
  rw [← List.filterMap_append, List.mem_filterMap]
  rfl

theorem Link.mem_contestOnce {qs : List Nat} (hx : x ∈ l.queue) (hid : x.id = id) : x ∈ (l.contestOnce id qs).queue :=
  Link.mem_queue_promote (List.mem_filterMap.2 ⟨x, hx, if_pos hid⟩)

theorem QFrame.withoutQuanta_contest {qs ps : List Nat} (hx : x.frame = .contest ps) {y : QFrame}
    (h : x.withoutQuanta qs = some y) : y.frame = .contest (ps.filter fun q => !qs.contains q) := by
  unfold QFrame.withoutQuanta at h
  rw [hx] at h
  dsimp only at h
  split at h
  · cases h
  · rename_i hr
    cases h
    rfl

theorem QFrame.withoutQuanta_other {qs : List Nat} (hx : kindOf x.frame ≠ .contest) : x.withoutQuanta qs = some x := by
  unfold QFrame.withoutQuanta
  cases hf : x.frame <;> simp_all [kindOf]

/-- No other CONTEST lists a quantum of the one that comes back. -/
theorem Link.contestOnce_apart {qs ps : List Nat} {f : QFrame}
    (hf : f ∈ (l.contestOnce id qs).queue ++ (l.contestOnce id qs).waiting) (hid : f.id ≠ id) (hp : f.frame = .contest ps) :
    ∀ q ∈ ps, q ∉ qs := by
  obtain ⟨a, -, ha⟩ := Link.contestOnce_mem.1 hf
  unfold QFrame.cleaned at ha
  split at ha
  · rename_i he
    cases ha
    exact absurd he hid
  · cases hk : a.frame with
    | contest rs =>
      rw [QFrame.withoutQuanta_contest hk ha] at hp
      cases hp
      intro q hq
      simpa using (List.mem_filter.1 hq).2
    | _ =>
      rw [QFrame.withoutQuanta_other (by simp [hk, kindOf])] at ha
      cases ha
      rw [hk] at hp
      cases hp

/-- What was contested stays so. -/
theorem Link.contestOnce_contests {qs : List Nat} (hx : x ∈ l.queue) (hid : x.id = id) (hq : x.frame = .contest qs) {q : Nat}
    (h : l.has (Frame.contestOf q)) : (l.contestOnce id qs).has (Frame.contestOf q) := by
  obtain ⟨a, ha, hp⟩ := h
  by_cases hin : q ∈ qs
  · exact ⟨x, List.mem_append_left _ (Link.mem_contestOnce hx hid), by rw [hq]; simpa [Frame.contestOf] using hin⟩
  · cases hk : a.frame with
    | contest rs =>
      have hr : q ∈ rs := by simpa [hk, Frame.contestOf] using hp
      by_cases hai : a.id = id
      · exact ⟨a, Link.contestOnce_mem.2 ⟨a, ha, if_pos hai⟩, hp⟩
      · have hmem : q ∈ rs.filter fun q => !qs.contains q := List.mem_filter.2 ⟨hr, by simpa using hin⟩
        have hclean : a.cleaned id qs = some { a with frame := .contest (rs.filter fun q => !qs.contains q) } := by
          rw [QFrame.cleaned, if_neg hai]
          unfold QFrame.withoutQuanta
          rw [hk]
          dsimp only
          split
          · rename_i hnil
            rw [hnil] at hmem
            cases hmem
          · rfl
        exact ⟨_, Link.contestOnce_mem.2 ⟨a, ha, hclean⟩, by simpa [Frame.contestOf] using hmem⟩
    | _ => simp [hk, Frame.contestOf] at hp

end

/-! ### The three ways of coming back -/

section
variable {l : Link} {id : Nat} {x : QFrame} (hf : l.fresh) (hx : l.queue.find? (fun y => y.id == id) = some x)
include hf hx

/-- The RELEASEs are as they were. -/
theorem Link.returned_releases {y : QFrame} (hxk : kindOf x.frame ≠ .release) (hy : kindOf y.frame = .release) :
    y ∈ (l.returned id).queue ++ (l.returned id).waiting ↔ y ∈ l.queue ++ l.waiting := by
  have hmem := List.mem_of_find?_eq_some hx
  have hid : x.id = id := by simpa using List.find?_some hx
  by_cases hr : kindOf x.frame = .report ∨ kindOf x.frame = .budget
  · cases hz : (l.queue ++ l.waiting).find? (fun y => y.id != id && kindOf y.frame == kindOf x.frame) with
    | none =>
      rw [Link.returned_alone hx (.inr ⟨by rcases hr with h | h <;> simp [h], hz⟩)]
    | some z =>
      have hzk := List.find?_some hz
      simp only [Bool.and_eq_true, beq_iff_eq] at hzk
      rw [Link.returned_newer hx hr hz]
      exact Link.mem_yieldPlace_iff hf (List.mem_of_find?_eq_some hz) (by rw [hzk.2]; exact hxk) hmem hid hxk hy
  · cases hk : x.frame with
    | contest qs =>
      rw [Link.returned_contest hx hk, Link.contestOnce_mem]
      refine ⟨fun ⟨a, ha, hc⟩ => ?_, fun h => ⟨y, h, ?_⟩⟩
      · unfold QFrame.cleaned at hc
        split at hc
        · cases hc
          exact ha
        · by_cases hak : kindOf a.frame = .contest
          · cases haf : a.frame <;> simp_all [kindOf]
            rw [QFrame.withoutQuanta_contest haf hc] at hy
            cases hy
          · rw [QFrame.withoutQuanta_other hak] at hc
            cases hc
            exact ha
      · rw [QFrame.cleaned, QFrame.withoutQuanta_other (by simp [hy])]
        split <;> rfl
    | _ =>
      rw [Link.returned_plain hx (by simp_all [kindOf])]

end

end Sys2Proof.Machine
end

section
/-! SUPPORT. Isolation and muting (O46): every quantum that is not an own home quantum is given up. -/

namespace Sys2Proof.Machine

/-! ## The quanta that are not own home quanta -/

/-- What isolation makes of entry `q` (R156, R158). -/
def State.isolatedEntry (s : State) (q : Nat) : QEntry := if s.ownHome q then s.entry q else s.drainedFor .isolation q

/-- Mine and Pending quanta that are not own home quanta are given up (R156, R158). -/
def Work.giveUpForeign (w : Work) (b : Bool) : Work :=
  (w.drainMine .isolation w.toState.foreign).giveUpPending b (w.toState.settling.filter w.toState.foreign)

/-- Every Pending quantum settles. -/
def State.pendingListed (s : State) : Prop := ∀ q, s.entry q = .pending → q ∈ s.settling

theorem Work.entry_giveUpForeign {w : Work} (hp : w.toState.pendingListed) (b : Bool) (q : Nat) :
    (w.giveUpForeign b).toState.entry q = w.toState.isolatedEntry q := by
  have hvacant : (w.drainMine .isolation w.toState.foreign).toState.vacant q = w.toState.vacant q := rfl
  rw [Work.giveUpForeign, Work.entry_giveUpPending, Work.entry_drainMine, hvacant]
  unfold State.isolatedEntry State.drainedFor State.foreign
  cases hown : w.toState.ownHome q with
  | true => cases he : w.toState.entry q <;> simp [hown]
  | false =>
    cases he : w.toState.entry q with
    | pending => simp [hown, hp q he]
    | _ => simp [hown]

theorem State.isolatedEntry_congr {s t : State} {q : Nat} (hcpi : t.cpi = s.cpi) (hbu : t.bu = s.bu)
    (he : t.entry q = s.entry q) : t.isolatedEntry q = s.isolatedEntry q := by
  have hown : t.ownHome q = s.ownHome q := by simp only [State.ownHome, State.conf, State.own, hcpi]
  have hvacant : t.vacant q = s.vacant q := by simp only [State.vacant, hbu]
  rw [State.isolatedEntry, State.isolatedEntry, State.drainedFor, State.drainedFor, hown, hvacant, he]

/-! ## ISOLATED -/

section
variable (w : Work)

theorem Work.setMode_settling (m : Mode) : (w.setMode m).toState.settling = w.toState.settling :=
  settling_congr (by rw [Work.setMode_hc])

theorem Work.setMode_entry (m : Mode) (q : Nat) : (w.setMode m).toState.entry q = w.toState.entry q :=
  entry_eq_of_map (w.setMode m).toState w.toState (by simp) q

variable {w} in
theorem Work.setMode_pendingListed (hp : w.toState.pendingListed) (m : Mode) : (w.setMode m).toState.pendingListed := fun q => by
  rw [Work.setMode_entry, Work.setMode_settling]
  exact hp q

theorem Work.setMode_isolatedEntry (m : Mode) (q : Nat) :
    (w.setMode m).toState.isolatedEntry q = w.toState.isolatedEntry q :=
  State.isolatedEntry_congr (by simp) (by simp) (w.setMode_entry m q)

theorem Work.enterIsolated_eq : w.enterIsolated =
    ((w.setMode .isolated).giveUpForeign true).removeQueuedClaim.removeQueuedRequest.endSweep := by
  unfold Work.enterIsolated
  generalize w.setMode .isolated = v
  rfl

variable {w} in
/-- One entry after the entry to ISOLATED (R156). -/
theorem Work.entry_enterIsolated (hp : w.toState.pendingListed) (q : Nat) :
    w.enterIsolated.toState.entry q = w.toState.isolatedEntry q := by
  rw [Work.enterIsolated_eq, entry_eq_of_map _ _ Work.endQueued_map,
    Work.entry_giveUpForeign (Work.setMode_pendingListed hp .isolated), Work.setMode_isolatedEntry]

/-! ## MUTED -/

/-- The entry to MUTED up to the removal of frames (R149). -/
def Work.toMuted : Work := (w.setMode .muted).loseFrames removedAtMute

theorem Work.freeLocally_settling (qs : List Nat) : (w.freeLocally qs).toState.settling = w.toState.settling :=
  settling_congr rfl

/-- The entry to MUTED up to the local freeing (R30, R149). -/
def Work.freedMuted : Work := w.toMuted.freeLocally w.toMuted.lc.queuedReleases

theorem Work.enterMuted_eq : w.enterMuted =
    { (w.freedMuted.giveUpForeign false).endSweep with
      lc := { (w.freedMuted.giveUpForeign false).lc with
        muteAt := some ((w.freedMuted.giveUpForeign false).now + (w.freedMuted.giveUpForeign false).lc.muteHold)
        probeDue := false } } := by
  unfold Work.enterMuted Work.freedMuted Work.toMuted
  generalize (w.setMode .muted).loseFrames removedAtMute = v
  rfl

theorem removedAtMute_releases {f : Frame} (h : removedAtMute f = true) : f.releases = [] := by
  cases f with
  | release => cases h
  | _ => rfl

theorem Work.toMuted_lc : w.toMuted.lc = ({ w.lc with tx := .probe } : Link).removeOffLine removedAtMute := by
  rw [Work.toMuted, Work.loseFrames_lc, Work.setMode_lc]
  rfl

theorem Work.toMuted_settling : w.toMuted.toState.settling = w.toState.settling :=
  (Work.loseFrames_settling _ _).trans (w.setMode_settling .muted)

theorem Work.entry_toMuted (q : Nat) : w.toMuted.toState.entry q = w.toState.entry q := by
  rw [Work.toMuted, Work.entry_loseFrames, if_neg, Work.setMode_entry]
  rintro ⟨⟨x, hx, hq⟩, -⟩
  rw [removedAtMute_releases ((Link.mem_offLineFrames _ _ _).1 hx).2.2] at hq
  cases hq

/-- The removal of frames leaves every RELEASE. -/
theorem Work.toMuted_queuedReleases (q : Nat) : q ∈ w.toMuted.lc.queuedReleases ↔ q ∈ w.lc.queuedReleases := by
  rw [mem_queuedReleases, mem_queuedReleases, w.toMuted_lc]
  refine exists_congr fun x => ?_
  rw [Link.mem_removeOffLine]
  refine ⟨fun ⟨h, ho, hq⟩ => ⟨h.1, ho, hq⟩, fun ⟨h, ho, hq⟩ => ⟨⟨h, .inr ?_⟩, ho, hq⟩⟩
  by_contra hr
  rw [removedAtMute_releases (by simpa using hr)] at hq
  cases hq

/-- What the entry to MUTED makes of entry `q` (R30, R158). -/
def State.mutedEntry (s : State) (q : Nat) : QEntry :=
  if s.lc.queuedReleases.contains q ∧ (s.entry q).isDraining = true then s.vacant q else s.isolatedEntry q

theorem Work.entry_freedMuted (q : Nat) : w.freedMuted.toState.entry q =
    if q ∈ w.lc.queuedReleases ∧ (w.toState.entry q).isDraining = true then w.toState.vacant q else w.toState.entry q := by
  have hvacant : w.toMuted.toState.vacant q = w.toState.vacant q := by simp [State.vacant, Work.toMuted]
  rw [Work.freedMuted, Work.entry_freeLocally, Work.entry_toMuted, hvacant]
  exact if_congr (and_congr_left fun _ => w.toMuted_queuedReleases q) rfl rfl

variable {w} in
/-- One entry after the entry to MUTED. -/
theorem Work.entry_enterMuted (hp : w.toState.pendingListed) (q : Nat) :
    w.enterMuted.toState.entry q = w.toState.mutedEntry q := by
  have hp' : w.freedMuted.toState.pendingListed := fun k hk => by
    rw [Work.entry_freedMuted] at hk
    rw [Work.freedMuted, Work.freeLocally_settling, Work.toMuted_settling]
    split at hk
    · exact absurd hk (State.vacant_ne_pending _ _)
    · exact hp k hk
  have hmap : w.enterMuted.map = (w.freedMuted.giveUpForeign false).map := by
    rw [Work.enterMuted_eq]
    generalize w.freedMuted.giveUpForeign false = v
    rfl
  rw [entry_eq_of_map _ _ hmap, Work.entry_giveUpForeign hp', State.mutedEntry]
  simp only [List.contains_iff_mem]
  have hcpi : w.freedMuted.cpi = w.cpi := by simp [Work.freedMuted, Work.toMuted]
  have hbu : w.freedMuted.bu = w.bu := by simp [Work.freedMuted, Work.toMuted]
  by_cases hq : q ∈ w.lc.queuedReleases ∧ (w.toState.entry q).isDraining = true
  · have hvacant : w.freedMuted.toState.entry q = w.toState.vacant q := by rw [Work.entry_freedMuted, if_pos hq]
    rw [if_pos hq, State.isolatedEntry, State.drainedFor, hvacant]
    unfold State.vacant
    (repeat' split) <;> simp_all
  · rw [if_neg hq]
    exact State.isolatedEntry_congr hcpi hbu (by rw [Work.entry_freedMuted, if_neg hq])

theorem Work.giveUpPending_local_lc (qs : List Nat) : (w.giveUpPending false qs).lc = w.lc :=
  foldl_keeps (fun w : Work => w.lc) _ (fun a b => by simp) _ _

theorem Work.giveUpForeign_lc : (w.giveUpForeign false).lc = w.lc := Work.giveUpPending_local_lc _ _

theorem Work.freedMuted_lc : w.freedMuted.lc = w.toMuted.lc := by
  unfold Work.freedMuted
  generalize w.toMuted = v
  rfl

theorem Work.enterMuted_lc : w.enterMuted.lc =
    { w.toMuted.lc with muteAt := some (w.now + w.lc.muteHold), probeDue := false } := by
  have hlc : (w.freedMuted.giveUpForeign false).lc = w.toMuted.lc := (Work.giveUpForeign_lc _).trans w.freedMuted_lc
  have hnow : (w.freedMuted.giveUpForeign false).now = w.now := by simp [Work.giveUpForeign, Work.freedMuted, Work.toMuted]
  have hhold : w.toMuted.lc.muteHold = w.lc.muteHold := by
    rw [w.toMuted_lc]
    rfl
  rw [Work.enterMuted_eq]
  generalize w.freedMuted.giveUpForeign false = v at hlc hnow ⊢
  dsimp only
  rw [hlc, hnow, hhold]

theorem Work.enterMuted_mc : w.enterMuted.mc = (w.setMode .muted).mc := by simp [Work.enterMuted]

theorem Work.enterMuted_sessionEnding : w.enterMuted.toState.sessionEnding = w.toState.sessionEnding := by
  rw [← w.setMode_sessionEnding .muted]
  simp [Work.enterMuted, State.sessionEnding, State.sessState]

/-- The frames left at the entry to MUTED (R149). -/
theorem Work.mem_enterMuted (f : QFrame) : f ∈ w.enterMuted.lc.queue ++ w.enterMuted.lc.waiting ↔
    f ∈ w.lc.queue ++ w.lc.waiting ∧ (w.lc.onLine f = true ∨ removedAtMute f.frame = false) := by
  rw [w.enterMuted_lc, w.toMuted_lc]
  exact Link.mem_removeOffLine _ _ _

end

/-! ## The end of the step -/

section
variable {w : Work} (hcalm : w.toState.calm) (hc : w.conflictLost = [])
include hcalm hc

/-- Outside ACTIVE a step that concludes nothing leaves the queue, and its sweep has ended. -/
theorem Work.rests_outsideActive (hm : w.mc.mode ≠ .active) :
    w.finish.lc = w.lc ∧ w.finish.hc.sweep = none := by
  obtain ⟨-, -, -, -, -, -, flc, fhc, -⟩ := (Work.rests_of_calm hcalm hc).blocks
  obtain ⟨hlc, hhc⟩ := Work.holdingsProgress_idle (w := w) (by simp [State.mayTake, hm])
  rw [flc, fhc, hlc, hhc]
  exact ⟨rfl, rfl⟩

omit hc in
theorem Work.enterIsolated_calm : w.enterIsolated.toState.calm := by
  obtain ⟨hi, hr, he, hl⟩ := hcalm
  refine ⟨?_, ?_, w.enterIsolated_sessionEnding.trans he, by simpa using hl⟩ <;> rw [Work.enterIsolated_mc, Work.setMode_mc]
  · exact hi
  · exact hr

omit hc in
theorem Work.enterMuted_calm : w.enterMuted.toState.calm := by
  obtain ⟨hi, hr, he, hl⟩ := hcalm
  refine ⟨?_, ?_, w.enterMuted_sessionEnding.trans he, by simpa using hl⟩ <;> rw [Work.enterMuted_mc, Work.setMode_mc]
  · exact hi
  · exact hr

/-- What the entry to MUTED leaves at the end of its step. -/
theorem Work.mutes (hp : w.toState.pendingListed) :
    w.enterMuted.finish.mc.mode = .muted ∧ w.enterMuted.finish.lc = w.enterMuted.lc ∧
    (∀ q, w.enterMuted.finish.entry q = w.toState.mutedEntry q) ∧ w.enterMuted.finish.hc.sweep = none ∧
    (w.enterMuted.finish.now = w.now ∧ w.enterMuted.finish.bu = w.bu ∧ w.enterMuted.finish.ptu = w.ptu ∧
      w.enterMuted.finish.ae = w.ae ∧ w.enterMuted.finish.cpi = w.cpi ∧ w.enterMuted.finish.io = w.io) ∧
    w.enterMuted.finish.setpointFormed := by
  have hcalm' := Work.enterMuted_calm hcalm
  have hc' : w.enterMuted.conflictLost = [] := by simp [hc]
  have hmode : w.enterMuted.mc.mode = .muted := by rw [Work.enterMuted_mc, Work.setMode_mc]
  have hrest := Work.rests_of_calm hcalm' hc'
  obtain ⟨hlc, hsweep⟩ := Work.rests_outsideActive hcalm' hc' (by rw [hmode]; simp)
  obtain ⟨fmc, fbu, -, fptu, fae, -, -, -, -⟩ := hrest.blocks
  obtain ⟨fnow, fio, fcpi, -⟩ := finish_outer w.enterMuted
  refine ⟨by rw [fmc, hmode], hlc, fun q => (hrest.entry q).trans (Work.entry_enterMuted hp q), hsweep,
    ⟨fnow.trans (by simp), fbu.trans (by simp), fptu.trans (by simp), fae.trans (by simp), fcpi.trans (by simp),
      fio.trans (by simp)⟩, finish_formed _⟩

end

/-! ## The frame that meets the sixteenth transmit error -/

/-- The retry count of the frame with age stamp `id` rises (R148). -/
def Link.raiseRetry (l : Link) (id : Nat) : Link :=
  { l with queue := l.queue.map fun x => if x.id = id then { x with retry := x.retry + 1 } else x }

section
variable {l : Link} {id : Nat} {x : QFrame}

theorem Link.raiseRetry_find (h : l.queue.find? (fun y => y.id == id) = some x) :
    (l.raiseRetry id).queue.find? (fun y => y.id == id) = some { x with retry := x.retry + 1 } := by
  have hid : x.id = id := by simpa using List.find?_some h
  have hp : ((fun y : QFrame => y.id == id) ∘ fun y => if y.id = id then { y with retry := y.retry + 1 } else y) =
      fun y => y.id == id := by
    funext y
    simp only [Function.comp]
    split <;> rfl
  rw [Link.raiseRetry, List.find?_map, hp, h, Option.map_some, if_pos hid]

theorem Link.raiseRetry_fresh (h : l.fresh) : (l.raiseRetry id).fresh := by
  refine Link.fresh_of_map_ids h ?_ rfl rfl
  rw [Link.raiseRetry, List.map_map]
  refine List.map_congr_left fun y _ => ?_
  simp only [Function.comp]
  split <;> rfl

/-- A frame keeps its kind and its contents. -/
theorem Link.raiseRetry_frames (f : Frame) (P : Nat → Prop) :
    (∃ y ∈ (l.raiseRetry id).queue ++ (l.raiseRetry id).waiting, P y.id ∧ y.frame = f) ↔
      ∃ y ∈ l.queue ++ l.waiting, P y.id ∧ y.frame = f := by
  have hpre : ∀ y : QFrame, (if y.id = id then { y with retry := y.retry + 1 } else y).id = y.id ∧
      (if y.id = id then { y with retry := y.retry + 1 } else y).frame = y.frame := fun y => by split <;> exact ⟨rfl, rfl⟩
  constructor
  · rintro ⟨y, hy, hP, hf⟩
    rcases List.mem_append.1 hy with hq | hw
    · obtain ⟨z, hz, rfl⟩ := List.mem_map.1 hq
      rw [(hpre z).1] at hP
      rw [(hpre z).2] at hf
      exact ⟨z, List.mem_append_left _ hz, hP, hf⟩
    · exact ⟨y, List.mem_append_right _ hw, hP, hf⟩
  · rintro ⟨y, hy, hP, hf⟩
    rcases List.mem_append.1 hy with hq | hw
    · exact ⟨_, List.mem_append_left _ (List.mem_map_of_mem hq), by rw [(hpre y).1]; exact hP, by rw [(hpre y).2]; exact hf⟩
    · exact ⟨y, List.mem_append_right _ hw, hP, hf⟩

end

/-- A frame that can be retried comes back with its retry count raised (R148). -/
theorem Work.retryOrDrop_returns {w : Work} {id : Nat} {x : QFrame} (hx : w.lc.queue.find? (fun y => y.id == id) = some x)
    (hr : x.retry < 3) : w.retryOrDrop id false = { w with lc := (w.lc.raiseRetry id).returned id } := by
  have hf : w.lc.find id = some x.frame := by simp [Link.find, hx]
  have hretry : w.lc.retryOf id = x.retry := by simp [Link.retryOf, hx]
  unfold Work.retryOrDrop
  rw [hf]
  dsimp only
  rw [hretry, if_neg (by simpa [Config.retryLimit] using hr)]
  rfl

/-- The sixteenth transmit error in a row mutes the station (R149). -/
theorem Work.countTransmitError_mutes {w : Work} (hm : w.mc.mode = .active ∨ w.mc.mode = .isolated) (h : w.lc.txErrors = 15) :
    w.countTransmitError =
      ({ w with lc := { w.lc with txErrors := 16 }, mc := { w.mc with errSince := true } } : Work).enterMuted := by
  unfold Work.countTransmitError
  rw [if_pos hm, h]
  exact if_pos rfl

theorem State.mutedEntry_congr {s t : State} {q : Nat} (hcpi : t.cpi = s.cpi) (hbu : t.bu = s.bu)
    (he : t.entry q = s.entry q) (hrel : q ∈ t.lc.queuedReleases ↔ q ∈ s.lc.queuedReleases) : t.mutedEntry q = s.mutedEntry q := by
  have hvacant : t.vacant q = s.vacant q := by simp only [State.vacant, hbu]
  rw [State.mutedEntry, State.mutedEntry, he, hvacant, State.isolatedEntry_congr hcpi hbu he]
  simp only [List.contains_iff_mem, hrel]

theorem removedAtMute_kind {f : Frame} (h : removedAtMute f = false) : kindOf f ∈ [FrameKind.release, .budget, .leave] := by
  unfold removedAtMute at h
  cases hk : kindOf f <;> simp_all

/-- A frame that comes back is not on the line, and no other is. -/
theorem Link.onLine_returned (l : Link) (id : Nat) (y : QFrame) :
    ((l.endAttempt.raiseRetry id).returned id).onLine y = false := by
  have hatt : ((l.endAttempt.raiseRetry id).returned id).attempt = l.endAttempt.attempt := by
    rw [(l.endAttempt.raiseRetry id).returned_sameBut id]
    rfl
  unfold Link.onLine
  rw [hatt]
  unfold Link.endAttempt
  cases l.breakDue <;> rfl

/-- The RELEASEs that wait once a frame of another kind has come back are those that waited before. -/
theorem Link.returned_queuedReleases {l : Link} {id us : Nat} {last : Bool} {x : QFrame} (hf : l.fresh)
    (ha : l.attempt = some (.frame id us last)) (hx : l.queue.find? (fun y => y.id == id) = some x)
    (hk : kindOf x.frame ≠ .release) (q : Nat) :
    q ∈ ((l.endAttempt.raiseRetry id).returned id).queuedReleases ↔ q ∈ l.queuedReleases := by
  have hid : x.id = id := by simpa using List.find?_some hx
  have hfr : (l.endAttempt.raiseRetry id).fresh := Link.raiseRetry_fresh (Link.fresh_of_map_ids hf rfl rfl rfl)
  have hfind : (l.endAttempt.raiseRetry id).queue.find? (fun y => y.id == id) = some { x with retry := x.retry + 1 } :=
    Link.raiseRetry_find (by exact hx)
  have hkind : ∀ {f : Frame}, q ∈ f.releases → kindOf f = .release := fun {f} h => by
    cases f with
    | release => rfl
    | _ => cases h
  rw [mem_queuedReleases, mem_queuedReleases]
  constructor
  · rintro ⟨y, hy, -, hq⟩
    have hy' := (Link.returned_releases hfr hfind hk (hkind hq)).1 hy
    obtain ⟨z, hz, -, hzf⟩ := (Link.raiseRetry_frames (l := l.endAttempt) (id := id) y.frame (fun _ => True)).1
      ⟨y, hy', trivial, rfl⟩
    refine ⟨z, hz, ?_, hzf ▸ hq⟩
    have hne : id ≠ z.id := fun he => hk (by
      rw [List.inj_on_of_nodup_map hf.1 (List.mem_append_left _ (List.mem_of_find?_eq_some hx)) hz (hid.trans he), hzf]
      exact hkind hq)
    unfold Link.onLine
    rw [ha]
    simpa using hne
  · rintro ⟨z, hz, -, hq⟩
    obtain ⟨y, hy, -, hyf⟩ := (Link.raiseRetry_frames (l := l.endAttempt) (id := id) z.frame (fun _ => True)).2
      ⟨z, hz, trivial, rfl⟩
    exact ⟨y, (Link.returned_releases hfr hfind hk (by rw [hyf]; exact hkind hq)).2 hy, l.onLine_returned id y, hyf ▸ hq⟩

theorem atTime_frames (s : State) (t : Nat) : (s.atTime t).lc.queue = s.lc.queue ∧ (s.atTime t).lc.waiting = s.lc.waiting ∧
    (s.atTime t).lc.muteHold = s.lc.muteHold := by
  unfold State.atTime
  rw [advance_eq]
  exact ⟨rfl, rfl, rfl⟩

/-- Time that passes takes no frame on the line or off it. -/
theorem atTime_onLine (s : State) (t : Nat) (f : QFrame) : (s.atTime t).lc.onLine f = s.lc.onLine f := by
  unfold State.atTime State.advance State.pass
  split
  · rfl
  · unfold Link.onLine
    dsimp only
    cases s.lc.attempt with
    | none => rfl
    | some a =>
      cases a with
      | brk us =>
        simp only [Option.bind_some, Attempt.age]
        split <;> rename_i h <;> split at h <;> simp_all
      | _ => rfl

theorem atTime_settling (s : State) (t : Nat) : (s.atTime t).settling = s.settling := settling_congr (by simp)

theorem atTime_queuedReleases (s : State) (t q : Nat) : q ∈ (s.atTime t).lc.queuedReleases ↔ q ∈ s.lc.queuedReleases := by
  obtain ⟨hq, hw, -⟩ := atTime_frames s t
  simp only [mem_queuedReleases, hq, hw, atTime_onLine]

theorem Link.find_of_mem {l : Link} (hf : l.fresh) {x : QFrame} (hx : x ∈ l.queue) :
    l.queue.find? (fun y => y.id == x.id) = some x := by
  obtain ⟨y, hy⟩ := Option.isSome_iff_exists.1 (List.find?_isSome (p := fun y => y.id == x.id) |>.2 ⟨x, hx, by simp⟩)
  have hid : y.id = x.id := by simpa using List.find?_some hy
  rw [hy, List.inj_on_of_nodup_map hf.1 (List.mem_append_left _ (List.mem_of_find?_eq_some hy)) (List.mem_append_left _ hx) hid]

/-- The working state at the sixteenth transmit error, before the entry to MUTED (R148, R149). -/
def State.sixteenth (s : State) (id : Nat) : Work :=
  { s.begin with
    lc := { (s.lc.endAttempt.raiseRetry id).returned id with txErrors := 16 }, mc := { s.mc with errSince := true } }

theorem exec_sixteenth {s : State} {id us : Nat} {x : QFrame} (ha : s.lc.attempt = some (.frame id us false))
    (hx : s.lc.queue.find? (fun y => y.id == id) = some x) (hr : x.retry < 3)
    (hm : s.mc.mode = .active ∨ s.mc.mode = .isolated) (h : s.lc.txErrors = 15) :
    exec .transmitError s = .next (s.sixteenth id).enterMuted.finish := by
  have hret : s.begin.stopAttempt.retryOrDrop id false =
      { s.begin.stopAttempt with lc := (s.lc.endAttempt.raiseRetry id).returned id } :=
    Work.retryOrDrop_returns (w := s.begin.stopAttempt) (by exact hx) hr
  simp only [exec, execTransmitError, ha, goOn_eq, hret]
  rw [Work.countTransmitError_mutes (by exact hm) ?_]
  · rfl
  · have hsame := (s.lc.endAttempt.raiseRetry id).returned_sameBut id
    change ((s.lc.endAttempt.raiseRetry id).returned id).txErrors = 15
    rw [hsame]
    exact h

/-- Settles O46: both entries give up what is not an own home quantum, and a step outside ACTIVE takes nothing up again. -/
theorem isolationAndMutingDrainForeignQuanta : Obligations.IsolationAndMutingDrainForeignQuanta := by
  constructor
  · intro T a s hm hsolo hT hcalm hp ha
    have hkeep := atTime_keeps s T
    have hcalm' := calm_atTime hcalm T
    have hset := atTime_settling s T
    rw [← ha] at hkeep hcalm' hset
    obtain ⟨aio, acpi, amc, abu, amap, aptu, aae, ahc, aci, abk, apend, anow⟩ := hkeep
    have hexec : exec .isolationSilenceLimit s = .next a.begin.enterIsolated.finish := by
      simp only [exec, execIsolationSilenceLimit, State.isolationDue, hm, hsolo, ha, hT, goOn_eq]
      rfl
    have hentry : ∀ q, a.entry q = s.entry q := entry_eq_of_map a s amap
    have hlist : a.pendingListed := fun q hq => by
      rw [hset]
      exact (hp.2 q).1 (by rw [← hentry]; exact hq)
    have hc : a.begin.enterIsolated.conflictLost = [] := by simp
    have hcalmw := Work.enterIsolated_calm (w := a.begin) hcalm'
    have hmode : a.begin.enterIsolated.mc = { s.mc with mode := .isolated } := by
      rw [Work.enterIsolated_mc, Work.setMode_mc]
      simp [amc]
    have hrest := Work.rests_of_calm hcalmw hc
    obtain ⟨hlc, hsweep⟩ := Work.rests_outsideActive hcalmw hc (by rw [hmode]; simp)
    obtain ⟨fmc, -⟩ := hrest.blocks
    refine ⟨_, hexec, by rw [fmc, hmode], by rw [fmc, hmode]; exact hsolo, ?_, fun q _ => ?_, hsweep, ?_, finish_formed _⟩
    · rw [hlc, a.begin.enterIsolated_lc, Work.setMode_lc]
      rfl
    · rw [hrest.entry, Work.entry_enterIsolated (w := a.begin) hlist]
      exact State.isolatedEntry_congr acpi abu (hentry q)
    · obtain ⟨-, fbu, -, fptu, fae, -⟩ := hrest.blocks
      obtain ⟨fnow, fio, fcpi, fpend⟩ := finish_outer a.begin.enterIsolated
      have hkeep := a.begin.enterIsolated_keeps
      generalize a.begin.enterIsolated = w at *
      obtain ⟨know, kio, kcpi, kbu, kptu, kae, -, kpend, -⟩ := hkeep
      generalize w.finish = t at *
      rw [← show t.now = a.now from fnow.trans know, ← show t.io = a.io from fio.trans kio,
        ← show t.cpi = a.cpi from fcpi.trans kcpi, ← show t.bu = a.bu from fbu.trans kbu,
        ← show t.ptu = a.ptu from fptu.trans kptu, ← show t.ae = a.ae from fae.trans kae,
        ← show t.pending = a.pending from fpend.trans kpend]
  · intro c T us a s hcase hst hmode hcalm hp
    obtain ⟨w, hexec, hnow, ⟨hio, hcpi, hbu, hmap, hptu, hae⟩, hwcalm, hlost, hset, hhold, hrel, hleft⟩ :
        ∃ w : Work, exec c s = .next w.enterMuted.finish ∧ w.now = a.now ∧
        (w.io = s.io ∧ w.cpi = s.cpi ∧ w.bu = s.bu ∧ w.map = s.map ∧ w.ptu = s.ptu ∧ w.ae = s.ae) ∧ w.toState.calm ∧
        w.conflictLost = [] ∧ w.toState.settling = s.settling ∧ w.lc.muteHold = s.lc.muteHold ∧
        (∀ q, q ∈ w.lc.queuedReleases ↔ q ∈ s.lc.queuedReleases) ∧
        ∀ f, w.lc.onLine f = true → s.lc.onLine f = true ∧ c ≠ .transmitError := by
      rcases hcase with ⟨rfl, herr, hecho, rfl⟩ | ⟨rfl, has, hcount, x, hx, hretry, hkind, hatt⟩
      · have hkeep := atTime_keeps s (T + s.conf.lSil * s.conf.tEp)
        obtain ⟨aio, acpi, -, abu, amap, aptu, aae, -⟩ := hkeep
        refine ⟨(s.atTime (T + s.conf.lSil * s.conf.tEp)).begin, ?_, rfl, ⟨aio, acpi, abu, amap, aptu, aae⟩,
          calm_atTime hcalm _, rfl, atTime_settling _ _, (atTime_frames _ _).2.2, atTime_queuedReleases s _,
          fun f hf => ⟨(atTime_onLine s _ f).symm.trans hf, by simp⟩⟩
        simp only [exec, execEchoSilenceLimit, State.echoDue, hmode, herr, hecho, goOn_eq]
        rfl
      · have hf : s.lc.fresh := Link.fresh_of_stamped hst
        have hfind := Link.find_of_mem hf hx
        have hsame := (s.lc.endAttempt.raiseRetry x.id).returned_sameBut x.id
        obtain ⟨hi, hr, he, hl⟩ := hcalm
        refine ⟨s.sixteenth x.id, exec_sixteenth hatt hfind hretry hmode hcount, by rw [has]; rfl,
          ⟨rfl, rfl, rfl, rfl, rfl, rfl⟩,
          ⟨hi, hr, he, hl⟩, rfl, rfl, ?_, Link.returned_queuedReleases hf hatt hfind hkind, fun f hon => ?_⟩
        · change ((s.lc.endAttempt.raiseRetry x.id).returned x.id).muteHold = s.lc.muteHold
          rw [hsame]
          rfl
        · rw [show (s.sixteenth x.id).lc.onLine f = ((s.lc.endAttempt.raiseRetry x.id).returned x.id).onLine f from rfl,
            Link.onLine_returned] at hon
          cases hon
    have hentry : ∀ q, w.toState.entry q = s.entry q := entry_eq_of_map _ _ hmap
    have hlist : w.toState.pendingListed := fun q hq => by
      rw [hset]
      exact (hp.2 q).1 (by rw [← hentry]; exact hq)
    obtain ⟨tmode, tlc, tentry, tsweep, ⟨tnow, tbu, tptu, tae, tcpi, tio⟩, tformed⟩ := Work.mutes hwcalm hlost hlist
    have hframes : ∀ f ∈ w.enterMuted.finish.lc.queue ++ w.enterMuted.finish.lc.waiting,
        w.lc.onLine f = true ∨ removedAtMute f.frame = false := fun f hf => by
      rw [tlc] at hf
      exact ((w.mem_enterMuted f).1 hf).2
    refine ⟨_, hexec, tmode, ?_, ?_, fun q _ => ?_, tsweep, fun f hf => ?_, fun f hf hc => ?_,
      ⟨tnow.trans hnow, tbu.trans hbu, tptu.trans hptu, tae.trans hae, tcpi.trans hcpi, tio.trans hio⟩, tformed⟩
    · rw [tlc, w.enterMuted_lc, w.toMuted_lc]
      rfl
    · rw [tlc, w.enterMuted_lc, hnow, hhold]
    · rw [tentry, State.mutedEntry_congr hcpi hbu (hentry q) (hrel q)]
      rfl
    · exact (hframes f hf).imp (fun h => (hleft f h).1) fun h => .inl (removedAtMute_kind h)
    · exact removedAtMute_kind ((hframes f hf).resolve_left fun h => (hleft f h).2 hc)

end Sys2Proof.Machine
end

section
/-! SUPPORT. Attempts that fail: lost arbitration, a transmit error, and the frame that comes back or is dropped (R146,
R148). -/

namespace Sys2Proof.Machine

/-! ## What comes of the queue -/

/-- What comes of the queue of `l` where the frame `x` with age stamp `id` has come back to it (R102, R103). -/
structure Link.Returns (l : Link) (id : Nat) (x : QFrame) (m : Link) : Prop where
  alone : kindOf x.frame ∉ [FrameKind.report, .budget, .contest] ∨ (kindOf x.frame ≠ .contest ∧
      (l.queue ++ l.waiting).find? (fun y => y.id != id && kindOf y.frame == kindOf x.frame) = none) →
    (classOf x.frame < 4 → x ∈ m.queue) ∧ ∀ f ∈ l.queue, f.id ≠ id → classOf f.frame < 4 → f ∈ m.queue
  newer : kindOf x.frame = .report ∨ kindOf x.frame = .budget →
    ∀ z ∈ (l.queue ++ l.waiting).find? (fun y => y.id != id && kindOf y.frame == kindOf x.frame),
      (kindOf x.frame = .budget ∨ (l.queue.length ≤ 7 ∧ l.waiting = []) →
        { x with frame := z.frame, retry := 0 } ∈ m.queue) ∧
      ∀ f ∈ m.queue ++ m.waiting, f.id ≠ z.id
  contest : ∀ qs, x.frame = .contest qs → x ∈ m.queue ∧
    (∀ q, l.has (Frame.contestOf q) → m.has (Frame.contestOf q)) ∧
    ∀ f ∈ m.queue ++ m.waiting, f.id ≠ id → ∀ ps, f.frame = .contest ps → ∀ q ∈ ps, q ∉ qs

theorem Link.placeFrames_has {p : Frame → Bool} (hp : ∀ f, p f = true → classOf f ≠ 4) (fs : List Frame) {l : Link}
    (hf : l.fresh) (h : l.has p) : (fs.foldl Link.place l).has p := by
  induction fs generalizing l with
  | nil => exact h
  | cons f fs ih => exact ih (l.place_fresh hf f) (Link.place_has hp hf h f)

/-- A frame comes back, and the end of the step places its frames behind it. -/
theorem Link.returns {l r : Link} {id : Nat} {x : QFrame} {fs : List Frame} (hf : l.fresh)
    (hx : l.queue.find? (fun y => y.id == id) = some x) (hfs : asksAndClaims fs) (hq : r.queue = (l.returned id).queue)
    (hw : r.waiting = (l.returned id).waiting) (hn : r.nextId = l.nextId) : l.Returns id x (fs.foldl Link.place r) := by
  have hmem := List.mem_of_find?_eq_some hx
  have hid : x.id = id := by simpa using List.find?_some hx
  have hrf : r.fresh := Link.fresh_of_ids hf (by rw [hq, hw]; exact l.returned_ids id) hn.ge
  have hstays : ∀ f ∈ r.queue, classOf f.frame < 4 → f ∈ (fs.foldl Link.place r).queue := fun f hin hc =>
    Link.mem_queue_placeAll fs hrf hin (by omega)
  have hnew : ∀ f ∈ (fs.foldl Link.place r).queue ++ (fs.foldl Link.place r).waiting,
      f ∈ (l.returned id).queue ++ (l.returned id).waiting ∨ l.nextId ≤ f.id ∧ f.frame ∈ fs := fun f hin => by
    have := Link.mem_of_placeAll fs hin
    rwa [hq, hw, hn] at this
  refine ⟨fun h => ?_, fun hk z hz => ?_, fun qs hk => ?_⟩
  · rw [Link.returned_alone hx h] at hq
    exact ⟨fun hc => hstays x (hq ▸ hmem) hc, fun f hin _ hc => hstays f (hq ▸ hin) hc⟩
  · have hzin := List.mem_of_find?_eq_some hz
    have hzp := List.find?_some hz
    simp only [Bool.and_eq_true, bne_iff_ne, beq_iff_eq] at hzp
    have hret := Link.returned_newer hx hk hz
    have hput : { x with frame := z.frame, retry := 0 } ∈ r.queue := by
      rw [hq, hret]
      exact Link.mem_yieldPlace hmem hid hzp.1
    refine ⟨fun hroom => ?_, fun f hin => ?_⟩
    · rcases hroom with hb | ⟨hlen, hwait⟩
      · exact hstays _ hput (by simp [classOf, hzp.2, hb, kindChar])
      · refine Link.mem_queue_placeAll_room fs ?_ hput
        have hless : (l.yieldPlace id z).queue.length + 1 ≤ l.queue.length :=
          Link.yieldPlace_length (by simpa [hwait] using hzin) hwait
        have := hfs.1
        rw [hq, hret]
        omega
    · rcases hnew f hin with hold | ⟨hid', -⟩
      · rw [hret] at hold
        exact Link.yieldPlace_gone hold
      · have := hf.2 z.id (List.mem_map_of_mem hzin)
        omega
  · have hret := Link.returned_contest hx hk
    rw [hret] at hq hw hnew
    have hin : x ∈ r.queue := hq ▸ Link.mem_contestOnce hmem hid
    refine ⟨hstays x hin (by simp [classOf, hk, kindOf, kindChar]), fun q h => ?_, fun f hf' hne ps hp => ?_⟩
    · refine Link.placeFrames_has (fun _ => (Frame.contestOf_lists q).class_ne) fs hrf ?_
      obtain ⟨y, hy, hpy⟩ := Link.contestOnce_contests hmem hid hk h
      exact ⟨y, by rw [hq, hw]; exact hy, hpy⟩
    · rcases hnew f hf' with hold | ⟨-, hframe⟩
      · exact Link.contestOnce_apart hold hne hp
      · rcases hfs.2 f.frame hframe with hc | hc <;> simp [hp, kindOf] at hc

/-! ## Lost arbitration -/

section
variable {s : State}

/-- The Link Controller once an attempt has lost its arbitration: the line is held by the frame that won it, unless an own
break begins (R146; log 4). -/
def State.outbid (s : State) : Link :=
  { s.lc.endAttempt with heldUs := if s.lc.breakDue then 0 else 370 * (s.conf.d + 1) }

theorem stopAndYield_lc (s : State) : s.begin.stopAttempt.yieldLine = { s.begin with lc := s.outbid } := by
  have hatt : s.begin.stopAttempt.lc.attempt = if s.lc.breakDue then some (.brk 0) else none := rfl
  unfold Work.yieldLine
  rw [hatt, State.outbid]
  cases s.lc.breakDue <;> rfl

theorem exec_lostArbitration_frame {id us : Nat} (hus : us ≤ 9 * (s.conf.d + 1))
    (ha : s.lc.attempt = some (.frame id us false)) : exec .lostArbitration s =
      .next ({ s.begin with lc := s.outbid.returned id } : Work).finish := by
  have harb : Attempt.arbitrating s.conf (.frame id us false) = true := decide_eq_true hus
  simp only [exec, execLostArbitration, ha, harb, if_true, Work.loseArbitration, stopAndYield_lc, goOn_eq]
  rfl

theorem exec_lostArbitration_probe {join : Frame} {us : Nat} (hus : us ≤ 9 * (s.conf.d + 1))
    (ha : s.lc.attempt = some (.probe join us false)) : exec .lostArbitration s =
      .next ({ s.begin with lc := { s.outbid with probeDue := true } } : Work).finish := by
  have harb : Attempt.arbitrating s.conf (.probe join us false) = true := decide_eq_true hus
  simp only [exec, execLostArbitration, ha, harb, if_true, Work.loseArbitration, stopAndYield_lc, goOn_eq]
  rfl

theorem exec_lostArbitration_late {id us : Nat} {last : Bool} (hus : 9 * (s.conf.d + 1) < us)
    (ha : s.lc.attempt = some (.frame id us last)) : exec .lostArbitration s = .next s := by
  have harb : Attempt.arbitrating s.conf (.frame id us last) = false := decide_eq_false (Nat.not_le.2 hus)
  simp only [exec, execLostArbitration, ha, harb, goOn_eq]
  rfl

/-- The end of a step may be told over a Link Controller with other frames. -/
theorem State.endOf_lc {a t : State} (h : State.endOf a t) {l : Link} (hl : l.sameBut a.lc) :
    State.endOf { a with lc := l } t := by
  obtain ⟨ht, hlc, hhc, hci, hform⟩ := h
  refine ⟨ht, ?_, hhc, hci, hform⟩
  rw [hlc, hl]

end

/-! ## Transmit errors -/

section
variable {l : Link} {id : Nat}

/-- The raised retry count leaves the newer frames as they are. -/
theorem Link.raiseRetry_newer (k : FrameKind) :
    ((l.raiseRetry id).queue ++ (l.raiseRetry id).waiting).find? (fun y => y.id != id && kindOf y.frame == k) =
      (l.queue ++ l.waiting).find? (fun y => y.id != id && kindOf y.frame == k) := by
  rw [List.find?_append, List.find?_append]
  refine congrArg (Option.or · _) ?_
  rw [Link.raiseRetry, List.find?_map]
  have hp : ((fun y : QFrame => y.id != id && kindOf y.frame == k) ∘
      fun y => if y.id = id then { y with retry := y.retry + 1 } else y) = fun y => y.id != id && kindOf y.frame == k := by
    funext y
    simp only [Function.comp]
    split <;> rfl
  rw [hp]
  cases hz : l.queue.find? (fun y => y.id != id && kindOf y.frame == k) with
  | none => rfl
  | some z =>
    have := List.find?_some hz
    simp only [Bool.and_eq_true, bne_iff_ne] at this
    rw [Option.map_some, if_neg this.1]

theorem Link.mem_raiseRetry {f : QFrame} (hf : f ∈ l.queue) (hne : f.id ≠ id) : f ∈ (l.raiseRetry id).queue :=
  List.mem_map.2 ⟨f, hf, if_neg hne⟩

theorem Link.raiseRetry_has {p : Frame → Bool} (h : l.has p) : (l.raiseRetry id).has p := by
  obtain ⟨y, hy, hp⟩ := h
  obtain ⟨z, hz, -, hzf⟩ := (Link.raiseRetry_frames (id := id) y.frame fun _ => True).2 ⟨y, hy, trivial, rfl⟩
  exact ⟨z, hz, by rw [hzf]; exact hp⟩

end

/-- A transmit error counted in ACTIVE or ISOLATED (R149). -/
def Work.counted (w : Work) : Work :=
  { w with lc := { w.lc with txErrors := w.lc.txErrors + 1 }, mc := { w.mc with errSince := true } }

theorem Work.countTransmitError_counts {w : Work} (hm : w.mc.mode = .active ∨ w.mc.mode = .isolated)
    (h : w.lc.txErrors < 15) : w.countTransmitError = w.counted := by
  have hmin : min Config.muteThreshold (w.lc.txErrors + 1) = w.lc.txErrors + 1 := Nat.min_eq_right (by
    change w.lc.txErrors + 1 ≤ 16
    omega)
  unfold Work.countTransmitError
  rw [if_pos hm, hmin]
  refine if_neg ?_
  change ¬w.lc.txErrors + 1 = 16
  omega

/-- A frame at its last retry is dropped, and R105 is applied to it (R148). -/
theorem Work.retryOrDrop_drops {w : Work} {id : Nat} {x : QFrame} (hx : w.lc.queue.find? (fun y => y.id == id) = some x)
    (hr : x.retry = 3) (last : Bool) : w.retryOrDrop id last =
      (({ w with lc := w.lc.dropId id } : Work).lostFrame x.frame).notice .txDropped (kindChar (kindOf x.frame)) := by
  have hf : w.lc.find id = some x.frame := by simp [Link.find, hx]
  have hretry : w.lc.retryOf id = x.retry := by simp [Link.retryOf, hx]
  unfold Work.retryOrDrop Work.dropFrame
  rw [hf]
  dsimp only
  rw [hretry, if_pos (by rw [hr]; exact Nat.le_refl 3)]

section
variable {s : State} {id us : Nat} {x : QFrame}

theorem exec_transmitError {last : Bool} (ha : s.lc.attempt = some (.frame id us last)) : exec .transmitError s =
    .next (s.begin.stopAttempt.retryOrDrop id last).countTransmitError.finish := by
  simp only [exec, execTransmitError, ha, goOn_eq]

/-- The working state of a frame that comes back after a transmit error. -/
def State.retried (s : State) (id : Nat) : Work :=
  ({ s.begin with lc := (s.lc.endAttempt.raiseRetry id).returned id } : Work).counted

theorem exec_retried (ha : s.lc.attempt = some (.frame id us false))
    (hx : s.lc.queue.find? (fun y => y.id == id) = some x) (hm : s.mc.mode = .active ∨ s.mc.mode = .isolated)
    (ht : s.lc.txErrors < 15) (hr : x.retry < 3) : exec .transmitError s = .next (s.retried id).finish := by
  have hret : s.begin.stopAttempt.retryOrDrop id false =
      { s.begin.stopAttempt with lc := (s.lc.endAttempt.raiseRetry id).returned id } :=
    Work.retryOrDrop_returns (w := s.begin.stopAttempt) (by exact hx) hr
  have htx : ((s.lc.endAttempt.raiseRetry id).returned id).txErrors < 15 := by
    rw [(s.lc.endAttempt.raiseRetry id).returned_sameBut id]
    exact ht
  rw [exec_transmitError ha, hret, Work.countTransmitError_counts (by exact hm) (by exact htx)]
  rfl

/-- The working state of a frame that is dropped at a transmit error. -/
def State.dropping (s : State) (id : Nat) (f : Frame) : Work :=
  (({ s.begin with lc := s.lc.endAttempt.dropId id } : Work).lostFrame f).notice .txDropped (kindChar (kindOf f))

theorem exec_dropping {last : Bool} (ha : s.lc.attempt = some (.frame id us last))
    (hx : s.lc.queue.find? (fun y => y.id == id) = some x) (hr : x.retry = 3) :
    exec .transmitError s = .next (s.dropping id x.frame).countTransmitError.finish := by
  rw [exec_transmitError ha, Work.retryOrDrop_drops (w := s.begin.stopAttempt) (by exact hx) hr]
  rfl

/-- What a dropped frame leaves as it was. -/
theorem State.dropping_keeps (f : Frame) :
    ((s.dropping id f).now = s.now ∧ (s.dropping id f).io = s.io ∧ (s.dropping id f).cpi = s.cpi ∧
      (s.dropping id f).pending = s.pending) ∧ (s.dropping id f).mc = s.mc ∧
    (s.dropping id f).lc = s.lc.endAttempt.dropId id ∧
    ((s.dropping id f).bu = s.bu ∧ (s.dropping id f).ptu = s.ptu ∧ (s.dropping id f).ae = s.ae ∧ (s.dropping id f).ss = s.ss ∧
      (s.dropping id f).ci = s.ci ∧ (s.dropping id f).bk = s.bk) ∧
    (s.dropping id f).sysNotices = [(.txDropped, kindChar (kindOf f), [0, 0, 0])] ∧ (s.dropping id f).firings = [] ∧
    (s.dropping id f).conflictLost = [] := by
  unfold State.dropping
  refine ⟨⟨?_, ?_, ?_, ?_⟩, ?_, ?_, ⟨?_, ?_, ?_, ?_, ?_, ?_⟩, ?_, ?_, ?_⟩ <;> simp [Work.notice]

end

/-! ## The frame that comes back, the frame that is dropped, and the probe -/

section
variable {s : State} {id us : Nat} {x : QFrame} (hcalm : s.calm)
include hcalm

/-- After a lost arbitration the frame comes back with its retry count (R146). -/
theorem lostArbitration_frame (hst : s.stamped) (hx : s.lc.queue.find? (fun y => y.id == id) = some x) {w : Work}
    (hw : w = { s.begin with lc := s.outbid.returned id }) :
    State.endOf { s with lc := { s.lc with
      queue := w.finish.lc.queue, attempt := if s.lc.breakDue then some (.brk 0) else none, breakDue := false, quietUs := 0
      heldUs := if s.lc.breakDue then 0 else 370 * (s.conf.d + 1) } } w.finish ∧
    s.outbid.Returns id x w.finish.lc := by
  have hlc : w.lc = s.outbid.returned id := by rw [hw]
  have hrest : w.rests := Work.rests_of_calm (by rw [hw]; exact hcalm) (by rw [hw]; rfl)
  obtain ⟨fs, hfs, hplaces⟩ := hrest.places
  constructor
  · have hend := hrest.endOf (by rw [hw]; rfl) (by rw [hw]; rfl)
    have hsame : ({ s.lc with
        queue := w.finish.lc.queue, attempt := if s.lc.breakDue then some (.brk 0) else none, breakDue := false, quietUs := 0
        heldUs := if s.lc.breakDue then 0 else 370 * (s.conf.d + 1) } : Link).sameBut w.lc := by
      rw [hlc]
      unfold Link.sameBut
      rw [s.outbid.returned_sameBut id]
      rfl
    have := State.endOf_lc hend hsame
    rw [hw] at this ⊢
    exact this
  · rw [hplaces, hlc]
    exact Link.returns (Link.fresh_of_map_ids (Link.fresh_of_stamped hst) rfl rfl rfl) (by exact hx) hfs rfl rfl
      (Link.returned_nextId _ _)

/-- After a transmit error that is not its last the frame comes back with its retry count raised (R148). -/
theorem transmitError_frame (hst : s.stamped) (hx : s.lc.queue.find? (fun y => y.id == id) = some x) :
    (s.retried id).finish.mc = { s.mc with errSince := true } ∧
    (s.retried id).finish.lc.txErrors = s.lc.txErrors + 1 ∧ (s.retried id).finish.map = s.map ∧
    (s.lc.endAttempt.raiseRetry id).Returns id { x with retry := x.retry + 1 } (s.retried id).finish.lc ∧
    (s.retried id).finish = { s with
      mc := (s.retried id).finish.mc, lc := (s.retried id).finish.lc, hc := (s.retried id).finish.hc
      ci := (s.retried id).finish.ci } := by
  have hrest : (s.retried id).rests := Work.rests_of_calm hcalm rfl
  obtain ⟨hmc, -, hmap, -⟩ := hrest.blocks
  obtain ⟨fs, hfs, hplaces⟩ := hrest.places
  have htx : ((s.lc.endAttempt.raiseRetry id).returned id).txErrors = s.lc.txErrors := by
    rw [(s.lc.endAttempt.raiseRetry id).returned_sameBut id]
    rfl
  refine ⟨hmc, ?_, hmap, ?_, ?_⟩
  · rw [hrest.link]
    exact congrArg (· + 1) htx
  · rw [hplaces]
    exact Link.returns (Link.raiseRetry_fresh (Link.fresh_of_map_ids (Link.fresh_of_stamped hst) rfl rfl rfl))
      (Link.raiseRetry_find (by exact hx)) hfs rfl rfl (Link.returned_nextId _ _)
  · conv_lhs => rw [hrest.frame, hrest.quiet rfl rfl]
    rw [hmc]
    rfl

/-- After the transmit error at its last retry the frame is gone, and the quanta of a RELEASE are freed (R30, R148). -/
theorem transmitError_dropped (hst : s.stamped) (hx : s.lc.queue.find? (fun y => y.id == id) = some x) {w : Work}
    (hw : w = (s.dropping id x.frame).counted) :
    w.finish.mc = { s.mc with errSince := true } ∧ w.finish.lc.txErrors = s.lc.txErrors + 1 ∧
    (∀ f ∈ w.finish.lc.queue ++ w.finish.lc.waiting, f.id ≠ id) ∧
    (s.bk.notices.length < 16 → w.finish.bk = { s.bk with
      notices := s.bk.notices ++ [systemNotice .txDropped (kindChar (kindOf x.frame)) [0, 0, 0] s.noticeTime] }) ∧
    (∀ q, w.finish.entry q =
      if q ∈ x.frame.releases ∧ (s.entry q).isDraining = true then s.vacant q else s.entry q) ∧
    w.finish = { s with
      map := w.finish.map, mc := w.finish.mc, lc := w.finish.lc, hc := w.finish.hc, ci := w.finish.ci, bk := w.finish.bk } := by
  obtain ⟨⟨know, kio, kcpi, kpend⟩, kmc, klc, ⟨kbu, kptu, kae, kss, kci, kbk⟩, ksys, kfir, kconf⟩ :=
    s.dropping_keeps (id := id) x.frame
  have hentry : ∀ q, w.toState.entry q =
      if q ∈ x.frame.releases ∧ (s.entry q).isDraining = true then s.vacant q else s.entry q := fun q => by
    rw [hw]
    exact Work.entry_lostFrame { s.begin with lc := s.lc.endAttempt.dropId id } x.frame q
  have hlacks : w.lc.lacks id := by
    have hdrop := Link.dropId_lacks (l := s.lc.endAttempt) (Link.fresh_of_map_ids (Link.fresh_of_stamped hst) rfl rfl rfl)
      (by exact hx)
    rw [hw, Work.counted, klc]
    exact hdrop
  have htx : w.lc.txErrors = s.lc.txErrors + 1 := by
    rw [hw, Work.counted, klc]
    rfl
  have hmc : w.mc = { s.mc with errSince := true } := by rw [hw, Work.counted, kmc]
  generalize s.dropping id x.frame = v at *
  obtain ⟨hi, hr, he, hl⟩ := hcalm
  have hrest : w.rests := by
    refine Work.rests_of_calm ⟨by rw [hmc]; exact hi, by rw [hmc]; exact hr, ?_, ?_⟩ (by rw [hw]; exact kconf)
    · rw [sessionEnding_congr (s := s) (by rw [hw]; exact kss)]
      exact he
    · rw [show w.ci = s.ci by rw [hw]; exact kci]
      exact hl
  obtain ⟨fmc, -, -, -, -, -, flc, -, -⟩ := hrest.blocks
  refine ⟨fmc.trans hmc, by rw [hrest.link]; exact htx, fun f hf hid => ?_, fun hroom => ?_, fun q => ?_, ?_⟩
  · have hgone : w.finish.lc.lacks id := by
      rw [flc]
      exact Work.holdingsProgress_link (fun l f h => l.enqueue_lacks f h) hlacks
    exact hgone.2 (List.mem_map.2 ⟨f, hf, hid⟩)
  · have hbk : w.bk = s.bk := by rw [hw]; exact kbk
    have htime : w.toState.noticeTime = s.noticeTime := by
      have hnow : w.now = s.now := by rw [hw]; exact know
      simp only [State.noticeTime, State.sinceStart, hnow, hbk]
    rw [hrest.posts (by rw [hw]; exact ksys) (by rw [hw]; exact kfir) (by rw [hbk]; exact hroom), hbk, htime]
  · rw [hrest.entry, hentry]
  · obtain ⟨-, fbu, -, fptu, fae, fss, -, -, -⟩ := hrest.blocks
    obtain ⟨fnow, fio, fcpi, fpend⟩ := finish_outer w
    subst hw
    generalize v.counted.finish = t at *
    rw [← show t.now = s.now from fnow.trans know, ← show t.io = s.io from fio.trans kio,
      ← show t.cpi = s.cpi from fcpi.trans kcpi, ← show t.pending = s.pending from fpend.trans kpend,
      ← show t.bu = s.bu from fbu.trans kbu, ← show t.ptu = s.ptu from fptu.trans kptu,
      ← show t.ae = s.ae from fae.trans kae, ← show t.ss = s.ss from fss.trans kss]

/-- A probe that meets a transmit error in MUTED doubles the mute hold time (R150). -/
theorem transmitError_probe {join : Frame} (ha : s.lc.attempt = some (.probe join us false)) (hm : s.mc.mode = .muted) :
    ∃ t, exec .transmitError s = .next t ∧
      State.endOf { s with lc := { s.lc with
        attempt := if s.lc.breakDue then some (.brk 0) else none, breakDue := false, quietUs := 0, heldUs := 0
        muteHold := min 8000 (2 * s.lc.muteHold), muteAt := some (s.now + min 8000 (2 * s.lc.muteHold)) } } t := by
  let w : Work := { s.begin with lc := { s.lc.endAttempt with
    muteHold := min 8000 (2 * s.lc.muteHold), muteAt := some (s.now + min 8000 (2 * s.lc.muteHold)) } }
  have hexec : exec .transmitError s = .next w.finish := by
    have hfail : s.begin.stopAttempt.probeFailed false = w := if_neg fun h => h.elim (fun h => by cases h) fun h => h hm
    simp only [exec, execTransmitError, ha, goOn_eq, hfail]
  exact ⟨_, hexec, w.finish_endOf hcalm rfl rfl rfl⟩

end

end Sys2Proof.Machine
end

section
/-! SUPPORT. The end of a LEAVE, which ends the drain it waits for (R161, R181), and the settlement of O38. -/

namespace Sys2Proof.Machine

/-! ## Where nothing is held -/

theorem Work.freeLocally_nothing {w : Work} (h : ∀ q, (w.toState.entry q).isDraining = false) (qs : List Nat) :
    (w.freeLocally qs).map = w.map := by
  refine foldl_induct (fun m : List QEntry => m = w.map) _ (fun m q hm => ?_) _ _ rfl
  subst hm
  refine if_neg fun hd => ?_
  by_cases hq : q < w.map.length
  · have := h q
    rw [State.entry, List.getD_eq_getElem _ _ hq] at this
    rw [List.getD_eq_getElem _ _ hq, this] at hd
    cases hd
  · rw [List.getD_eq_default _ _ (Nat.le_of_not_lt hq)] at hd
    cases hd

theorem Work.drainMine_nothing {w : Work} (h : ∀ q, w.toState.entry q ≠ .mine) (r : DrainReason) (p : Nat → Bool) :
    w.drainMine r p = w := by
  have hnone : w.toState.mineWhere p = [] := List.eq_nil_iff_forall_not_mem.2 fun q hq =>
    h q ((State.mem_mineWhere _ _ _).1 hq).1
  rw [Work.drainMine, hnone]
  simp [Work.startDrain]

/-- Frames lost where no quantum is Draining: the map, the claim that is none, and the next donor stay. -/
theorem Work.loseFrames_nothing {w : Work} (h : ∀ q, (w.toState.entry q).isDraining = false) (p : Frame → Bool) :
    (w.loseFrames p).map = w.map ∧ (w.loseFrames p).hc.rotate = w.hc.rotate ∧
    (w.hc.claim = none → (w.loseFrames p).hc.claim = none) := by
  refine w.loseFrames_over p (P := fun v => v.map = w.map ∧ v.hc.rotate = w.hc.rotate ∧
    (w.hc.claim = none → v.hc.claim = none)) (fun v f hv => ?_) ⟨rfl, rfl, id⟩
  obtain ⟨hmap, hrot, hclaim⟩ := hv
  cases f with
  | release b qs =>
    refine ⟨(Work.freeLocally_nothing (fun q => ?_) qs).trans hmap, hrot, hclaim⟩
    rw [entry_eq_of_map _ _ hmap]
    exact h q
  | claim qs =>
    unfold Work.lostFrame
    dsimp only
    split
    · exact ⟨hmap, hrot, fun _ => rfl⟩
    · exact ⟨hmap, hrot, hclaim⟩
  | _ => exact ⟨hmap, hrot, hclaim⟩

section
variable {w : Work} (hn : w.toState.holdsNothing = true)
include hn

/-- The entry to MUTED with nothing held and no claim. -/
theorem Work.enterMuted_nothing (hc : w.hc.claim = none) :
    w.enterMuted.map = w.map ∧ w.enterMuted.hc.rotate = w.hc.rotate ∧ w.enterMuted.hc.claim = none := by
  have hno := w.toState.holdsNothing_iff.1 hn
  have hset : (w.setMode .muted).hc.claim = w.hc.claim ∧ (w.setMode .muted).hc.rotate = w.hc.rotate := by
    rw [Work.setMode_hc]
    exact ⟨rfl, rfl⟩
  obtain ⟨hmap, hrot, hclaim⟩ := Work.loseFrames_nothing (w := w.setMode .muted)
    (fun q => by rw [Work.setMode_entry]; exact (hno q).2.2) removedAtMute
  rw [show (w.setMode .muted).map = w.map by simp] at hmap
  have hfree : w.freedMuted.map = w.map ∧ w.freedMuted.hc.rotate = w.hc.rotate ∧ w.freedMuted.hc.claim = none := by
    unfold Work.freedMuted Work.toMuted
    generalize (w.setMode .muted).loseFrames removedAtMute = v at *
    refine ⟨(Work.freeLocally_nothing (fun q => ?_) _).trans hmap, hrot.trans hset.2, hclaim (hset.1.trans hc)⟩
    rw [entry_eq_of_map _ _ hmap]
    exact (hno q).2.2
  rw [Work.enterMuted_eq]
  generalize w.freedMuted = v at hfree
  obtain ⟨vmap, vrot, vclaim⟩ := hfree
  have hgive : v.giveUpForeign false = v := by
    have hset : v.toState.settling = [] := by rw [State.settling, vclaim]
    rw [Work.giveUpForeign, hset, Work.drainMine_nothing fun q => by rw [entry_eq_of_map _ _ vmap]; exact (hno q).1]
    rfl
  rw [hgive]
  exact ⟨vmap, vrot, vclaim⟩

/-- The entry to OFFLINE with nothing held leaves the map. -/
theorem Work.enterOffline_nothing : w.enterOffline.map = w.map := by
  have hno := w.toState.holdsNothing_iff.1 hn
  obtain ⟨-, -, hmap, -, -⟩ := w.toOffline_spec
  rw [Work.enterOffline_eq]
  generalize w.toOffline = v at hmap
  have hempty : v.emptyQueue.map = v.map := (Work.loseFrames_nothing (w := { v with lc := v.lc.lastAttempt })
    (fun q => (congrArg QEntry.isDraining (entry_eq_of_map v.toState w.toState hmap q)).trans (hno q).2.2) fun _ => true).1
  rw [← hmap, ← hempty]
  simp

end

theorem Work.enterMuted_bk (w : Work) : w.enterMuted.bk = (w.setMode .muted).bk := by simp [Work.enterMuted]

theorem Work.enterMuted_ss (w : Work) : w.enterMuted.ss = (w.setMode .muted).ss := by simp [Work.enterMuted]

/-! ## The LEAVE has gone -/

/-- The step in which the LEAVE of `s` goes from the queue, whether it was heard or dropped, and whether or not the station
enters MUTED at its dropping (R148, R149, R161, R181). -/
structure State.LeaveGone (s : State) (w : Work) : Prop where
  outer : w.now = s.now ∧ w.io = s.io ∧ w.cpi = s.cpi ∧ w.pending = s.pending
  elsewhere : w.bu = s.bu ∧ w.ptu = s.ptu ∧ w.ae = s.ae ∧ w.ci = s.ci
  map : w.map = s.map
  mc : w.mc = { s.mc with mode := w.mc.mode, echoSince := w.mc.echoSince, errSince := w.mc.errSince }
  mode : w.mc.mode = s.mc.mode ∨ (s.mc.mode = .active ∨ s.mc.mode = .isolated) ∧ w.mc.mode = .muted
  attempt : w.lc.attempt = if s.lc.breakDue then some (.brk 0) else none
  gone : ∀ y ∈ w.lc.queue ++ w.lc.waiting, y.frame ≠ .leave
  claim : w.hc.claim = none
  rotate : w.hc.rotate = s.hc.rotate
  ending : w.toState.sessionEnding = s.sessionEnding
  session : s.bookingsNotify → w.ss = s.ss ∧ w.toState.bookingsNotify
  startAt : w.bk.startAt = s.bk.startAt
  conflictLost : w.conflictLost = []

section
variable {s : State} {w : Work} (h : s.LeaveGone w)
include h

theorem State.LeaveGone.counted (n : Nat) :
    s.LeaveGone { w with lc := { w.lc with txErrors := n }, mc := { w.mc with errSince := true } } :=
  ⟨h.outer, h.elsewhere, h.map, by dsimp only; rw [h.mc], h.mode, h.attempt, h.gone, h.claim, h.rotate, h.ending, h.session,
    h.startAt, h.conflictLost⟩

theorem State.LeaveGone.holdsNothing (hn : s.holdsNothing = true) : w.toState.holdsNothing = true := by
  simpa only [State.holdsNothing, State.mineCount, State.pendingCount, State.drainingCount, h.map] using hn

theorem State.LeaveGone.muted (hn : s.holdsNothing = true) (hm : w.mc.mode = .active ∨ w.mc.mode = .isolated) :
    s.LeaveGone w.enterMuted := by
  obtain ⟨hmap, hrot, hclaim⟩ := Work.enterMuted_nothing (h.holdsNothing hn) h.claim
  have hmc : w.enterMuted.mc = { w.mc with mode := .muted, echoSince := none, errSince := false } := by
    rw [Work.enterMuted_mc, Work.setMode_mc]
    rfl
  have hsm : s.mc.mode = .active ∨ s.mc.mode = .isolated := h.mode.elim (fun e => e ▸ hm) And.left
  have hset := w.setMode_session .muted
  obtain ⟨know, kio, kcpi, kbu, kptu, kae, kci, kpend, -, -, kconf, -⟩ := w.enterMuted_keeps
  obtain ⟨onow, oio, ocpi, opend⟩ := h.outer
  obtain ⟨ebu, eptu, eae, eci⟩ := h.elsewhere
  refine ⟨⟨know.trans onow, kio.trans oio, kcpi.trans ocpi, kpend.trans opend⟩,
    ⟨kbu.trans ebu, kptu.trans eptu, kae.trans eae, kci.trans eci⟩, hmap.trans h.map, ?_, .inr ⟨hsm, by rw [hmc]⟩, ?_,
    fun y hy => h.gone y ((w.mem_enterMuted y).1 hy).1, hclaim, hrot.trans h.rotate,
    w.enterMuted_sessionEnding.trans h.ending, fun hb => ?_, ?_, kconf.trans h.conflictLost⟩
  · rw [hmc]
    dsimp only
    rw [h.mc]
  · rw [w.enterMuted_lc, w.toMuted_lc, ← h.attempt]
    rfl
  · obtain ⟨hss, hnotify⟩ := h.session hb
    obtain ⟨hss', hnotify'⟩ := hset.2 hnotify
    exact ⟨(w.enterMuted_ss).trans (hss'.trans hss), State.bookingsNotify_congr w.enterMuted_bk hnotify'⟩
  · rw [Work.enterMuted_bk, Work.setMode_startAt]
    exact h.startAt

/-- The transmit error is counted, and may be the sixteenth (R149). -/
theorem State.LeaveGone.countTransmitError (hn : s.holdsNothing = true) : s.LeaveGone w.countTransmitError := by
  unfold Work.countTransmitError
  dsimp only
  split
  · rename_i hm
    have hc := h.counted (min Config.muteThreshold (w.lc.txErrors + 1))
    split
    · exact hc.muted hn hm
    · exact hc
  · exact h

end

/-! ## The end of the drain -/

theorem Link.leaveQueued_false {l : Link} (h : ∀ y ∈ l.queue ++ l.waiting, y.frame ≠ .leave) : l.leaveQueued = false := by
  refine Bool.eq_false_iff.2 fun hq => ?_
  rw [Link.leaveQueued, Link.anyQueued, ← List.any_append] at hq
  obtain ⟨y, hy, hk⟩ := List.any_eq_true.1 hq
  refine h y hy ?_
  cases hf : y.frame <;> simp_all [kindOf]

/-- Where the LEAVE that is waited for has gone, the drain has ended (R161, R181). -/
theorem Work.testDrainDone_gone {w : Work} (hd : w.toState.draining = true) (hl : w.mc.leaving = true)
    (hq : w.lc.leaveQueued = false) : w.testDrainDone = w.concludeDrain := by
  unfold Work.testDrainDone
  rw [if_neg (by simp [hd])]
  simp [hl, hq]

/-- OFFLINE holds the attempt in progress as the last one, and no mute hold timer runs. -/
theorem Work.enterOffline_attempt (w : Work) :
    w.enterOffline.lc.attempt = w.lc.attempt.map Attempt.asLast ∧ w.enterOffline.lc.muteAt = none := by
  obtain ⟨-, hlc, -, -, -⟩ := w.toOffline_spec
  have h : w.enterOffline.lc = w.toOffline.lc.lastAttempt.removeOffLine fun _ => true := by
    rw [Work.enterOffline_eq, ← Work.emptyQueue_lc]
    simp
  rw [h, hlc]
  exact ⟨rfl, rfl⟩

/-- During an own break, and with no attempt, no frame is on the line. -/
theorem Link.empty_of_break {l m : Link} {b : Bool} (ha : l.attempt = if b then some (.brk 0) else none)
    (h : ∀ f ∈ m.queue ++ m.waiting, l.onLine f = true) : m.queue = [] ∧ m.waiting = [] := by
  rw [← List.append_eq_nil_iff]
  refine List.eq_nil_iff_forall_not_mem.2 fun f hf => ?_
  have hon := h f hf
  unfold Link.onLine at hon
  rw [ha] at hon
  cases b <;> cases hon

/-- The end of a step that has come to OFFLINE with nothing held. -/
theorem Work.endsOffline {v : Work} (hn : v.toState.holdsNothing = true) {t : State}
    (ht : v.enterOffline.holdingsProgress.formAndSend.flushNotices.toState = t) :
    (t.now = v.now ∧ t.io = v.io ∧ t.cpi = v.cpi ∧ t.pending = v.pending) ∧ (t.bu = v.bu ∧ t.ptu = v.ptu ∧ t.ae = v.ae) ∧
    t.map = v.map ∧ t.mc = { v.mc with
      mode := .offline, echoSince := none, errSince := false, listenAt := none, leaving := v.mc.leaving && v.mc.restarting } ∧
    (t.lc.tx = .off ∧ t.lc.muteAt = none ∧ t.lc.attempt = v.lc.attempt.map Attempt.asLast ∧
      ∀ f ∈ t.lc.queue ++ t.lc.waiting, v.lc.onLine f = true) ∧ t.hc.sweep = none ∧
    (v.toState.bookingsNotify → v.toState.charging = true →
      t.ss.session.map Session.phase = some (.suspended .offline)) := by
  have omc := v.enterOffline_mc
  obtain ⟨otx, oframes⟩ := v.enterOffline_lc
  obtain ⟨oatt, omute⟩ := v.enterOffline_attempt
  have omap := Work.enterOffline_nothing hn
  have ophase := fun hb hc => Work.enterOffline_charging (w := v) hb hc
  obtain ⟨know, kio, kcpi, kbu, kptu, kae, -, kpend, -⟩ := v.enterOffline_keeps
  have hmay : v.enterOffline.toState.mayTake = false := by simp [State.mayTake, omc]
  generalize v.enterOffline = o at *
  have ohc := (Work.holdingsProgress_idle hmay).2
  obtain ⟨⟨tnow, tio, tcpi, tpend⟩, tmc, tlc, tmap, tbu, tptu, tae, tss⟩ := Work.wrapUp_idle hmay ht
  have thc : t.hc = o.holdingsProgress.hc := by
    rw [← ht]
    simp
  refine ⟨⟨tnow.trans know, tio.trans kio, tcpi.trans kcpi, tpend.trans kpend⟩,
    ⟨tbu.trans kbu, tptu.trans kptu, tae.trans kae⟩, tmap.trans omap, tmc.trans omc,
    ⟨by rw [tlc, otx], by rw [tlc, omute], by rw [tlc, oatt], fun f hf => ?_⟩, by rw [thc, ohc], fun hb hc => ?_⟩
  · rw [tlc] at hf
    exact (oframes f hf).1
  · rw [tss]
    exact ophase hb hc

section
variable {s : State} {w : Work} (h : s.LeaveGone w) (hn : s.holdsNothing = true) (he : s.sessionEnding = false)
  (hl : s.mc.leaving = true) (hd : (s.mc.isolateReq = true ∧ s.working = true) ∨
    (s.mc.restarting = true ∧ (s.working = true ∨ s.mc.mode = .offline)))
include h hn he hl hd

omit hn he hl in
theorem State.LeaveGone.draining : w.toState.draining = true := by
  have hmode := h.mode
  have hmc := h.mc
  have hi : w.mc.isolateReq = s.mc.isolateReq := by rw [hmc]
  have hr : w.mc.restarting = s.mc.restarting := by rw [hmc]
  have hwork : s.working = true → w.toState.working = true := fun hw => by
    rcases hmode with e | ⟨-, e⟩
    · simpa [State.working, e] using hw
    · simp [State.working, e]
  rcases hd with ⟨h1, h2⟩ | ⟨h1, h2 | h2⟩
  · simp [State.draining, hi, h1, hwork h2]
  · simp [State.draining, hr, h1, hwork h2]
  · have e : w.mc.mode = .offline := by
      rcases hmode with e | ⟨e, -⟩
      · exact e.trans h2
      · rcases e with e | e <;> cases h2.symm.trans e
    simp [State.draining, hr, h1, e]

/-- The step comes to the conclusion of the drain. -/
theorem State.LeaveGone.concludes : ∃ u : Work, s.LeaveGone u ∧
    w.lostCompletes.handConflict.testSessionEnd.testDrainDone =
      if s.mc.restarting = true then ({ u with mc := { u.mc with leaving := false } } : Work).clearingPoint
      else ({ u with mc := { u.mc with leaving := false } } : Work).enterOffline := by
  obtain ⟨⟨unow, uio, ucpi, upend⟩, umc, ulc, umap, ubu, uptu, uae, uci, uhc, uconf, ustart, uss⟩ :=
    Work.endBegins_nothing (h.holdsNothing hn) h.conflictLost rfl
  obtain ⟨hss, hbk⟩ := uss (h.ending.trans he)
  generalize w.lostCompletes.handConflict.testSessionEnd = u at *
  obtain ⟨onow, oio, ocpi, opend⟩ := h.outer
  obtain ⟨ebu, eptu, eae, eci⟩ := h.elsewhere
  have hu : s.LeaveGone u := by
    refine ⟨⟨unow.trans onow, uio.trans oio, ucpi.trans ocpi, upend.trans opend⟩,
      ⟨ubu.trans ebu, uptu.trans eptu, uae.trans eae, uci.trans eci⟩, umap.trans h.map, ?_, by rw [umc]; exact h.mode,
      by rw [ulc]; exact h.attempt, by rw [ulc]; exact h.gone, by rw [uhc]; exact h.claim, by rw [uhc]; exact h.rotate,
      (sessionEnding_congr hss).trans h.ending, fun hb => ?_, ustart.trans h.startAt, uconf⟩
    · rw [umc]
      exact h.mc
    · obtain ⟨h1, h2⟩ := h.session hb
      exact ⟨hss.trans h1, State.bookingsNotify_congr hbk h2⟩
  refine ⟨u, hu, ?_⟩
  have hres : u.mc.restarting = s.mc.restarting := by rw [hu.mc]
  rw [Work.testDrainDone_gone (hu.draining hd) (by rw [hu.mc]; exact hl) (Link.leaveQueued_false hu.gone)]
  unfold Work.concludeDrain
  dsimp only
  rw [hres]

/-- Without a restart the drain ends in OFFLINE (R161). -/
theorem State.LeaveGone.offline (hr : s.mc.restarting = false) {t : State} (ht : w.finish = t) :
    t.mc = { s.mc with mode := .offline, leaving := false, listenAt := none, echoSince := none, errSince := false } ∧
    t.lc.tx = .off ∧ (t.lc.queue = [] ∧ t.lc.waiting = []) ∧ t.lc.muteAt = none ∧
    t.lc.attempt = (if s.lc.breakDue then some (.brk 0) else none) ∧ t.map = s.map ∧ t.hc.sweep = none ∧
    (t.ci.pSet = 0 ∧ t.ci.sendValue = 0) ∧
    (s.charging = true → s.bookingsNotify → t.ss.session.map Session.phase = some (.suspended .offline)) ∧
    t = { s with map := t.map, mc := t.mc, lc := t.lc, hc := t.hc, ci := t.ci, ss := t.ss, bk := t.bk } := by
  obtain ⟨u, hu, hconc⟩ := h.concludes hn he hl hd
  rw [if_neg (by simp [hr])] at hconc
  have hform : t.setpointFormed := by rw [← ht]; exact finish_formed w
  generalize hv : ({ u with mc := { u.mc with leaving := false } } : Work) = v at hconc
  have vending : v.toState.sessionEnding = false := by rw [← hv]; exact hu.ending.trans he
  have vnothing : v.toState.holdsNothing = true := by rw [← hv]; exact hu.holdsNothing hn
  have hsettle : v.enterOffline.holdingsProgress.formAndSend.flushNotices.toState = t := by
    rw [← ht, Work.finish, Work.settle, hconc, Work.testSessionEnd_calm _ (v.enterOffline_sessionEnding.trans vending)]
  obtain ⟨⟨tnow, tio, tcpi, tpend⟩, ⟨tbu, tptu, tae⟩, tmap, tmc, ⟨ttx, tmute, tatt, tframes⟩, tsweep, tphase⟩ :=
    Work.endsOffline vnothing hsettle
  obtain ⟨onow, oio, ocpi, opend⟩ := hu.outer
  obtain ⟨ebu, eptu, eae, -⟩ := hu.elsewhere
  have vlc : v.lc = u.lc := by rw [← hv]
  have hatt : t.lc.attempt = if s.lc.breakDue then some (.brk 0) else none := by
    rw [tatt, vlc, hu.attempt]
    cases s.lc.breakDue <;> rfl
  have hpset : t.ci.pSet = 0 := by
    refine State.pSet_noMine hform (t.mineCount_eq_zero_iff.2 fun q => ?_)
    rw [entry_eq_of_map t v.toState tmap]
    exact (v.toState.holdsNothing_iff.1 vnothing q).1
  refine ⟨?_, ttx, ?_, tmute, hatt, ?_, tsweep, ⟨hpset, State.sendValue_zero hform hpset⟩, fun hc hb => ?_, ?_⟩
  · rw [tmc, ← hv]
    dsimp only
    rw [hu.mc]
    simp
  · exact Link.empty_of_break (l := v.lc) (by rw [vlc]; exact hu.attempt) tframes
  · rw [tmap, ← hv]
    exact hu.map
  · obtain ⟨hss, hnotify⟩ := hu.session hb
    refine tphase (by rw [← hv]; exact hnotify) ?_
    rw [← hv]
    unfold State.charging at hc ⊢
    dsimp only
    rw [hss]
    exact hc
  · subst hv
    rw [← tnow.trans onow, ← tio.trans oio, ← tcpi.trans ocpi, ← tpend.trans opend, ← tbu.trans ebu, ← tptu.trans eptu,
      ← tae.trans eae]

/-- With a restart the drain ends at the clearing point, in LISTENING (R181, R182). -/
theorem State.LeaveGone.cleared (hw : s.working = true ∨ s.mc.mode = .offline) (hr : s.mc.restarting = true)
    (htrip : s.io.trip = false) {t : State} (ht : w.finish = t) :
    s.cleared t ∧ (t.lc.queue = [] ∧ t.lc.waiting = []) ∧
    t.lc.attempt = (if s.lc.breakDue then some (.brk 0) else none) ∧ t.bk.startAt = s.bk.startAt ∧
    t = { s with
      map := t.map, mc := t.mc, lc := t.lc, bu := t.bu, ptu := t.ptu, ae := t.ae, hc := t.hc, ci := t.ci
      ss := t.ss, bk := t.bk } := by
  obtain ⟨u, hu, hconc⟩ := h.concludes hn he hl hd
  rw [if_pos hr] at hconc
  generalize hv : ({ u with mc := { u.mc with leaving := false } } : Work) = v at hconc
  obtain ⟨onow, oio, ocpi, -⟩ := hu.outer
  obtain ⟨ebu, eptu, eae, eci⟩ := hu.elsewhere
  have vtrip : v.io.trip = false := by rw [← hv, show u.io = s.io from oio]; exact htrip
  have vmode : v.mc.mode ≠ .tripped := by
    rw [← hv]
    rcases hu.mode with e | ⟨-, e⟩ <;> dsimp only <;> rw [e]
    · intro hm
      simp [State.working, hm] at hw
    · simp
  have vconf : v.conflictLost = [] := by rw [← hv]; exact hu.conflictLost
  obtain ⟨-, hidle, hstill, -⟩ := Work.clearingPoint_idle vmode vtrip
  have hend : v.clearingPoint.finish = t := by rw [← ht, Work.finish_of_drainDone hconc hidle hstill (by simp [vconf])]
  obtain ⟨vcleared, vatt, vstart, -⟩ := Work.clearingPoint_cleared vmode vtrip vconf hend
  let r : State := { s with mc := { s.mc with mode := u.mc.mode, echoSince := u.mc.echoSince, errSince := u.mc.errSince } }
  have hr : r.cleared t := by
    refine State.cleared_congr (r := v.toState) ?_ ?_ ?_ ?_ ?_ ?_ ?_ vcleared <;> rw [← hv]
    · exact onow
    · exact ocpi
    · dsimp only
      rw [hu.mc]
    · rw [show u.bu = s.bu from ebu]
    · exact eae
    · exact hu.rotate
    · exact eci
  have hatt : t.lc.attempt = if s.lc.breakDue then some (.brk 0) else none := by
    rw [vatt, ← hv]
    dsimp only
    rw [hu.attempt]
    cases s.lc.breakDue <;> rfl
  obtain ⟨-, -, -, -, -, -, -, -, -, -, hline, -⟩ := id hr
  refine ⟨hr, Link.empty_of_break hatt hline, hatt, vstart.trans (by rw [← hv]; exact hu.startAt), ?_⟩
  obtain ⟨hnow, hio, hcpi, hpend⟩ := h.outer
  obtain ⟨fnow, fio, fcpi, fpend⟩ := finish_outer w
  rw [ht] at fnow fio fcpi fpend
  rw [← fnow.trans hnow, ← fio.trans hio, ← fcpi.trans hcpi, ← fpend.trans hpend]

end

/-! ## The two ends of a LEAVE -/

section
variable {s : State} {id us : Nat} {last : Bool} {x : QFrame} (hx : s.lc.queue.find? (fun y => y.id == id) = some x)
  (hleave : x.frame = .leave) (hone : ∀ y ∈ s.lc.queue ++ s.lc.waiting, y.frame = .leave → y.id = id) (hst : s.stamped)
  (hclaim : s.hc.claim = none)
include hx hone hst

/-- Without the LEAVE that is on the line no other is queued. -/
theorem State.dropLeave_gone : ∀ y ∈ (s.lc.dropId id).queue ++ (s.lc.dropId id).waiting, y.frame ≠ .leave := fun y hy hf => by
  refine (Link.dropId_lacks (Link.fresh_of_stamped hst) hx).2 (List.mem_map.2 ⟨y, hy, hone y ?_ hf⟩)
  exact ((Link.mem_dropId _ _ _).1 hy).elim (fun h => List.mem_append_left _ h.1) (List.mem_append_right _)

include hclaim in
theorem State.leaveGone_echo : s.LeaveGone (s.echoing id) :=
  ⟨⟨rfl, rfl, rfl, rfl⟩, ⟨rfl, rfl, rfl, rfl⟩, rfl, rfl, .inl rfl, rfl, State.dropLeave_gone hx hone hst, hclaim, rfl, rfl,
    fun h => ⟨rfl, h⟩, rfl, rfl⟩

include hclaim in
theorem State.leaveGone_dropped : s.LeaveGone (s.dropping id .leave) :=
  ⟨⟨rfl, rfl, rfl, rfl⟩, ⟨rfl, rfl, rfl, rfl⟩, rfl, rfl, .inl rfl, rfl, State.dropLeave_gone hx hone hst, hclaim, rfl, rfl,
    fun h => ⟨rfl, h⟩, rfl, rfl⟩

include hclaim hleave in
/-- The good echo of the LEAVE, and the transmit error at its last retry, both take it from the queue. -/
theorem exec_leaveGone {c : Instr} (hc : c = .goodEcho ∨ c = .transmitError ∧ x.retry = 3)
    (ha : s.lc.attempt = some (.frame id us last)) (ht : s.takesFrames = true) (hn : s.holdsNothing = true) :
    ∃ w, exec c s = .next w.finish ∧ s.LeaveGone w := by
  rcases hc with rfl | ⟨rfl, hr⟩
  · refine ⟨s.echoing id, ?_, State.leaveGone_echo hx hone hst hclaim⟩
    rw [exec_goodEcho ha hx ht, hleave]
    rfl
  · refine ⟨_, exec_dropping ha hx hr, ?_⟩
    rw [hleave]
    exact (State.leaveGone_dropped hx hone hst hclaim).countTransmitError hn

end

theorem State.takesFrames_draining {s : State} (h : s.working = true ∨ s.mc.mode = .offline) : s.takesFrames = true := by
  unfold State.takesFrames State.started
  rcases h with h | h
  · unfold State.working at h
    cases hm : s.mc.mode <;> simp_all
  · simp [h]

/-- Settles O38: a frame comes back or goes as its queue takes it, and with the LEAVE the drain that waits for it ends. -/
theorem failedAttemptsAreRetriedOrDropped : Obligations.FailedAttemptsAreRetriedOrDropped := by
  refine ⟨fun id us x s hus ha hx hcalm hst => ⟨_, exec_lostArbitration_frame hus ha, ?_⟩,
    fun id us x s ha hx hm ht hr hcalm hst => ⟨_, exec_retried ha hx hm ht hr, ?_⟩,
    fun id us x s ha hx hm ht hr hcalm hst _ => ?_, fun join us s hus ha hcalm => ⟨_, exec_lostArbitration_probe hus ha,
      Work.finish_endOf { s.begin with lc := { s.outbid with probeDue := true } } hcalm rfl rfl rfl⟩,
    fun join us s ha hm hcalm => transmitError_probe hcalm ha hm,
    fun c id us last x s hc ha hx hleave hone hl hn hclaim he hst hw hi hr => ?_,
    fun c id us last x s hc ha hx hleave hone hl hn hclaim he hst hw hr htrip => ?_,
    fun id us last s hus ha => ⟨s, exec_lostArbitration_late hus ha, rfl⟩⟩
  · obtain ⟨hend, halone, hnewer, hcontest⟩ := lostArbitration_frame hcalm hst hx rfl
    refine ⟨hend, halone, hnewer, fun qs hq => ?_⟩
    obtain ⟨h1, h2, h3⟩ := hcontest qs hq
    exact ⟨h1, fun q h => (contests_iff _ q).2 (h2 q ((contests_iff s q).1 h)), h3⟩
  · obtain ⟨hmc, htx, hmap, ⟨halone, hnewer, hcontest⟩, hframe⟩ := transmitError_frame hcalm hst hx
    have hlen : (s.lc.endAttempt.raiseRetry id).queue.length = s.lc.queue.length := List.length_map _
    dsimp only at halone hnewer hcontest
    rw [Link.raiseRetry_newer] at halone hnewer
    refine ⟨hmc, htx, hmap, fun h => ?_, fun h z hz => ?_, fun qs hq => ?_, hframe⟩
    · obtain ⟨h1, h2⟩ := halone h
      exact ⟨h1, fun f hf hne hc => h2 f (Link.mem_raiseRetry (l := s.lc.endAttempt) hf hne) hne hc⟩
    · obtain ⟨h1, h2⟩ := hnewer h z hz
      rw [hlen] at h1
      exact ⟨h1, h2⟩
    · obtain ⟨h1, h2, h3⟩ := hcontest qs hq
      exact ⟨h1, fun q h => (contests_iff _ q).2 (h2 q (Link.raiseRetry_has (l := s.lc.endAttempt)
        ((contests_iff s q).1 h))), h3⟩
  · obtain ⟨h1, h2, h3, h4, h5, h6⟩ := transmitError_dropped hcalm hst hx rfl
    obtain ⟨-, hmc, hlc, -⟩ := s.dropping_keeps (id := id) x.frame
    have hcount := Work.countTransmitError_counts (w := s.dropping id x.frame) (by rw [hmc]; exact hm) (by rw [hlc]; exact ht)
    refine ⟨_, by rw [exec_dropping ha hx hr, hcount], h1, h2, h3, h4, fun q _ => (h5 q).trans ?_, h6⟩
    cases x.frame with
    | release b qs => exact if_congr Iff.rfl rfl rfl
    | _ => exact if_neg (by simp [Frame.releases])
  · obtain ⟨w, hexec, hgone⟩ := exec_leaveGone hx hleave hone hst hclaim hc ha (State.takesFrames_draining (.inl hw)) hn
    exact ⟨_, hexec, hgone.offline hn he hl (.inl ⟨hi, hw⟩) hr rfl⟩
  · obtain ⟨w, hexec, hgone⟩ := exec_leaveGone hx hleave hone hst hclaim hc ha (State.takesFrames_draining hw) hn
    exact ⟨_, hexec, hgone.cleared hn he hl (.inr ⟨hr, hw⟩) hw hr htrip rfl⟩

end Sys2Proof.Machine
end

section
/-! SUPPORT. One booking fires: a quantity that selects it alone, and the notice that is offered. -/

namespace Sys2Proof.Machine

/-! ## A quantity that selects one booking -/

/-- What a handed quantity is to the booking in place `i`. -/
def Work.selects (w : Work) (sel : Trigger → Option (Bool × Bool × Nat)) (i : Nat) : Option (Bool × Bool × Nat) :=
  (w.bk.table.getD i none).bind fun b => sel b.trigger

/-- The handing of a quantity to the booking in place `i`. -/
def Work.handOne (sel : Trigger → Option (Bool × Bool × Nat)) (w : Work) (i : Nat) : Work :=
  match w.selects sel i with
  | some (holds, event, value) => w.evaluate i holds event value
  | none => w

theorem Work.hand_eq (w : Work) (sel : Trigger → Option (Bool × Bool × Nat)) :
    w.hand sel = (List.range 12).foldl (Work.handOne sel) w := rfl

theorem Work.handOne_none {w : Work} {sel : Trigger → Option (Bool × Bool × Nat)} {l : List Nat}
    (h : ∀ j ∈ l, w.selects sel j = none) : l.foldl (Work.handOne sel) w = w := by
  induction l with
  | nil => rfl
  | cons j l ih =>
    obtain ⟨hj, hl⟩ := List.forall_mem_cons.1 h
    rw [List.foldl_cons, show w.handOne sel j = w by rw [Work.handOne, hj], ih hl]

@[simp] theorem Work.takeAction_table (w : Work) (a : Action) : (w.takeAction a).bk.table = w.bk.table := by
  cases a with
  | suspend =>
    unfold Work.takeAction Work.suspendCause
    cases w.ss.session <;> rfl
  | _ => rfl

/-- An evaluation leaves the other places of the table. -/
theorem Work.evaluate_selects {w : Work} {i j : Nat} (h : j ≠ i) (hs e : Bool) (v : Nat)
    (sel : Trigger → Option (Bool × Bool × Nat)) : (w.evaluate i hs e v).selects sel j = w.selects sel j := by
  have htable : (w.evaluate i hs e v).bk.table[j]? = w.bk.table[j]? := by
    unfold Work.evaluate
    split
    · rfl
    · dsimp only
      split <;> simp [List.getElem?_set_ne (Ne.symm h)]
  simp only [Work.selects, List.getD_eq_getElem?_getD, htable]

/-- A quantity that selects one booking alone is evaluated there and nowhere else. -/
theorem Work.hand_alone {w : Work} {sel : Trigger → Option (Bool × Bool × Nat)} {i : Nat} {hs e : Bool} {v : Nat}
    (hi : i < 12) (hsel : w.selects sel i = some (hs, e, v)) (hne : ∀ j, j ≠ i → w.selects sel j = none) :
    w.hand sel = w.evaluate i hs e v := by
  obtain ⟨l₁, l₂, hl⟩ := List.append_of_mem (List.mem_range.2 hi)
  have hnd := List.nodup_range (n := 12)
  rw [hl] at hnd
  obtain ⟨-, hnd₂, hdis⟩ := List.nodup_append.1 hnd
  have h₁ : ∀ j ∈ l₁, j ≠ i := fun j hj => hdis j hj i (by simp)
  have h₂ : ∀ j ∈ l₂, j ≠ i := fun j hj hji => (List.nodup_cons.1 hnd₂).1 (hji ▸ hj)
  have hone : w.handOne sel i = w.evaluate i hs e v := by rw [Work.handOne, hsel]
  rw [Work.hand_eq, hl, List.foldl_append, Work.handOne_none fun j hj => hne j (h₁ j hj), List.foldl_cons, hone,
    Work.handOne_none fun j hj => (Work.evaluate_selects (h₂ j hj) _ _ _ _).trans (hne j (h₂ j hj))]

/-! ## An ARMED booking is evaluated under a condition that holds -/

section
variable {w : Work} {i : Nat} {b : Booking}

/-- A booking whose mark is set does not fire, and stays as it is. -/
theorem Work.evaluate_marked (hb : w.bk.table[i]? = some (some b)) (hm : b.mark = true) (v : Nat) :
    w.evaluate i true false v = w := by
  have hset : w.bk.table.set i (some b) = w.bk.table := set_of_getElem? hb
  unfold Work.evaluate
  rw [List.getD_eq_getElem?_getD, hb, Option.getD_some]
  dsimp only
  rw [if_neg (by simp [Booking.fires, hm])]
  have hstate : (if b.fires true && !b.repeats then .spent else b.state) = b.state := by simp [Booking.fires, hm]
  have hmark : ({ b with mark := true } : Booking) = b := by rw [← hm]
  rw [hstate]
  change ({ w with bk := { w.bk with table := w.bk.table.set i (some { b with mark := true }) } } : Work) = w
  rw [hmark, hset]

/-- The booking that fires, before its notice is offered. -/
def Booking.afire (b : Booking) : Booking := { b with mark := true, state := if b.repeats then .armed else .spent }

/-- An ARMED booking whose mark is clear fires (R168). -/
theorem Work.evaluate_fires (hb : w.bk.table[i]? = some (some b)) (hm : b.mark = false) (ha : b.state = .armed) (v : Nat) :
    w.evaluate i true false v = ({ w with
      bk := { w.bk with table := w.bk.table.set i (some b.afire) }
      firings := w.firings ++ [(i, v)] } : Work).takeAction b.action := by
  have hf : b.fires true = true := by simp [Booking.fires, hm, ha]
  unfold Work.evaluate
  rw [List.getD_eq_getElem?_getD, hb, Option.getD_some]
  dsimp only
  rw [if_pos hf, hf, ha]
  cases hr : b.repeats <;> simp [Booking.afire, hr]

end

/-! ## The booked action -/

/-- What a firing makes of the marks of SHED and FREEZE (R169). -/
theorem Work.takeAction_bk (w : Work) (a : Action) :
    (w.takeAction a).bk = { w.bk with shed := w.bk.shed || a == .shed, freeze := w.bk.freeze || a == .freeze } := by
  have hor : ∀ x : Bool, (x || false) = x := Bool.or_false
  cases a with
  | notify => simp [Work.takeAction, beq_eq_decide]
  | shed => simp [Work.takeAction, beq_eq_decide]
  | freeze => simp [Work.takeAction, beq_eq_decide]
  | suspend =>
    unfold Work.takeAction Work.suspendCause
    cases w.ss.session <;> simp [beq_eq_decide]

/-- What a firing makes of the session (R120, R169). -/
theorem Work.takeAction_session (w : Work) (a : Action) :
    (w.takeAction a).ss.session =
      if a = .suspend then w.ss.session.map (Session.suspendFor .booking) else w.ss.session := by
  cases a with
  | suspend =>
    unfold Work.takeAction Work.suspendCause
    cases hx : w.ss.session <;> simp [hx]
  | _ => rfl

theorem Session.suspendFor_booking (x : Session) : x.suspendFor .booking = (match x.phase with
    | .charging => { x with phase := .suspended .booking }
    | .suspended _ => { x with phase := .suspended .booking }
    | _ => x) := by
  unfold Session.suspendFor
  cases x.phase <;> rfl

/-- A SHED, and a SUSPEND of a session, derive the bid again (R60). -/
theorem Work.takeAction_bid {w : Work} {a : Action} (h : a = .shed ∨ a = .suspend ∧ w.ss.session ≠ none) :
    (w.takeAction a).ss.bid = (w.takeAction a).toState.deriveBid := by
  rcases h with rfl | ⟨rfl, hx⟩
  · rfl
  · obtain ⟨x, hx⟩ := Option.ne_none_iff_exists'.1 hx
    unfold Work.takeAction Work.suspendCause
    simp only [hx]
    rfl

/-- The bid is a matter of the configuration, the time and the session, and of the SHED mark. -/
theorem deriveBid_congr {s t : State} (hc : t.cpi = s.cpi) (hn : t.now = s.now) (hs : t.ss = s.ss)
    (hb : t.bk.shed = s.bk.shed) : t.deriveBid = s.deriveBid := by
  unfold State.deriveBid State.deadlineLeft State.deadlineClock State.conf
  rw [hc, hs, hb, hn]

/-! ## The notice is offered -/

theorem markNewest_eq (q : List Notice) :
    markNewest q = q.dropLast ++ (q.getLast?.map fun n => { n with overrun := true }).toList := by
  induction q with
  | nil => rfl
  | cons n q ih =>
    cases q with
    | nil => rfl
    | cons m q =>
      rw [markNewest, ih]
      · simp
      · simp

/-- Where the notice of a booking that is not PENDING is offered it is posted, or withheld (R171, Table 65). -/
theorem Bookings.offer_eq {k : Bookings} {i : Nat} {b : Booking} (hb : k.table.getD i none = some b)
    (hfresh : ∀ p x, b.state ≠ .pending p x) (v time : Nat) :
    k.offer i v time = { k with
      notices := if b.urgent || decide (k.notices.length ≤ 8) then postUrgent k.notices (bookingNotice i b v time)
        else k.notices
      table := k.table.set i (some { b with
        state := if b.urgent || decide (k.notices.length ≤ 8) then (if b.repeats then .armed else .spent)
          else .pending v time }) } := by
  unfold Bookings.offer
  rw [hb]
  dsimp only
  cases hu : b.urgent with
  | true => simp
  | false =>
    rw [if_neg Bool.false_ne_true]
    split
    · rename_i p x hp
      exact absurd hp (hfresh p x)
    · by_cases hl : k.notices.length ≤ 8
      · have hroom : k.notices.length < Config.noticePlaces := Nat.lt_of_le_of_lt hl (by decide)
        simp [Config.infoLevel, hl, postUrgent, hroom]
      · simp [Config.infoLevel, hl]

theorem Booking.afire_fresh (b : Booking) (p x : Nat) : b.afire.state ≠ .pending p x := by
  unfold Booking.afire
  cases b.repeats <;> simp

/-- A firing that is offered has fired as the table of the obligations tells it. -/
theorem Bookings.offer_afire (k : Bookings) {i : Nat} (hi : i < k.table.length) (b : Booking) (v time : Nat) :
    ({ k with
      table := k.table.set i (some b.afire), shed := k.shed || b.action == .shed
      freeze := k.freeze || b.action == .freeze } : Bookings).offer i v time =
    k.fired i b (triggerCode b.trigger) v time := by
  rw [Bookings.offer_eq (b := b.afire) (by simp [hi]) b.afire_fresh]
  unfold Bookings.fired postUrgent
  rw [markNewest_eq, List.set_set, show Config.noticePlaces = 16 from rfl]
  cases hoff : b.urgent || decide (k.notices.length ≤ 8) <;> simp [Booking.afire, hoff, bookingNotice] <;> rfl

/-- The one firing of a step is offered, and the booking has fired. -/
theorem Work.flushNotices_fires {w : Work} {k : Bookings} {i v : Nat} {b : Booking} (hb : k.table[i]? = some (some b))
    (hs : w.sysNotices = []) (hf : w.firings = [(i, v)]) (hi : i < 12)
    (hk : w.bk = { k with
      table := k.table.set i (some b.afire), shed := k.shed || b.action == .shed
      freeze := k.freeze || b.action == .freeze }) :
    w.flushNotices.bk = k.fired i b (triggerCode b.trigger) v w.toState.noticeTime := by
  have hsys : sysOrder.flatMap (fun d => ([] : List (SysCode × Nat × List Byte)).filter fun n => n.1 == d) = [] := by simp
  have hfir : (List.range Config.bookings).flatMap (fun j => [(i, v)].filter fun f => f.1 == j) = [(i, v)] := by
    interval_cases i <;> rfl
  unfold Work.flushNotices
  simp only [hs, hf, hfir, hsys, List.foldl_nil, List.foldl_cons]
  rw [← Bookings.offer_afire k (List.getElem?_eq_some_iff.1 hb).1, ← hk]

/-- A step that concludes nothing and in which one booking fires. -/
theorem Work.rests.fires {w : Work} (h : w.rests) {k : Bookings} {i v : Nat} {b : Booking}
    (hb : k.table[i]? = some (some b)) (hs : w.sysNotices = []) (hf : w.firings = [(i, v)]) (hi : i < 12)
    (hk : w.bk = { k with
      table := k.table.set i (some b.afire), shed := k.shed || b.action == .shed
      freeze := k.freeze || b.action == .freeze }) :
    w.finish.bk = k.fired i b (triggerCode b.trigger) v w.toState.noticeTime := by
  rw [h.finish_eq, Work.flushNotices_fires hb (by simpa using hs) (by simpa using hf) hi (by simpa using hk)]
  simp [State.noticeTime, State.sinceStart]

end Sys2Proof.Machine
end

section
/-! SUPPORT. The limits at which the entry of a station ages, and the booking on its silence. -/

namespace Sys2Proof.Machine

theorem State.ageLimit_due {s : State} {u h ms : Nat} {p : PeerState} {x : Peer} (hf : s.takesFrames = true)
    (hx : s.ptu.entries[u]? = some x) (hp : x.state = p) (hh : x.heardAt = some h) :
    s.ageLimit u p ms = some (h + ms) := by
  have his : s.peerIs u p = true := by simp [State.peerIs, State.peerState, hx, hp]
  simp [State.ageLimit, hf, his, hx, hh]

theorem Work.handPeer_sessionEnding (w : Work) (u : Nat) (m : Bool) :
    (w.handPeer u m).toState.sessionEnding = w.toState.sessionEnding := by
  unfold Work.handPeer
  exact w.hand_sessionEnding _

theorem Work.handPeer_calm {w : Work} (h : w.toState.calm) (u : Nat) (m : Bool) : (w.handPeer u m).toState.calm :=
  State.calm_congr (by simp) (by simp) (w.handPeer_sessionEnding u m) h

theorem Work.silence_eq {w : Work} {u : Nat} {x : Peer} (hx : w.ptu.entries[u]? = some x) :
    w.silence u = (w.withPeer u { x with state := .silent }).handPeer u true := by
  rw [Work.silence, Work.setPeer_eq hx]

theorem Work.expel_eq {w : Work} {u : Nat} {x : Peer} (hx : w.ptu.entries[u]? = some x) :
    w.expel u = ((w.withPeer u { x with state := .expelled }).forgetHoldings u true).handPeer u false := by
  rw [Work.expel, Work.setPeer_eq hx]

/-- Its home quanta stay with a station that is expelled; its other holdings, and what drains for it, do not (R37). -/
theorem State.forgetEntry_home (s : State) (u q : Nat) (e : QEntry) : s.forgetEntry u true q e =
    if s.conf.homeStation q = some u then e
    else match e with
      | .held v m => if v = u then s.vacant q else .held v m
      | .draining r (some v) => if v = u then .draining r none else .draining r (some v)
      | e => e := by
  unfold State.forgetEntry
  simp only [Bool.true_and, beq_iff_eq] <;> rfl

theorem Work.entry_expel {w : Work} {u : Nat} {x : Peer} (hx : w.ptu.entries[u]? = some x) (q : Nat) :
    (w.expel u).toState.entry q = w.toState.forgetEntry u true q (w.toState.entry q) := by
  have hmap : (w.expel u).toState.map = ((w.withPeer u { x with state := .expelled }).forgetHoldings u true).map := by
    rw [Work.expel_eq hx]
    simp
  rw [entry_eq_of_map _ _ hmap q]
  by_cases hq : q < w.map.length
  · exact Work.entry_forgetHoldings _ _ _ _ hq
  · have hout : w.toState.entry q = .withdrawn := entry_ge _ _ (Nat.le_of_not_lt hq)
    have hlen : ((w.withPeer u { x with state := .expelled }).forgetHoldings u true).map.length = w.map.length := by
      simp [Work.forgetHoldings, Work.mapAll, Work.withPeer]
    rw [entry_ge _ _ (by rw [hlen]; exact Nat.le_of_not_lt hq), hout, State.forgetEntry_home]
    simp

/-! ## The booking on the silence of one station -/

/-- The state in which the entry of station `u` has become `y` selects the bookings on it, and at a silence those on any. -/
theorem Work.handPeer_alone {w : Work} {u i : Nat} {b : Booking} (hi : i < 12) (hb : w.bk.table[i]? = some (some b))
    (htrig : b.trigger = .peerSilent (some u)) (hsilent : w.toState.peerIs u .silent = true)
    (hother : (w.bk.table.zipIdx.all fun z => z.2 == i || z.1.all fun y =>
      y.trigger != .peerSilent (some u) && y.trigger != .peerSilent none) = true) (m : Bool) :
    w.handPeer u m = w.evaluate i true false u := by
  unfold Work.handPeer
  refine Work.hand_alone hi ?_ fun j hj => ?_
  · rw [Work.selects, List.getD_eq_getElem?_getD, hb]
    simp [htrig, State.holds, hsilent]
  · rw [Work.selects, List.getD_eq_getElem?_getD]
    cases hz : w.bk.table[j]? with
    | none => rfl
    | some o =>
      cases o with
      | none => rfl
      | some c =>
        have hc := List.all_eq_true.1 hother (some c, j) (List.mem_zipIdx_iff_getElem?.2 hz)
        simp only [Option.all_some, Bool.or_eq_true, beq_iff_eq, hj, false_or, Bool.and_eq_true, bne_iff_ne] at hc
        obtain ⟨hu, hany⟩ := hc
        change (match c.trigger with
          | .peerSilent (some v) => _
          | .peerSilent none => _
          | _ => _) = none
        cases htr : c.trigger with
        | peerSilent v =>
          cases v with
          | none => exact absurd htr hany
          | some v => exact if_neg fun hv => hu (by rw [htr, hv])
        | _ => rfl

section
variable {w : Work} (hcalm : w.toState.calm) (hconf : w.conflictLost = [])
include hcalm hconf

/-- The step in which a changed entry is handed on alters what a booking may alter, and what the end of a step may. -/
theorem Work.handPeer_finish (u : Nat) (m : Bool) : (w.handPeer u m).finish = { w.toState with
    lc := (w.handPeer u m).finish.lc, hc := (w.handPeer u m).finish.hc, ci := (w.handPeer u m).finish.ci
    ss := (w.handPeer u m).finish.ss, bk := (w.handPeer u m).finish.bk } := by
  have hrest : (w.handPeer u m).rests := Work.rests_of_calm (Work.handPeer_calm hcalm u m) (by simpa using hconf)
  obtain ⟨-, -, -, -, -, hss, -⟩ := hrest.blocks
  rw [hss]
  conv_lhs => rw [hrest.frame]
  simp

/-- What the Booking Unit and the session become where the booking in place `i` alone is selected by the silence. -/
theorem Work.handPeer_booked {u i : Nat} {b : Booking} (hsys : w.sysNotices = []) (hfir : w.firings = [])
    (hi : i < 12) (hb : w.bk.table[i]? = some (some b)) (htrig : b.trigger = .peerSilent (some u))
    (harmed : b.state = .armed) (hsilent : w.toState.peerIs u .silent = true)
    (hother : (w.bk.table.zipIdx.all fun z => z.2 == i || z.1.all fun y =>
      y.trigger != .peerSilent (some u) && y.trigger != .peerSilent none) = true) (m : Bool) :
    (w.handPeer u m).finish.bk = (if b.mark then w.bk else w.bk.fired i b 0 u w.toState.noticeTime) ∧
    (w.handPeer u m).finish.ss.session = (if b.mark = false ∧ b.action = .suspend then
      w.ss.session.map (Session.suspendFor .booking) else w.ss.session) ∧
    (b.mark = false → b.action = .shed ∨ b.action = .suspend ∧ w.ss.session ≠ none →
      (w.handPeer u m).finish.ss.bid = (w.handPeer u m).finish.deriveBid) := by
  have hrest : (w.handPeer u m).rests := Work.rests_of_calm (Work.handPeer_calm hcalm u m) (by simpa using hconf)
  have hv : w.handPeer u m = w.evaluate i true false u := Work.handPeer_alone hi hb htrig hsilent hother m
  rw [hv] at hrest ⊢
  obtain ⟨-, -, -, -, -, hss, -⟩ := hrest.blocks
  obtain ⟨hnow, -, hcpi, -⟩ := finish_outer (w.evaluate i true false u)
  cases hm : b.mark with
  | true =>
    have hbk := hrest.quiet
    rw [Work.evaluate_marked hb hm] at hss hbk ⊢
    exact ⟨hbk hsys hfir, by simp [hss], by simp⟩
  | false =>
    rw [Work.evaluate_fires hb hm harmed] at hrest hss hnow hcpi ⊢
    have hbk := hrest.fires (k := w.bk) (v := u) hb (by simpa using hsys) (by simp [hfir]) hi (by rw [Work.takeAction_bk])
    refine ⟨?_, ?_, fun _ hact => ?_⟩
    · rw [hbk, htrig]
      simp [triggerCode, State.noticeTime, State.sinceStart, Work.takeAction_bk]
    · rw [hss, Work.takeAction_session]
      simp
    · rw [hss, Work.takeAction_bid (by simpa using hact)]
      exact (deriveBid_congr hcpi hnow hss (by rw [hbk, Work.takeAction_bk]; rfl)).symm

/-- An expulsion alters what the handing on of a changed entry may alter, and the map. -/
theorem Work.expel_finish {u : Nat} {x : Peer} (hx : w.ptu.entries[u]? = some x) : (w.expel u).finish = { w.toState with
    map := (w.expel u).map
    ptu := { w.ptu with entries := w.ptu.entries.set u { x with state := .expelled } }
    lc := (w.expel u).finish.lc, hc := (w.expel u).finish.hc, ci := (w.expel u).finish.ci
    ss := (w.expel u).finish.ss, bk := (w.expel u).finish.bk } := by
  rw [Work.expel_eq hx]
  generalize hv : (w.withPeer u { x with state := .expelled }).forgetHoldings u true = v
  have hvs : v.toState = { w.toState with
      map := v.map, ptu := { w.ptu with entries := w.ptu.entries.set u { x with state := .expelled } } } := by
    rw [← hv]
    rfl
  have hvconf : v.conflictLost = [] := by
    rw [← hv]
    exact hconf
  have hvcalm : v.toState.calm := State.calm_congr (s := w.toState) (by rw [hvs]) (by rw [hvs])
    (by rw [hvs]; rfl) hcalm
  conv_lhs => rw [Work.handPeer_finish hvcalm hvconf, hvs]
  simp

end

/-- Settles O42: a limit ages the entry, an expulsion lets the holdings go, and one booking on the silence fires alone. -/
theorem peerLimitsAgeTheEntry : Obligations.PeerLimitsAgeTheEntry := by
  refine ⟨?_, ?_, ?_⟩
  · intro u x h a s hf hx hst hh hcalm ha
    have hkeep := atTime_keeps s (h + s.conf.lSil * s.conf.tEp)
    have hcalm' := calm_atTime hcalm (h + s.conf.lSil * s.conf.tEp)
    rw [← ha] at hkeep hcalm'
    obtain ⟨-, -, -, -, amap, aptu, -⟩ := hkeep
    have hexec : exec (.peerSilenceLimit u) s = .next (a.begin.silence u.toNat).finish := by
      simp only [exec, execPeerSilenceLimit, State.ageLimit_due hf hx hst hh, goOn_eq, Cfg.silenceMs, ha]
    rw [Work.silence_eq (x := x) (by simpa [aptu] using hx)] at hexec
    have hfin := (a.begin.withPeer u.toNat { x with state := .silent }).handPeer_finish hcalm' rfl u.toNat true
    refine ⟨_, hexec, ?_, ?_, ?_⟩
    · rw [hfin, ← aptu]
      rfl
    · rw [hfin, ← amap]
      rfl
    · conv_lhs => rw [hfin]
      rw [hfin]
      rfl
  · intro u x h a s hf hx hst hh hcalm ha
    have hkeep := atTime_keeps s (h + s.conf.lExp * s.conf.tEp)
    have hcalm' := calm_atTime hcalm (h + s.conf.lExp * s.conf.tEp)
    rw [← ha] at hkeep hcalm'
    obtain ⟨-, acpi, -, abu, amap, aptu, -⟩ := hkeep
    have hx' : a.begin.ptu.entries[u.toNat]? = some x := by simpa [aptu] using hx
    have hexec : exec (.peerExpulsionLimit u) s = .next (a.begin.expel u.toNat).finish := by
      simp only [exec, execPeerExpulsionLimit, State.ageLimit_due hf hx hst hh, goOn_eq, Cfg.expulsionMs, ha]
    have hfin := Work.expel_finish hcalm' rfl hx'
    have hentry := Work.entry_expel hx'
    generalize a.begin.expel u.toNat = w at hexec hfin hentry
    generalize w.finish = t at hexec hfin
    have hmap : t.map = w.map := by rw [hfin]
    have hptu : t.ptu = { a.ptu with entries := a.ptu.entries.set u.toNat { x with state := .expelled } } := by
      rw [hfin]
      rfl
    refine ⟨t, hexec, ?_, fun q _ => ?_, ?_⟩
    · rw [hptu, aptu]
    · rw [entry_eq_of_map _ _ hmap q, hentry, State.forgetEntry_home, begin_toState,
        entry_eq_of_map a s amap q, show a.conf = s.conf by simp [State.conf, acpi],
        show a.vacant q = s.vacant q by simp [State.vacant, abu]] <;> rfl
    · rw [hptu, hmap]
      exact hfin
  · intro u x h i b a s hf hx hst hh hcalm hi hb htrig harmed hother ha
    have hkeep := atTime_keeps s (h + s.conf.lSil * s.conf.tEp)
    have hcalm' := calm_atTime hcalm (h + s.conf.lSil * s.conf.tEp)
    have hsess : (s.atTime (h + s.conf.lSil * s.conf.tEp)).ss.session ≠ none ↔ s.ss.session ≠ none := by
      unfold State.atTime
      rw [advance_session]
      simp
    rw [← ha] at hkeep hcalm' hsess
    obtain ⟨-, -, -, -, amap, aptu, -, -, -, abk, -⟩ := hkeep
    have hx' : a.begin.ptu.entries[u.toNat]? = some x := by simpa [aptu] using hx
    have hexec : exec (.peerSilenceLimit u) s = .next (a.begin.silence u.toNat).finish := by
      simp only [exec, execPeerSilenceLimit, State.ageLimit_due hf hx hst hh, goOn_eq, Cfg.silenceMs, ha]
    rw [Work.silence_eq hx'] at hexec
    generalize hw : a.begin.withPeer u.toNat { x with state := .silent } = w at hexec
    have hws : w.toState = { a with
        ptu := { a.ptu with entries := a.ptu.entries.set u.toNat { x with state := .silent } } } := by
      rw [← hw]
      rfl
    have hcalmw : w.toState.calm := State.calm_congr (s := a) (by rw [hws]) (by rw [hws]) (by rw [hws]; rfl) hcalm'
    have hsilent : w.toState.peerIs u.toNat .silent = true := by
      have hat := Work.withPeer_at hx' { x with state := .silent }
      rw [hw] at hat
      simp [State.peerIs, State.peerState, hat]
    have hbkw : w.bk = s.bk := by rw [← hw, ← abk]; rfl
    have hquiet : w.conflictLost = [] ∧ w.sysNotices = [] ∧ w.firings = [] := by rw [← hw]; exact ⟨rfl, rfl, rfl⟩
    obtain ⟨hconf, hsys, hfir⟩ := hquiet
    have hfin := Work.handPeer_finish hcalmw hconf u.toNat true
    have hbooked := Work.handPeer_booked (u := u.toNat) (i := i) (b := b) hcalmw hconf hsys hfir hi
    rw [hbkw] at hbooked
    obtain ⟨hbk, hss, hbid⟩ := hbooked hb htrig harmed hsilent hother true
    refine ⟨_, hexec, ?_, ?_, fun hm hact => hbid hm ?_, ?_, ?_, finish_formed _⟩
    · rw [hbk, show w.toState.noticeTime = a.noticeTime by rw [hws]; rfl]
    · rw [hss, show w.ss = a.ss by rw [← hw]; rfl]
      split
      · exact congrArg (fun f => Option.map f a.ss.session) (funext Session.suspendFor_booking)
      · rfl
    · rw [show w.ss = a.ss by rw [← hw]; rfl]
      exact hact.imp id fun ⟨h₁, h₂⟩ => ⟨h₁, hsess.2 h₂⟩
    · rw [hfin, hws, ← aptu]
    · have hptu : (w.handPeer u.toNat true).finish.ptu = w.ptu := by rw [hfin]
      have hmap : w.toState = { a with ptu := w.ptu } := by rw [hws]
      rw [hptu]
      rw [hmap] at hfin
      exact hfin

end Sys2Proof.Machine
end

section
/-! SUPPORT. YIELD-REQ heard (O30). -/

namespace Sys2Proof.Machine

/-! ## The map as a list over the quanta -/

theorem quantaWhere_eq_filter (m : List QEntry) (p : Nat → QEntry → Bool) :
    quantaWhere m p = (List.range m.length).filter fun q => p q (m.getD q .withdrawn) := by
  induction m using List.reverseRecOn with
  | nil => rfl
  | append_singleton m e ih =>
    have hone : quantaWhere (m ++ [e]) p = quantaWhere m p ++ (if p m.length e then [m.length] else []) := by
      unfold quantaWhere
      rw [List.zipIdx_append, List.filterMap_append]
      cases hp : p m.length e <;> simp [hp]
    have hold : (List.range m.length).filter (fun q => p q ((m ++ [e]).getD q .withdrawn)) =
        (List.range m.length).filter fun q => p q (m.getD q .withdrawn) :=
      List.filter_congr fun q hq => by
        rw [List.getD_append _ _ _ _ (List.mem_range.1 hq)]
    have hlast : (m ++ [e]).getD m.length .withdrawn = e := by simp [List.getD]
    rw [hone, List.length_append, List.length_singleton, List.range_succ, List.filter_append, hold, ih]
    cases hp : p m.length e <;> simp [hp]

theorem State.map_eq_entries (s : State) : s.map = (List.range s.map.length).map s.entry :=
  List.ext_getElem (by simp) fun i h _ => by simp [State.entry, List.getD, h]

theorem State.countP_entries (s : State) (p : QEntry → Bool) :
    s.map.countP p = ((List.range s.map.length).filter fun q => p (s.entry q)).length := by
  conv_lhs => rw [s.map_eq_entries]
  rw [List.countP_map, List.countP_eq_length_filter]
  rfl

theorem findSome?_filter {α β : Type} (p : α → Bool) (f : α → Option β) (l : List α) :
    (l.filter p).findSome? f = l.findSome? fun a => if p a then f a else none := by
  induction l with
  | nil => rfl
  | cons a l ih => cases hp : p a <;> simp [hp, List.findSome?_cons, ih]

/-! ## The frame -/

theorem exec_yieldReq (u : BitVec 5) (p : List Byte) (s : State) : exec (.yieldReq u p) s = .next (s.heard .yieldReq u p) :=
  rfl

section
variable {g c : Byte} (h1 : 1 ≤ c.toNat) (h8 : c.toNat ≤ 8)
include h1 h8

theorem parsePayload_surplus : parsePayload .yieldReq [g, c, 0] = some (.yieldReq g.toNat c.toNat .surplus []) :=
  if_pos ⟨by simp, by simpa [at1] using h1, by simpa [at1] using h8, by simp [at1], rfl⟩

theorem parsePayload_home {p : List Byte} (hp : p.length = c.toNat) :
    parsePayload .yieldReq (g :: c :: 1 :: p) = some (.yieldReq g.toNat c.toNat .home (quantaOf p)) :=
  (if_neg fun h => by simp [at1] at h).trans
    (if_pos ⟨by simp, by simpa [at1] using h1, by simpa [at1] using h8, by simp [at1], by simp [at1, hp]; omega⟩)

end

/-- A request is answered in ACTIVE and ISOLATED to a Live station (R99). -/
def State.answers (s : State) (u : Nat) : Bool := (s.mc.mode == .active || s.mc.mode == .isolated) && s.peerIs u .live

theorem State.answers_not (s : State) (u : Nat) :
    (!(s.mc.mode == .active || s.mc.mode == .isolated) || !s.peerIs u .live) = !s.answers u := (Bool.not_and ..).symm

theorem Work.answerYield_not {w : Work} {u : Nat} (h : w.toState.answers u = false) (c : Nat) (d : Disposition) (l : List Nat) :
    w.answerYield u c d l = w := by
  unfold Work.answerYield
  dsimp only
  exact if_pos ((w.toState.answers_not u).trans (by rw [h]; rfl))

theorem Work.applyFrame_yieldReq (w : Work) (u c : Nat) (d : Disposition) (l : List Nat) :
    w.applyFrame u (.yieldReq w.toState.own c d l) = w.answerYield u c d l := if_pos rfl

theorem Work.applyFrame_yieldReq_other {w : Work} {g : Nat} (h : g ≠ w.toState.own) (u c : Nat) (d : Disposition)
    (l : List Nat) : w.applyFrame u (.yieldReq g c d l) = w := if_neg h

/-- An answer that is queued with the given reason. -/
def Work.answer (w : Work) (u : Nat) (r : YieldReason) (g : List Nat) : Work :=
  w.enqueue (.yieldAns u (yieldReasonCode r) g)

/-- The working state in which a SURPLUS request has been granted `g` (R100). -/
def Work.grantsSurplus (w : Work) (u c : Nat) (g : List Nat) : Work :=
  (w.startDrain .yield (some u) g.reverse).answer u (if g.length = c then .none else .noSurplus) g.reverse

theorem Work.answerYield_surplus {w : Work} {u : Nat} (h : w.toState.answers u = true) (c : Nat) (l : List Nat) :
    w.answerYield u c .surplus l = w.grantsSurplus u c (w.toState.surplusGrant c) := by
  unfold Work.answerYield
  dsimp only
  exact if_neg fun k => by
    rw [w.toState.answers_not u, h] at k
    cases k

/-- The quanta that a HOME request lists, in ascending order (R101). -/
def State.homeListed (s : State) (l : List Nat) : List Nat := (List.range 128).filter (s.listedQuanta l).contains

/-- The listed quanta that are granted. -/
def State.homeGrants (s : State) (u : Nat) (l : List Nat) : List Nat :=
  (s.homeListed l).filter fun q => s.homeAnswer u q == none

/-- The listed quanta that are Pending and given up. -/
def State.homeGiveUp (s : State) (u : Nat) (l : List Nat) : List Nat :=
  (s.homeListed l).filter fun q => s.entry q == .pending && s.conf.homeStation q == some u && decide (q < s.bu.bEff)

def State.homeReason (s : State) (u : Nat) (l : List Nat) : YieldReason :=
  ((s.homeListed l).findSome? fun q => s.homeAnswer u q).getD .none

/-- Granted home quanta drain for the requester. -/
def Work.grantAll (w : Work) (u : Nat) (l : List Nat) : Work := l.foldl (fun (w : Work) q => w.grantHome u q) w

theorem Work.answerYield_home {w : Work} {u : Nat} (h : w.toState.answers u = true) (c : Nat) (l : List Nat) :
    w.answerYield u c .home l =
      (((w.grantAll u ((w.toState.homeGrants u l).take 8)).answer u (w.toState.homeReason u l)
        ((w.toState.homeGrants u l).take 8)).giveUpPending true (w.toState.homeGiveUp u l)) := by
  unfold Work.answerYield
  dsimp only
  exact if_neg fun k => by
    rw [w.toState.answers_not u, h] at k
    cases k

/-! ## What is granted -/

/-- What a grant to `u` makes of an own quantum (R101). -/
def QEntry.grantedTo (u : Nat) : QEntry → QEntry
  | .mine => .draining .yield (some u)
  | .draining _ _ => .draining .yield (some u)
  | e => e

theorem Work.entry_grantHome (w : Work) (u q k : Nat) :
    (w.grantHome u q).toState.entry k = if k = q then (w.toState.entry k).grantedTo u else w.toState.entry k := by
  have hlt : w.toState.entry q ≠ .withdrawn → q < w.map.length := fun hne => by
    by_contra hge
    exact hne (entry_ge _ q (Nat.le_of_not_lt hge))
  unfold Work.grantHome
  by_cases hk : k = q
  · subst hk
    rw [if_pos rfl]
    cases he : w.toState.entry k with
    | mine => simp [Work.entry_startDrain, he, QEntry.grantedTo]
    | draining => simp [Work.entry_setEntry, hlt (by rw [he]; simp), QEntry.grantedTo]
    | free | withdrawn | pending | held => simp [he, QEntry.grantedTo]
  · rw [if_neg hk]
    split
    · simp [Work.entry_startDrain, hk]
    · simp [Work.entry_setEntry, hk]
    · rfl

theorem QEntry.grantedTo_again (u : Nat) (e : QEntry) : (e.grantedTo u).grantedTo u = e.grantedTo u := by
  cases e <;> rfl

theorem Work.entry_grantAll (w : Work) (u : Nat) (l : List Nat) (k : Nat) :
    (w.grantAll u l).toState.entry k = if k ∈ l then (w.toState.entry k).grantedTo u else w.toState.entry k := by
  induction l generalizing w with
  | nil => simp [Work.grantAll]
  | cons q l ih =>
    rw [Work.grantAll, List.foldl_cons, ← Work.grantAll, ih, Work.entry_grantHome]
    by_cases hk : k = q
    · simp [hk, QEntry.grantedTo_again]
    · simp [hk]

theorem Work.grantAll_lc (w : Work) (u : Nat) (l : List Nat) : (w.grantAll u l).lc = w.lc :=
  foldl_keeps (fun w : Work => w.lc) _ (fun _ _ => by simp) _ _

theorem Work.grantAll_mc (w : Work) (u : Nat) (l : List Nat) : (w.grantAll u l).mc = w.mc :=
  foldl_keeps (fun w : Work => w.mc) _ (fun _ _ => by simp) _ _

theorem Work.grantAll_bu (w : Work) (u : Nat) (l : List Nat) : (w.grantAll u l).bu = w.bu :=
  foldl_keeps (fun w : Work => w.bu) _ (fun _ _ => by simp) _ _

theorem Work.grantAll_stuck (w : Work) (u : Nat) (l : List Nat) : (w.grantAll u l).hc.stuck = w.hc.stuck :=
  foldl_keeps (fun w : Work => w.hc.stuck) _ (fun v q => by unfold Work.grantHome; split <;> rfl) _ _

theorem Work.answer_keeps (w : Work) (u : Nat) (r : YieldReason) (g : List Nat) :
    (w.answer u r g).map = w.map ∧ (w.answer u r g).hc = w.hc ∧ (w.answer u r g).mc = w.mc ∧ (w.answer u r g).bu = w.bu ∧
    w.lc.sameBut (w.answer u r g).lc := by
  have hlc := w.enqueue_sameBut (.yieldAns u (yieldReasonCode r) g)
  unfold Work.answer
  exact ⟨by simp, by simp, by simp, by simp, hlc⟩

/-- Out of LISTENING an answer is queued. -/
theorem Work.answer_lc {w : Work} (hm : w.mc.mode ≠ .listening) (u : Nat) (r : YieldReason) (g : List Nat) :
    (w.answer u r g).lc = w.lc.place (.yieldAns u (yieldReasonCode r) g) := by
  simp [Work.answer, Work.enqueue, State.mayQueue, hm, Link.enqueue]

/-- A request heard, however it is answered, is one that the end of the step may follow. -/
theorem Work.answerYield_appliesTo (w : Work) (u c : Nat) (d : Disposition) (l : List Nat) :
    w.appliesTo (w.answerYield u c d l) := by
  obtain ⟨hnow, hio, hcpi, hmc, -, hptu, hae, hss, hci, -, hpend, -, -, -, hlost, -⟩ := w.answerYield_keeps u c d l
  have hrest : (w.answerYield u c d l).hc.stuck = w.hc.stuck ∧ w.lc.sameBut (w.answerYield u c d l).lc := by
    cases ha : w.toState.answers u with
    | false =>
      rw [Work.answerYield_not ha]
      exact ⟨rfl, Link.sameBut_refl _⟩
    | true =>
      cases d with
      | surplus =>
        rw [Work.answerYield_surplus ha, Work.grantsSurplus]
        obtain ⟨-, hhc, -, -, hlc⟩ := (w.startDrain .yield (some u) (w.toState.surplusGrant c).reverse).answer_keeps u
          (if (w.toState.surplusGrant c).length = c then .none else .noSurplus) (w.toState.surplusGrant c).reverse
        exact ⟨by rw [hhc]; rfl, hlc⟩
      | home =>
        rw [Work.answerYield_home ha]
        generalize (w.toState.homeGrants u l).take 8 = gs
        obtain ⟨-, hhc, -, -, hlc⟩ := (w.grantAll u gs).answer_keeps u (w.toState.homeReason u l) gs
        rw [Work.grantAll_lc] at hlc
        refine ⟨?_, Link.sameBut_trans hlc (Work.giveUpPending_lc _ _ _)⟩
        rw [Work.giveUpPending_hc, hhc]
        exact w.grantAll_stuck u gs
  obtain ⟨hstuck, hlc⟩ := hrest
  exact ⟨⟨hnow, hio, hcpi, hpend⟩, hmc, hptu, hae, hci, hstuck, hlc, hlost, sessionEnding_congr hss⟩

/-! ## What the state of the hearing grants -/

section
variable {s : State} {u : Nat} {x : Peer} {w : Work} (h : s.Hearing u x w)
include h

/-- A station that is Live, or that the frame makes so, is answered where the station takes part. -/
theorem State.Hearing.answers (hx : s.ptu.entries[u]? = some x) (hst : x.state = .live ∨ x.state = .silent ∨ x.state = .expelled)
    (hm : s.mc.mode = .active ∨ s.mc.mode = .isolated) : w.toState.answers u = true := by
  have hmode : w.mc.mode = .active := by
    rw [h.mc]
    rcases hm with hm | hm <;> simp [hm]
  have hlt : u < s.ptu.entries.length := (List.getElem?_eq_some_iff.1 hx).1
  have hlive : w.toState.peerIs u .live = true := by
    rw [State.peerIs, State.peerState, h.ptu]
    rcases hst with hst | hst | hst <;> simp [hlt, Peer.heardPlain, hst]
  simp [State.answers, hmode, hlive]

/-- Elsewhere it is not. -/
theorem State.Hearing.answers_not (hm : s.mc.mode = .listening ∨ s.mc.mode = .muted ∨ s.mc.mode = .offline) :
    w.toState.answers u = false := by
  have hmode : w.mc.mode = s.mc.mode := by
    rw [h.mc]
    rcases hm with hm | hm | hm <;> simp [hm]
  rcases hm with hm | hm | hm <;> simp [State.answers, hmode, hm]

theorem State.Hearing.surplusGrant (hlen : s.map.length = 128) (c : Nat) : w.toState.surplusGrant c =
    (((List.range 128).filter fun q => s.entry q == .mine && !s.ownHome q).reverse).take
      (min c (s.heldCount - s.recordTarget - ((List.range 128).filter fun q => match s.entry q with
        | .draining .yield (some _) => true
        | .draining .conflict (some _) => true
        | _ => false).length)) := by
  have hown : ∀ q, w.toState.ownHome q = s.ownHome q := fun q => by simp only [State.ownHome, h.conf, h.own]
  have hheld : w.toState.heldCount = s.heldCount := by
    simp only [State.heldCount, State.mineCount, State.pendingCount, h.map]
  have htarget : w.toState.recordTarget = s.recordTarget := by simp only [State.recordTarget, h.ae]
  unfold State.surplusGrant State.descending
  rw [hheld, htarget, h.map, quantaWhere_eq_filter, s.countP_entries, hlen]
  simp only [hown] <;> rfl

theorem State.Hearing.homeAnswer (q : Nat) : w.toState.homeAnswer u q = s.homeAnswer u q := by
  simp only [State.homeAnswer, h.conf, h.bu, h.entry]

theorem State.Hearing.homeListed (l : List Nat) : w.toState.homeListed l = s.homeListed l := by
  simp only [State.homeListed, State.listedQuanta, h.conf]

theorem State.Hearing.homeGrants (l : List Nat) : w.toState.homeGrants u l = s.homeGrants u l := by
  simp only [State.homeGrants, h.homeListed, h.homeAnswer]

theorem State.Hearing.homeGiveUp (l : List Nat) : w.toState.homeGiveUp u l = s.homeGiveUp u l := by
  simp only [State.homeGiveUp, h.homeListed, h.entry, h.conf, h.bu]

theorem State.Hearing.homeReason (l : List Nat) : w.toState.homeReason u l = s.homeReason u l := by
  simp only [State.homeReason, h.homeListed, h.homeAnswer]

end

theorem State.mem_homeListed (s : State) (l : List Nat) (q : Nat) :
    q ∈ s.homeListed l ↔ q < 128 ∧ q ∈ l ∧ q < s.conf.bCfg := by
  simp [State.homeListed, State.listedQuanta]

/-- A request lists no more quanta than it names. -/
theorem State.homeGrants_length (s : State) (u : Nat) (l : List Nat) : (s.homeGrants u l).length ≤ l.length :=
  (List.length_filter_le _ _).trans <|
    ((List.nodup_range.filter _).subperm fun _ hq => List.contains_iff_mem.1 (List.mem_filter.1 hq).2).length_le.trans <|
      (onceEach_length _).trans (List.length_filter_le _ _)

theorem State.homeAnswer_none (s : State) (u q : Nat) : s.homeAnswer u q = none ↔
    (s.conf.homeStation q = some u ∧ q < s.bu.bEff) ∧ (match s.entry q with
      | .mine => true
      | .draining .conflict _ => false
      | .draining .yield (some v) => v == u
      | .draining _ _ => true
      | _ => false) = true := by
  unfold State.homeAnswer
  by_cases hh : s.conf.homeStation q = some u ∧ q < s.bu.bEff
  · rw [if_neg (by simp [hh])]
    simp only [hh, and_self, true_and]
    split <;> simp_all
  · rw [if_pos (by rw [ne_eq, ← Nat.not_lt]; tauto)]
    simp [hh]

end Sys2Proof.Machine
end

section
/-! SUPPORT. The answer to a YIELD-REQ: its queueing, and what it says (O30). -/

namespace Sys2Proof.Machine

/-! ## The answer stays queued -/

theorem yieldAns_class {a r : Nat} {g : List Nat} (f : Frame) (h : (f == .yieldAns a r g) = true) : classOf f ≠ 4 := by
  rw [eq_of_beq h]
  simp [classOf, kindOf, kindChar]

section
variable {w : Work} (hf : w.lc.fresh) (hm : w.mc.mode ≠ .listening)
include hf hm

theorem Work.answer_queues (u : Nat) (r : YieldReason) (g : List Nat) : (w.answer u r g).lc.fresh ∧
    (w.answer u r g).lc.has fun f => f == .yieldAns u (yieldReasonCode r) g := by
  rw [Work.answer_lc hm]
  exact ⟨w.lc.place_fresh hf _, w.lc.place_takes yieldAns_class (beq_self_eq_true _)⟩

end

/-- A RELEASE that is queued takes no answer from the queue. -/
theorem Work.giveUpPending_answer {w : Work} {a r : Nat} {g : List Nat} (hf : w.lc.fresh)
    (h : w.lc.has fun f => f == .yieldAns a r g) (qs : List Nat) :
    (w.giveUpPending true qs).lc.fresh ∧ (w.giveUpPending true qs).lc.has fun f => f == .yieldAns a r g := by
  unfold Work.giveUpPending
  dsimp only
  rw [if_pos rfl]
  have hfold : ∀ ps : List Nat, (ps.foldl (fun (v : Work) q => (v.setEntry q (w.toState.vacant q)).leaveClaim q) w).lc = w.lc :=
    fun ps => foldl_keeps (fun v : Work => v.lc) _ (fun _ _ => by simp) _ _
  refine ⟨Work.enqueue_fresh (by rw [hfold]; exact hf) _, ?_⟩
  rcases Work.enqueue_lc _ (Frame.release none (qs.filter fun q => w.toState.entry q == .pending)) with hl | hl <;>
    rw [hl, hfold]
  · exact h
  · exact Link.mergeOrPlace_has yieldAns_class (releaseQuanta_frame none) (fun _ _ k => by cases eq_of_beq k) hf _ h

/-- An answer is still queued after a step that concludes nothing. -/
theorem Work.rests.answers {w : Work} (h : w.rests) {a r : Nat} {g : List Nat} (hf : w.lc.fresh)
    (hq : w.lc.has fun f => f == .yieldAns a r g) : w.finish.queues fun f => f == .yieldAns a r g := by
  obtain ⟨x, hx, hpx⟩ := hq
  exact (queues_iff _ _).2 ⟨x, (h.retains hf).2 x hx (yieldAns_class _ hpx), hpx⟩

theorem vacant_congr {s t : State} (h : t.bu = s.bu) (q : Nat) : t.vacant q = s.vacant q := by
  simp only [State.vacant, h]

/-! ## What a HOME request changes and what its answer says -/

/-- What a HOME request of `u` that lists `l` makes of entry `q` (R101). -/
def State.homeEntry (s : State) (u : Nat) (l : List Nat) (q : Nat) : QEntry :=
  if q ∈ l ∧ q < s.conf.bCfg ∧ q < s.bu.bEff ∧ s.conf.homeStation q = some u then
    match s.entry q with
    | .mine => .draining .yield (some u)
    | .draining .conflict w => .draining .conflict w
    | .draining .yield (some v) => .draining .yield (some v)
    | .draining _ _ => .draining .yield (some u)
    | .pending => s.vacant q
    | e => e
  else s.entry q

theorem State.mem_homeGrants (s : State) (u : Nat) (l : List Nat) (q : Nat) :
    q ∈ s.homeGrants u l ↔ (q < 128 ∧ q ∈ l ∧ q < s.conf.bCfg) ∧ s.homeAnswer u q = none := by
  simp [State.homeGrants, State.mem_homeListed]

theorem State.mem_homeGiveUp (s : State) (u : Nat) (l : List Nat) (q : Nat) :
    q ∈ s.homeGiveUp u l ↔ (q < 128 ∧ q ∈ l ∧ q < s.conf.bCfg) ∧ (s.entry q = .pending ∧
      s.conf.homeStation q = some u) ∧ q < s.bu.bEff := by
  simp [State.homeGiveUp, State.mem_homeListed]

/-- The entries are those of the grants and of what is given up. -/
theorem State.homeEntry_eq (s : State) (u : Nat) (l : List Nat) {q : Nat} (hq : q < 128) : s.homeEntry u l q =
    if q ∈ s.homeGiveUp u l then s.vacant q
    else if q ∈ s.homeGrants u l then (s.entry q).grantedTo u else s.entry q := by
  rw [State.homeEntry]
  by_cases hl : q ∈ l ∧ q < s.conf.bCfg ∧ q < s.bu.bEff ∧ s.conf.homeStation q = some u
  · rw [if_pos hl]
    obtain ⟨hin, hcfg, heff, hhome⟩ := hl
    simp only [State.mem_homeGiveUp, State.mem_homeGrants, State.homeAnswer_none, hq, hin, hcfg, heff, hhome, and_self,
      true_and, and_true]
    split <;> simp_all [QEntry.grantedTo]
  · rw [if_neg hl, if_neg, if_neg]
    · rw [State.mem_homeGrants, State.homeAnswer_none]
      tauto
    · rw [State.mem_homeGiveUp]
      tauto

/-- The reason a listed quantum gives, by its code (R101, R185). -/
def State.homeCode (s : State) (u : Nat) (l : List Nat) (q : Nat) : Option Nat :=
  if q ∈ l ∧ q < s.conf.bCfg then
    if s.conf.homeStation q ≠ some u ∨ s.bu.bEff ≤ q then some 2
    else match s.entry q with
      | .mine => none
      | .draining .conflict _ => some 2
      | .draining .yield (some v) => if v = u then none else some 3
      | .draining _ _ => none
      | _ => some 2
  else none

theorem State.homeCode_eq (s : State) (u : Nat) (l : List Nat) (q : Nat) : s.homeCode u l q =
    (if (s.listedQuanta l).contains q then s.homeAnswer u q else none).map yieldReasonCode := by
  have hlisted : (s.listedQuanta l).contains q = true ↔ q ∈ l ∧ q < s.conf.bCfg := by simp [State.listedQuanta]
  unfold State.homeCode State.homeAnswer
  simp only [hlisted]
  by_cases hl : q ∈ l ∧ q < s.conf.bCfg
  · rw [if_pos hl, if_pos hl]
    by_cases hh : s.conf.homeStation q ≠ some u ∨ s.bu.bEff ≤ q
    · rw [if_pos hh, if_pos hh]
      rfl
    · rw [if_neg hh, if_neg hh]
      cases s.entry q with
      | draining r b =>
        cases r with
        | yield =>
          cases b with
          | none => rfl
          | some v => by_cases hv : v = u <;> simp [hv, yieldReasonCode]
        | _ => rfl
      | _ => rfl
  · rw [if_neg hl, if_neg hl]
    rfl

/-- The refusal reason is that of the lowest listed quantum that gives one. -/
theorem State.homeReason_code (s : State) (u : Nat) (l : List Nat) :
    yieldReasonCode (s.homeReason u l) = ((List.range 128).findSome? (s.homeCode u l)).getD 0 := by
  rw [funext (s.homeCode_eq u l), State.homeReason, State.homeListed, findSome?_filter]
  rw [show (fun q => (if (s.listedQuanta l).contains q then s.homeAnswer u q else none).map yieldReasonCode) =
    Option.map yieldReasonCode ∘ fun q => if (s.listedQuanta l).contains q then s.homeAnswer u q else none from rfl,
    ← List.map_findSome?]
  cases (List.range 128).findSome? fun q => if (s.listedQuanta l).contains q then s.homeAnswer u q else none <;> rfl

/-- The grants are the listed quanta below both budgets that are the requester's home and can be had. -/
theorem State.homeGrants_eq (s : State) (u : Nat) (l : List Nat) : s.homeGrants u l = (List.range 128).filter fun q =>
    l.contains q && decide (q < s.conf.bCfg ∧ q < s.bu.bEff ∧ s.conf.homeStation q = some u) && match s.entry q with
      | .mine => true
      | .draining .conflict _ => false
      | .draining .yield (some v) => v == u
      | .draining _ _ => true
      | _ => false := by
  rw [State.homeGrants, State.homeListed, List.filter_filter]
  refine List.filter_congr fun q _ => ?_
  rw [Bool.eq_iff_iff]
  simp only [Bool.and_eq_true, beq_iff_eq, State.homeAnswer_none, List.contains_iff_mem, State.listedQuanta, mem_onceEach,
    List.mem_filter, decide_eq_true_eq]
  tauto

/-! ## The request heard -/

section
variable {s : State} {u : Nat} {x : Peer} {w : Work} (hw : s.Hearing u x w) (hcalm : s.calm)
  (hux : s.ptu.entries[u]? = some x) (hlive : x.state = .live ∨ x.state = .silent ∨ x.state = .expelled)
  (hmode : s.mc.mode = .active ∨ s.mc.mode = .isolated) (hst : s.stamped)
include hw hcalm hux hlive hmode hst

/-- A SURPLUS request is granted the highest of the own surplus, and its answer says whether that was enough (R100). -/
theorem State.Hearing.surplus {c : Nat} {g : List Nat} (hlen : s.map.length = 128)
    (hg : g = (((List.range 128).filter fun q => s.entry q == .mine && !s.ownHome q).reverse).take
      (min c (s.heldCount - s.recordTarget - ((List.range 128).filter fun q => match s.entry q with
        | .draining .yield (some _) => true
        | .draining .conflict (some _) => true
        | _ => false).length))) :
    (∀ q, q < 128 → (w.answerYield u c .surplus []).finish.entry q =
      if q ∈ g then .draining .yield (some u) else s.entry q) ∧
    ((w.answerYield u c .surplus []).finish.queues fun f => f == .yieldAns u (if g.length = c then 0 else 1) g.reverse) ∧
    (∀ q ∈ g, q ∈ (w.answerYield u c .surplus []).finish.hc.drains.map Drain.quantum) ∧
    (w.answerYield u c .surplus []).finish.bu = s.bu ∧
    s.heardFrom (w.answerYield u c .surplus []).finish u := by
  have happ := w.answerYield_appliesTo u c .surplus []
  have hrest := hw.rests happ hcalm
  have hgrant := (hw.surplusGrant hlen c).trans hg.symm
  rw [Work.answerYield_surplus (hw.answers hux hlive hmode), hgrant] at happ hrest ⊢
  have hm : (w.startDrain .yield (some u) g.reverse).mc.mode ≠ .listening :=
    hw.mode_ne_listening (by rcases hmode with k | k <;> simp [k])
  obtain ⟨hmap, hhc, -, hbu, -⟩ := (w.startDrain .yield (some u) g.reverse).answer_keeps u
    (if g.length = c then .none else .noSurplus) g.reverse
  obtain ⟨hfresh, hqueued⟩ := Work.answer_queues (w := w.startDrain .yield (some u) g.reverse) (hw.fresh hst) hm
    u (if g.length = c then .none else .noSurplus) g.reverse
  have hmine : ∀ q ∈ g, s.entry q = .mine := fun q hq => by
    rw [hg] at hq
    have := List.mem_of_mem_take hq
    simp only [List.mem_reverse, List.mem_filter, Bool.and_eq_true, beq_iff_eq] at this
    exact this.2.1
  refine ⟨fun q _ => ?_, ?_, fun q hq => ?_, ?_, hw.heardFrom happ hcalm⟩
  · rw [hrest.entry, Work.grantsSurplus, entry_eq_of_map _ _ hmap, Work.entry_startDrain, hw.entry]
    by_cases hq : q ∈ g
    · rw [if_pos ⟨List.mem_reverse.2 hq, hmine q hq⟩, if_pos hq]
    · rw [if_neg fun k => hq (List.mem_reverse.1 k.1), if_neg hq]
  · have hans := hrest.answers hfresh hqueued
    rw [apply_ite yieldReasonCode] at hans
    exact hans
  · change q ∈ (Work.finish _).hc.drainQuanta
    rw [hrest.drainQuanta, Work.grantsSurplus, hhc, Work.startDrain_drainQuanta]
    exact List.mem_append_right _ (List.mem_filter.2 ⟨List.mem_reverse.2 hq, by rw [hw.entry, hmine q hq]; rfl⟩)
  · obtain ⟨-, fbu, -⟩ := hrest.blocks
    exact fbu.trans (hbu.trans hw.bu)

/-- A HOME request is granted by the table of R101, and its answer names what was granted. -/
theorem State.Hearing.home {c : Nat} {l : List Nat} (hl : l.length ≤ 8) :
    (∀ q, q < 128 → (w.answerYield u c .home l).finish.entry q = s.homeEntry u l q) ∧
    ((w.answerYield u c .home l).finish.queues fun f =>
      f == .yieldAns u (yieldReasonCode (s.homeReason u l)) (s.homeGrants u l)) ∧
    (w.answerYield u c .home l).finish.bu = s.bu ∧
    s.heardFrom (w.answerYield u c .home l).finish u := by
  have happ := w.answerYield_appliesTo u c .home l
  have hrest := hw.rests happ hcalm
  have hshort : (s.homeGrants u l).length ≤ 8 :=
    (s.homeGrants_length _ _).trans hl
  rw [Work.answerYield_home (hw.answers hux hlive hmode), hw.homeGrants, hw.homeReason, hw.homeGiveUp,
    List.take_of_length_le hshort] at happ hrest ⊢
  have hm : (w.grantAll u (s.homeGrants u l)).mc.mode ≠ .listening := by
    rw [Work.grantAll_mc]
    exact hw.mode_ne_listening (by rcases hmode with k | k <;> simp [k])
  obtain ⟨hmap, -, -, hbu, -⟩ := (w.grantAll u (s.homeGrants u l)).answer_keeps u
    (s.homeReason u l) (s.homeGrants u l)
  obtain ⟨hfresh, hqueued⟩ := Work.answer_queues (by rw [Work.grantAll_lc]; exact hw.fresh hst) hm
    u (s.homeReason u l) (s.homeGrants u l)
  refine ⟨fun q hq => ?_, ?_, ?_, hw.heardFrom happ hcalm⟩
  · have hvacant := vacant_congr (hbu.trans ((Work.grantAll_bu _ _ _).trans hw.bu)) q
    rw [hrest.entry, Work.entry_giveUpPending, hvacant, entry_eq_of_map _ _ hmap, Work.entry_grantAll, hw.entry,
      s.homeEntry_eq _ _ hq]
    by_cases hgive : q ∈ s.homeGiveUp u l
    · obtain ⟨-, ⟨hpend, -⟩, -⟩ := (s.mem_homeGiveUp _ _ _).1 hgive
      rw [if_pos hgive, if_pos ⟨hgive, by rw [hpend]; exact ite_self _⟩]
    · rw [if_neg fun k => hgive k.1, if_neg hgive]
  · obtain ⟨hfresh', hqueued'⟩ := Work.giveUpPending_answer hfresh hqueued (s.homeGiveUp u l)
    exact hrest.answers hfresh' hqueued'
  · obtain ⟨-, fbu, -⟩ := hrest.blocks
    rw [fbu]
    simp [hbu, Work.grantAll_bu, hw.bu]

end

/-- Settles O30: what is granted drains for the requester, and the answer says so. -/
theorem yieldRequestHeardIsAnswered : Obligations.YieldRequestHeardIsAnswered := by
  refine ⟨fun u c x g s hh hcalm hlive hmode h1 h8 hown hsh hst hg =>
      ⟨_, by rw [exec_yieldReq, heard_applies hh (parsePayload_surplus h1 h8)], ?_⟩,
    fun u c p x s hh hcalm hlive hmode h1 h8 hlen hown hsh hst hps =>
      ⟨_, by rw [exec_yieldReq, heard_applies hh (parsePayload_home h1 h8 hlen)], ?_⟩,
    fun u g c x s hh hcalm h1 h8 hno =>
      ⟨_, by rw [exec_yieldReq, heard_applies hh (parsePayload_surplus h1 h8)], ?_⟩⟩
  · obtain ⟨-, -, -, hux⟩ := hh
    rw [byte_own hown]
    have hw := hearing_spec (f := .yieldReq s.own c.toNat .surplus []) rfl hux
    generalize s.hearing u.toNat (.yieldReq s.own c.toNat .surplus []) = w at hw ⊢
    rw [← hw.own, Work.applyFrame_yieldReq]
    exact hw.surplus hcalm hux hlive hmode hst hsh.1 hg
  · obtain ⟨-, -, -, hux⟩ := hh
    rw [byte_own hown]
    have hw := hearing_spec (f := .yieldReq s.own c.toNat .home (quantaOf p)) rfl hux
    generalize s.hearing u.toNat (.yieldReq s.own c.toNat .home (quantaOf p)) = w at hw ⊢
    rw [← hw.own, Work.applyFrame_yieldReq]
    obtain ⟨hentry, hans, hbu, hfrom⟩ := hw.home hcalm hux hlive hmode hst (c := c.toNat) (l := quantaOf p)
      (by simpa [quantaOf, hlen] using h8)
    obtain ⟨f, hf, heq⟩ := (queues_iff _ _).1 hans
    refine ⟨hentry, (queues_iff _ _).2 ⟨f, hf, ?_⟩, hbu, hfrom⟩
    rw [eq_of_beq heq]
    exact Bool.and_eq_true_iff.2 ⟨Bool.and_eq_true_iff.2 ⟨beq_self_eq_true _, beq_iff_eq.2 (s.homeReason_code _ _)⟩,
      beq_iff_eq.2 (s.homeGrants_eq _ _)⟩
  · obtain ⟨-, -, -, hux⟩ := hh
    have hw := hearing_spec (f := .yieldReq g.toNat c.toNat .surplus []) rfl hux
    generalize s.hearing u.toNat (.yieldReq g.toNat c.toNat .surplus []) = w at hw ⊢
    have hsame : w.applyFrame u.toNat (.yieldReq g.toNat c.toNat .surplus []) = w := by
      by_cases hg : g.toNat = w.toState.own
      · rw [hg, Work.applyFrame_yieldReq, Work.answerYield_not (hw.answers_not (hno.resolve_left fun k => k (hg.trans hw.own)))]
      · exact Work.applyFrame_yieldReq_other hg _ _ _ _
    rw [hsame]
    have happ := w.appliesTo_refl
    obtain ⟨-, fbu, fmap, -⟩ := (hw.rests happ hcalm).blocks
    exact ⟨fmap.trans hw.map, fbu.trans hw.bu, hw.heardFrom happ hcalm⟩

end Sys2Proof.Machine
end
